-- ==== Sys2Proof/Word.lean ====
section
/-! DEFINITION. The word types of the part (R5, R8, R20). -/

namespace Sys2Proof

/-- One byte (R5). -/
abbrev Byte := BitVec 8

/-- One 64-bit word, the unit the part stores (R20). -/
abbrev Word := BitVec 64

/-- A value of the local time counter, in ns (R8, R395). -/
abbrev Ltc := BitVec 64

end Sys2Proof
end

