-- ==== Sys2Proof/Config.lean ====
section
/-! DEFINITION. What one part fixes, and the free values the manual leaves open.

Every `opaque` below has no body: nothing proves anything about its value (log entry 2).
`freeBits` is read through the counter `State.draws`, so that two draws need not agree. -/

namespace Sys2Proof

/-- The two variants (R15). -/
inductive Variant where
  | tr12
  | tr6
  deriving DecidableEq, Repr

namespace Config

/-- The n-th free value the part draws: random bits (R329, R331, R345), or a value the manual leaves open. -/
opaque freeBits : Nat → Nat

/-- The ciphertext of a line (528 bits: data, then metadata) under a key: key, line, plaintext. The keys are secret, so the
values are open (R333, R334). -/
opaque cipherLine : Nat → Nat → Nat → Nat

/-- The plaintext that 528 bits decrypt to under a key they were not encrypted with, or after they changed (R333, R334). -/
opaque decipherLine : Nat → Nat → Nat → Nat

/-- What a line of a segment whose refresh was stopped holds (R80): line, and the number of the loss. -/
opaque lostLine : Nat → Nat → Nat

/-- The exponential of the vector unit: any value within the bound of R183 is allowed, none is chosen. -/
opaque vexp : Nat → Nat

/-- The logarithm of the vector unit, whose rounding R207 does not state. -/
opaque vln : Nat → Nat

/-- Which of the two FP32 neighbours of an inexact quotient the vector unit gives: R207 and R221 state no rounding. -/
opaque vdiv : Nat → Nat → Nat

/-- Which of the NaN patterns of an element format a NaN element gets (R184 names none). -/
opaque nanElem : Nat → Nat

/-- The order in which items return from the stacks, the fabric or the tiles (R203, R209, R221):
a sort key of item i in the n-th such race. -/
opaque orderKey : Nat → Nat → Nat

/-- The earlier position that the LZ4 encoder's one probe names: the data of a unit, the position. The hash function is not stated
(R85). -/
opaque lz4Probe : Nat → Nat → Nat

/-- Digests, public keys, key confirmations and signatures: standards the manual cites, keyed by secrets it does not give
(R325-R329). The first argument names the use: 1 issuer digest, 2 AK_PUB, 3 EK, 4 Hallmark signature, 5 session
confirmation KC, 6 its signature, 7 digest of a firmware image, 8 ROM digest, 9 Assay signature, 10 digest of a firmware
signing key, 11 digest of a firmware image's body, 12 SHAKE256-512 digest of a life-cycle signer's key, 13 owner secret from the ciphertext
decapsulated under the device's DK. -/
opaque digest : Nat → List Nat → Nat

/-- The digest of Juzor's firmware key that the Hecor ROM holds (R324, R364, R365). -/
opaque romSigner : BitVec 256

/-- The digest of Juzor's issuing key that the Hecor ROM holds (R324). -/
opaque romIssuer : BitVec 512

/-- The digest of the owner's key and the owner secret that the fuses of the part modelled hold at reset (R324, log entry 8), and
the manufacturing secret (R323). -/
opaque fusedOwner : BitVec 512
opaque fusedSecret : BitVec 256
opaque makerSecret : BitVec 256

/-- The keystream of AES-256-GCM under a session key, which is secret (R330): session, nonce, index of the byte. -/
opaque sessionStream : BitVec 32 → Nat → Nat → BitVec 8

/-- The tag of AES-256-GCM under a session key (R44, R330): session, nonce, header, ciphertext. -/
opaque sessionTag : BitVec 32 → Nat → Nat → List (BitVec 8) → BitVec 128

/-- The keystream of AES-256-GCM under a job key, which its binding stands for (R340, R341): binding, nonce, index of the byte. -/
opaque jobStream : BitVec 512 → Nat → Nat → BitVec 8

/-- The tag of AES-256-GCM under a job key, truncated to 64 bits (R263, R341): binding, nonce, header, ciphertext. -/
opaque jobTag : BitVec 512 → Nat → Nat → Nat → BitVec 64

/-- Where a controller stands in its frame of turns at LTC 0 (R351), in ns: by controller. -/
opaque turnPhase : Nat → Nat

/-- The fused unique ID of the part modelled (log entry 8). -/
opaque fusedUid : BitVec 64

end Config

end Sys2Proof
end

