-- ==== Sys2Proof/Syntax.lean ====
section
/-! DEFINITION. The commands the part takes: one constructor of `Instr` for each row of spec/opcode_table.json,
and the records their operands are made of.

Every command carries `t`, the LTC at which it takes place (log entry 1).
A row that is an opcode of R57 carries `h`, the header of the command packet that executes. -/

namespace Sys2Proof

/-- The two Kaferlink ports (R36). -/
inductive KPort where
  | a
  | b
  deriving DecidableEq, Repr

/-- The two fabric dies, which are the power domains A and B of R354 (R9). -/
inductive FDie where
  | f0
  | f1
  deriving DecidableEq, Repr

/-- A Kaferlink frame (R37): header, payload and trailer. `rsv` holds the header's RSV bits, lowest first (bits 4..15, 59..63,
80..127), `tail` those of the trailer. -/
structure Frame where
  ftype : BitVec 4
  fseq : BitVec 16
  ack : BitVec 16
  firstMark : BitVec 11
  replayFrom : BitVec 16
  rsv : BitVec 65
  payload : List Byte
  crc : BitVec 32
  tail : BitVec 96
  deriving DecidableEq, Repr

/-- The command header of R44. -/
structure CmdHdr where
  version : BitVec 8
  opcode : BitVec 16
  tag : BitVec 32
  target : BitVec 12
  tenant : BitVec 12
  flags : BitVec 16
  deadline : BitVec 48
  paramLen : BitVec 16
  modeGen : BitVec 16
  rsv : BitVec 16
  session : BitVec 32
  seq : BitVec 32
  deriving DecidableEq, Repr

/-- How a command packet reached the part: on a Kaferlink port, relayed by a part, or path-routed (R36, R41, R45, R283). `back`
is the HOPS field of the cells that answer a path-routed command: the recorded hops in reverse, the first being the port the
command arrived on. -/
inductive CmdSource where
  | kafer (p : KPort)
  | relayed (part : BitVec 12)
  | path (port : BitVec 4) (back : BitVec 120)
  deriving DecidableEq, Repr

/-- The reply packet of R48: header fields and payload bytes. -/
structure Reply where
  opcode : BitVec 16
  tag : BitVec 32
  source : BitVec 12
  tenant : BitVec 12
  late : Bool
  relayed : Bool
  held : Bool
  reexec : Bool
  anvilB : Bool
  resent : Bool
  doneLtc : BitVec 48
  appliedGen : BitVec 16
  status : BitVec 16
  session : BitVec 32
  seq : BitVec 32
  payload : List Byte
  deriving DecidableEq, Repr

/-- A packet of a relayed part that reaches the relaying part (R41, R55): a reply, its payload and tag as they are carried, or an
event packet. -/
inductive RelayMsg where
  | reply (r : Reply) (tag : BitVec 128)
  | event (packet : List Byte)
  deriving DecidableEq, Repr

/-- An engine, in the ENGINE encoding of R118: bits 0..3 unit, 4..6 cluster, 7 die, 8..10 group. -/
abbrev Eng := BitVec 11

/-- A line of 64 bytes: eight data words, eight pairs of metadata bits and eight poison marks (R20, R23, R147). -/
structure Line where
  data : BitVec 512
  meta2 : BitVec 16
  poison : BitVec 8
  deriving DecidableEq, Repr

/-- What a node outside the part answers to one line access of an engine (R179, R279). -/
inductive RemoteRes where
  | data (l : Line)
  | old (v : Word)
  | done
  | refused
  | timeout
  deriving DecidableEq, Repr

/-- What the outside gives back within one engine step: lines that outside owners return to `SNP_CUR` or `SNP_INV` (keyed by
local line number) and the answers of other nodes (keyed by NODE × 2^38 + node line number) (log entry 5). -/
structure Ext where
  owners : List (Nat × Line)
  remote : List (Nat × RemoteRes)
  deriving DecidableEq, Repr

/-- A fabric cell: the header of R260 without its link word, and the payload. -/
structure Cell where
  hops : BitVec 120
  hopPtr : BitVec 5
  age : BitVec 6
  dest : BitVec 12
  src : BitVec 12
  cls : BitVec 3
  op : BitVec 5
  repoch : BitVec 4
  gen : BitVec 8
  enc : Bool
  owner : BitVec 13
  sseq : BitVec 16
  addr : BitVec 35
  lines : BitVec 8
  plines : BitVec 8
  meta128 : BitVec 128
  payload : BitVec 4096
  check : BitVec 64
  deriving DecidableEq, Repr

/-- The link word of a cell (R260, R294). -/
structure LinkWord where
  lseq : BitVec 10
  lack : BitVec 10
  sack : BitVec 32
  kind : BitVec 2
  retx : Bool
  av : Bool
  cclass : BitVec 3
  credits : BitVec 5
  deriving DecidableEq, Repr

/-- A link-control message (R294). -/
structure LinkMsg where
  msg : BitVec 8
  reqNum : BitVec 8
  uid : BitVec 64
  partId : BitVec 12
  sink : Bool
  seen : Bool
  pool : BitVec 10
  reserve : BitVec 8
  laneMask : BitVec 16
  width : BitVec 5
  deriving DecidableEq, Repr

/-- What the FEC decoder says of an arriving cell (R289): symbols corrected, codewords found uncorrectable with it, and whether it
overlaps one found so before. -/
structure Fec where
  corrected : BitVec 16
  uncorrectable : BitVec 16
  overlaps : Bool
  deriving DecidableEq, Repr

/-- A memory unit: stack pseudo-channel 0..383 or DDR5 channel 0..11 (R66, R71). -/
inductive MemUnit where
  | stack (n : BitVec 9)
  | ddr (n : BitVec 4)
  deriving DecidableEq, Repr

/-- A request at a memory controller: line address (byte address div 64), write flag, word mask and line (R67, R75); at a DDR
channel it is for the two lines of a burst, `val2` and the mask's high half being those of the second (R72). -/
structure MemReq where
  line : BitVec 40
  write : Bool
  mask : BitVec 16
  val : Line
  val2 : Line
  deriving DecidableEq, Repr

/-- The words or rows a scrubber visits (R253). -/
inductive ScrubUnit where
  | stack (line : BitVec 34)
  | ddr (line : BitVec 37)
  | sram (word : BitVec 48)
  deriving DecidableEq, Repr

/-- A clock island or array that can stop (R390, R394): tile of a core die, whole cluster island, macro group, Anvil island. -/
inductive Island where
  | tile (die : BitVec 1) (tile : BitVec 7)
  | cluster (die : BitVec 1) (cluster : BitVec 3)
  | anvil (d : FDie)
  deriving DecidableEq, Repr

/-- Which wait of the translation epoch ends (R105, R122, R91). -/
inductive EpochWait where
  | invalidate (tenant : BitVec 10)
  | release (ingot : BitVec 16)
  | demote (tenant : BitVec 10) (page : BitVec 36)
  deriving DecidableEq, Repr

/-- One regulator's answer to a poll (R375, R389). -/
structure PmbReading where
  rail : BitVec 4
  answered : Bool
  voutMv : BitVec 16
  ioutA : BitVec 16
  tempC : BitVec 8
  status : BitVec 16
  deriving DecidableEq, Repr

/-- The DIMM population that the SPD read of phase B8 finds (R71): channels with a DIMM, the capacity of each in GiB, and the
speeds it supports (bits 0, 1, 2: 6,400, 7,200, 8,000 MT/s), in channel order. -/
structure Dimms where
  channels : BitVec 12
  gib : List (BitVec 10)
  speeds : List (BitVec 3)
  deriving DecidableEq, Repr

/-- The commands. A frame's `good` says that both its codewords could be corrected (R39). A command packet's `body` is what
stands behind its header, as carried; `params` are its parameters in the clear, and `tagOk` says that its tag verifies (R44,
R330). -/
inductive Instr where
  -- Kaferlink and the command protocol
  | kaferlinkFrame (t : Ltc) (p : KPort) (f : Frame) (good : Bool)
  | replayRequest (t : Ltc) (p : KPort) (replayFrom ack : BitVec 16)
  | ackTimeout (t : Ltc) (p : KPort)
  | commandReceive (t : Ltc) (src : CmdSource) (h : CmdHdr) (params body : List Byte) (tagOk : Bool)
  | commandBegin (t : Ltc)
  | inProgress (t : Ltc) (session seq : BitVec 32)
  | replyPortFallback (t : Ltc) (session seq : BitVec 32)
  | relayReply (t : Ltc) (m : RelayMsg)
  | relayTimeout (t : Ltc) (target : BitVec 12) (session seq : BitVec 32)
  | replyAck (t : Ltc) (session seq : BitVec 32)
  | replyAckTimeout (t : Ltc) (session seq : BitVec 32)
  | eventRepeat (t : Ltc) (eventSeq : BitVec 32)
  | genDiscard (t : Ltc)
  | modeApply (t : Ltc)
  -- opcodes of R57
  | nop (t : Ltc) (h : CmdHdr)
  | identify (t : Ltc) (h : CmdHdr)
  | sessionOpen (t : Ltc) (h : CmdHdr) (slot subscriber : Byte) (node : BitVec 16) (ct : BitVec 12544)
  | sessionClose (t : Ltc) (h : CmdHdr) (id : BitVec 32)
  | assignPartId (t : Ltc) (h : CmdHdr) (id : BitVec 16)
  | neighbours (t : Ltc) (h : CmdHdr)
  | eventAck (t : Ltc) (h : CmdHdr) (eventSeq : BitVec 32)
  | relayListSet (t : Ltc) (h : CmdHdr) (parts : List (BitVec 16))
  | csrRead (t : Ltc) (h : CmdHdr) (addr : BitVec 32) (width : Byte) (count : BitVec 16)
  | csrWrite (t : Ltc) (h : CmdHdr) (addr : BitVec 32) (width : Byte) (values : List Word)
  | csrModify (t : Ltc) (h : CmdHdr) (addr : BitVec 32) (width : Byte) (mask value : Word)
  | csrPoll (t : Ltc) (h : CmdHdr) (addr : BitVec 32) (width : Byte) (mask value : Word) (limit : BitVec 16)
  | pollTimeout (t : Ltc) (session seq : BitVec 32)
  | registerWrite (t : Ltc) (addr : BitVec 32) (v : Word)
  | modeArm (t : Ltc) (h : CmdHdr) (gen : BitVec 16)
  | modeCommit (t : Ltc) (h : CmdHdr) (gen : BitVec 16) (act : BitVec 48)
  | modeClose (t : Ltc) (h : CmdHdr) (gen : BitVec 16)
  | modeAbort (t : Ltc) (h : CmdHdr) (gen : BitVec 16)
  | ingotAdd (t : Ltc) (h : CmdHdr) (e : BitVec 128)
  | ingotRelease (t : Ltc) (h : CmdHdr) (ingot : BitVec 16)
  | ingotQuery (t : Ltc) (h : CmdHdr) (ingot : BitVec 16)
  | tierMove (t : Ltc) (h : CmdHdr) (va : Word) (pages : BitVec 32) (dest : Byte)
  | interleaveSet (t : Ltc) (h : CmdHdr) (grain : Byte)
  | pageInvalidate (t : Ltc) (h : CmdHdr) (va : Word) (pages : BitVec 32)
  | epochWaitDone (t : Ltc) (w : EpochWait)
  | tenantCreate (t : Ltc) (h : CmdHdr) (e : BitVec 512)
  | tenantDestroy (t : Ltc) (h : CmdHdr)
  | jobkeyEstablish (t : Ltc) (h : CmdHdr) (slot : BitVec 16) (binding : BitVec 512) (ct : BitVec 12544) (confirmOk : Bool)
  | jobkeyRetire (t : Ltc) (h : CmdHdr) (slot : BitVec 16)
  | tenantKeyRotate (t : Ltc) (h : CmdHdr)
  | partitionSet (t : Ltc) (h : CmdHdr) (e : BitVec 512)
  | routeDrain (t : Ltc) (h : CmdHdr) (mask : BitVec 16)
  | drainComplete (t : Ltc)
  | routeTableWrite (t : Ltc) (h : CmdHdr) (epoch first : BitVec 16) (entries : List (BitVec 32))
  | routeEpochSet (t : Ltc) (h : CmdHdr) (epoch : BitVec 16)
  | congestionRead (t : Ltc) (h : CmdHdr) (mask : BitVec 16)
  | portDisable (t : Ltc) (h : CmdHdr) (port action width : Byte)
  | portEnable (t : Ltc) (h : CmdHdr) (port width : Byte)
  | fastRetrain (t : Ltc) (h : Option CmdHdr) (port width : Byte)
  | widthChange (t : Ltc) (h : CmdHdr) (port width : Byte)
  | ringCreate (t : Ltc) (h : CmdHdr) (e : BitVec 512)
  | ringDestroy (t : Ltc) (h : CmdHdr) (ring : BitVec 16)
  | seqctxBind (t : Ltc) (h : CmdHdr) (ctx : BitVec 16) (va : Word) (x : Ext)
  | seqctxRelease (t : Ltc) (h : CmdHdr) (ctx : BitVec 16) (x : Ext)
  | reduceSlotReserve (t : Ltc) (h : CmdHdr) (count : BitVec 32)
  | reduceSlotRelease (t : Ltc) (h : CmdHdr)
  | engineSetEnable (t : Ltc) (h : CmdHdr) (bitmap : BitVec 512)
  | trafficTableWrite (t : Ltc) (h : CmdHdr) (table : Byte) (first : BitVec 16) (entries : List (BitVec 128))
  | counterSelect (t : Ltc) (h : CmdHdr) (cluster counter : Byte) (event : BitVec 16)
  | dumpRingSet (t : Ltc) (h : CmdHdr) (addr : Word) (size period : BitVec 32)
  | snapshotRead (t : Ltc) (h : CmdHdr) (group : BitVec 16)
  | samplingSet (t : Ltc) (h : CmdHdr) (rate : BitVec 32)
  | healthRead (t : Ltc) (h : CmdHdr)
  | powerStateSet (t : Ltc) (h : CmdHdr) (state : Byte)
  | throttleSet (t : Ltc) (h : CmdHdr) (mask : BitVec 32) (limit : BitVec 16)
  | anvilSwitchBack (t : Ltc) (h : CmdHdr)
  | scrubControl (t : Ltc) (h : CmdHdr) (enable : Byte) (mask : BitVec 32)
  | fwLoadBegin (t : Ltc) (h : CmdHdr) (length version : BitVec 32)
  | fwLoadChunk (t : Ltc) (h : CmdHdr) (offset : BitVec 32) (data : List Byte)
  | fwLoadEnd (t : Ltc) (h : CmdHdr) (sigOk : Bool)
  | fwActivate (t : Ltc) (h : CmdHdr) (anvil : Byte)
  | hallmarkRead (t : Ltc) (h : CmdHdr)
  | assayRequest (t : Ltc) (h : CmdHdr) (nonce : BitVec 256)
  | lifecycleAdvance (t : Ltc) (h : CmdHdr) (target : Byte) (signer : BitVec 14344) (sigOk : Bool) (ownerKey : BitVec 14344) (ct : BitVec 12544)
  | debugOpen (t : Ltc) (h : CmdHdr) (slot scope : BitVec 16)
  | debugRead (t : Ltc) (h : CmdHdr) (handle : BitVec 32) (addr : Word) (len : BitVec 16)
  | debugClose (t : Ltc) (h : CmdHdr) (handle : BitVec 32)
  | scanEnable (t : Ltc) (h : CmdHdr) (slot : BitVec 16) (durationUs : BitVec 32)
  | scanExpiry (t : Ltc)
  | reset (t : Ltc) (h : CmdHdr) (type : Byte)
  | resetEngines (t : Ltc)
  | resetControl (t : Ltc)
  | resetFabric (t : Ltc) (d : FDie)
  | resetPart (t : Ltc)
  | resetCore (t : Ltc)
  -- registers with behaviour of their own
  | xltRootWrite (t : Ltc) (tenant : BitVec 10) (v : Word)
  | xltPtwDataWrite (t : Ltc) (index : BitVec 9) (v : Word)
  | xltFqConsume (t : Ltc) (die : BitVec 1) (count : BitVec 13)
  | faultRetry (t : Ltc) (eng : BitVec 16) (task : BitVec 5) (fseq : BitVec 32)
  | faultAbort (t : Ltc) (eng : BitVec 16) (task : BitVec 5) (fseq : BitVec 32)
  | memLandPush (t : Ltc) (frame : BitVec 19)
  | memSectorRegionWrite (t : Ltc) (n : BitVec 3) (v : Word)
  | cohReclaimDeclareDead (t : Ltc) (aid : BitVec 14)
  | cohReclaimRevive (t : Ltc) (aid : BitVec 14)
  | reclaimWalkDone (t : Ltc)
  | writeRaw (t : Ltc)
  | readRaw (t : Ltc)
  | readDecoded (t : Ltc)
  -- memory
  | memRequest (t : Ltc) (u : MemUnit) (r : MemReq)
  | refresh (t : Ltc) (u : MemUnit) (bank : BitVec 6)
  | selfRefreshEntry (t : Ltc) (u : MemUnit)
  | bucketLeak (t : Ltc)
  | promotion (t : Ltc) (tenant : BitVec 10) (va : Word)
  | promotionDone (t : Ltc) (tenant : BitVec 10) (va : Word)
  | hotPage (t : Ltc)
  | hotEpoch (t : Ltc)
  | walkStart (t : Ltc) (eng : Eng) (task : BitVec 5) (va : Word) (write : Bool)
  | walkComplete (t : Ltc) (eng : Eng) (task : BitVec 5)
  -- rings and engines
  | dbTail (t : Ltc) (ring : BitVec 12) (tenant : BitVec 10) (v : BitVec 32)
  | dbCqHead (t : Ltc) (ring : BitVec 12) (tenant : BitVec 10) (v : BitVec 32)
  | fetchBatch (t : Ltc) (die : BitVec 1) (cluster : BitVec 3) (group : BitVec 3) (x : Ext)
  | descriptorArrival (t : Ltc) (ring : BitVec 12) (x : Ext)
  | descriptorBegin (t : Ltc) (eng : Eng)
  | steal (t : Ltc) (eng : Eng)
  | descriptorComplete (t : Ltc) (eng : Eng) (task : BitVec 5) (x : Ext)
  | deadlineMiss (t : Ltc) (ring : BitVec 12) (slot : BitVec 32)
  | fill (t : Ltc) (eng : Eng) (task : BitVec 5) (x : Ext)
  | copy (t : Ltc) (eng : Eng) (task : BitVec 5) (x : Ext)
  | compare (t : Ltc) (eng : Eng) (task : BitVec 5) (x : Ext)
  | reduce (t : Ltc) (eng : Eng) (task : BitVec 5) (x : Ext)
  | atomic (t : Ltc) (eng : Eng) (task : BitVec 5) (x : Ext)
  | attend (t : Ltc) (eng : Eng) (task : BitVec 5) (x : Ext)
  | append (t : Ltc) (eng : Eng) (task : BitVec 5) (x : Ext)
  | sketch (t : Ltc) (eng : Eng) (task : BitVec 5) (x : Ext)
  | matmul (t : Ltc) (eng : Eng) (task : BitVec 5) (x : Ext)
  | layerLockGrant (t : Ltc) (ctx : BitVec 11) (layer : BitVec 6)
  | chunkTake (t : Ltc) (eng : Eng) (x : Ext)
  | partialMerge (t : Ltc) (eng : Eng) (task : BitVec 5) (x : Ext)
  | gather (t : Ltc) (eng : Eng) (task : BitVec 5) (x : Ext)
  | pool (t : Ltc) (eng : Eng) (task : BitVec 5) (x : Ext)
  | reduceArm (t : Ltc) (eng : Eng) (task : BitVec 5) (x : Ext)
  | contribution (t : Ltc) (port : BitVec 4) (c : Cell)
  | reduceTimeout (t : Ltc) (eng : Eng) (task : BitVec 5)
  -- coherence: la is a line number, local address div 64
  | rdShared (t : Ltc) (aid : BitVec 14) (ln : BitVec 34)
  | rdOwn (t : Ltc) (aid : BitVec 14) (ln : BitVec 34)
  | upgrade (t : Ltc) (aid : BitVec 14) (ln : BitVec 34)
  | rdCur (t : Ltc) (aid : BitVec 14) (ln : BitVec 34)
  | wrLine (t : Ltc) (aid : BitVec 14) (ln : BitVec 34) (mask : BitVec 64) (l : Line)
  | homeAtomic (t : Ltc) (aid : BitVec 14) (ln : BitVec 34) (code : BitVec 4) (size8 : Bool) (offset : BitVec 6) (operand cmp : Word)
  | evictClean (t : Ltc) (aid : BitVec 14) (ln : BitVec 34)
  | writeback (t : Ltc) (aid : BitVec 14) (ln : BitVec 34) (l : Line)
  | rspI (t : Ltc) (aid : BitVec 14) (ln : BitVec 34)
  | rspS (t : Ltc) (aid : BitVec 14) (ln : BitVec 34)
  | rspIData (t : Ltc) (aid : BitVec 14) (ln : BitVec 34) (l : Line)
  | rspSData (t : Ltc) (aid : BitVec 14) (ln : BitVec 34) (l : Line)
  | rspWbInFlight (t : Ltc) (aid : BitVec 14) (ln : BitVec 34) (dirty : Bool)
  | lineDataFromStack (t : Ltc) (ln : BitVec 34)
  | snpInv (t : Ltc) (die : BitVec 1) (ln : BitVec 34)
  | snpShared (t : Ltc) (die : BitVec 1) (ln : BitVec 34)
  | snpCur (t : Ltc) (die : BitVec 1) (ln : BitVec 34)
  | dataS (t : Ltc) (die : BitVec 1) (ln : BitVec 34) (l : Line)
  | dataE (t : Ltc) (die : BitVec 1) (ln : BitVec 34) (l : Line)
  | grantE (t : Ltc) (die : BitVec 1) (ln : BitVec 34)
  | cmp (t : Ltc) (die : BitVec 1) (ln : BitVec 34) (old : Word)
  | wbAck (t : Ltc) (die : BitVec 1) (ln : BitVec 34)
  | nack (t : Ltc) (die : BitVec 1) (ln : BitVec 34)
  | refused (t : Ltc) (die : BitVec 1) (ln : BitVec 34) (status : BitVec 8)
  | snoopTimeout (t : Ltc) (ln : BitVec 34) (aid : BitVec 14)
  -- fabric requests, replies and streams
  | memReqRead (t : Ltc) (port : BitVec 4) (c : Cell) (x : Ext)
  | memReqWrite (t : Ltc) (port : BitVec 4) (c : Cell) (x : Ext)
  | writeMasked (t : Ltc) (port : BitVec 4) (c : Cell) (x : Ext)
  | writeCount (t : Ltc) (port : BitVec 4) (c : Cell) (x : Ext)
  | memReqAtomic (t : Ltc) (port : BitVec 4) (c : Cell) (x : Ext)
  | fence (t : Ltc) (port : BitVec 4) (c : Cell)
  | data (t : Ltc) (port : BitVec 4) (c : Cell)
  | ack (t : Ltc) (port : BitVec 4) (c : Cell)
  | status (t : Ltc) (port : BitVec 4) (c : Cell)
  | fenceDone (t : Ltc) (port : BitVec 4) (c : Cell)
  | ackHold (t : Ltc) (src : BitVec 12) (enc : Bool) (owner : BitVec 13)
  | retry (t : Ltc) (dest : BitVec 12) (enc : Bool) (owner : BitVec 13) (num : BitVec 48)
  | nackBackoff (t : Ltc) (dest : BitVec 12) (enc : Bool) (owner : BitVec 13) (num : BitVec 48)
  | completionTimeout (t : Ltc) (dest : BitVec 12) (enc : Bool) (owner : BitVec 13) (num : BitVec 48)
  | fenceGap (t : Ltc) (src : BitVec 12) (enc : Bool) (owner : BitVec 13)
  | streamEntryFree (t : Ltc) (src : BitVec 12) (enc : Bool) (owner : BitVec 13)
  | routerSlot (t : Ltc) (d : FDie) (cells : List (BitVec 4 × Cell))
  | congestionWindow (t : Ltc)
  -- traffic control
  | queueJoin (t : Ltc) (tenant : BitVec 10) (c : Cell)
  | schedulerSlot (t : Ltc) (port : BitVec 4)
  | gateSwap (t : Ltc) (port : BitVec 4)
  | gateIntervalEnd (t : Ltc) (port : BitVec 4)
  -- link layer
  | signalDetect (t : Ltc) (port : BitVec 4) (lanes : BitVec 16)
  | trainingComplete (t : Ltc) (port : BitVec 4) (lanes : BitVec 16)
  | hello (t : Ltc) (port : BitVec 4) (c : Cell)
  | helloTimer (t : Ltc) (port : BitVec 4)
  | retrainReq (t : Ltc) (port : BitVec 4) (c : Cell)
  | widthReq (t : Ltc) (port : BitVec 4) (c : Cell)
  | reqAck (t : Ltc) (port : BitVec 4) (c : Cell)
  | linkControlResend (t : Ltc) (port : BitVec 4)
  | widthChangeDone (t : Ltc) (port : BitVec 4)
  | linkDataCell (t : Ltc) (port : BitVec 4) (fec : Fec) (w : LinkWord) (c : Cell)
  | replayTimer (t : Ltc) (port : BitVec 4)
  | unackedLimit (t : Ltc) (port : BitVec 4)
  | signalLoss (t : Ltc) (port : BitVec 4)
  | laneFailure (t : Ltc) (port : BitVec 4) (lane : BitVec 4)
  | uncorrLimit (t : Ltc) (port : BitVec 4)
  -- SRAM, repair and wake
  | scrubRead (t : Ltc) (u : ScrubUnit)
  | annealPass (t : Ltc) (group : BitVec 9) (badRows badCols : BitVec 8)
  | wakeRequest (t : Ltc) (island : Island)
  | wakeComplete (t : Ltc) (island : Island)
  | tinning (t : Ltc) (cause : BitVec 2)
  | tinningDone (t : Ltc) (clean : Bool)
  | tamper (t : Ltc) (source : BitVec 3)
  | sweepStep (t : Ltc) (tenant : BitVec 10)
  -- the Anvil pair
  | heartbeat (t : Ltc)
  | heartbeatLoss (t : Ltc) (a : FDie)
  | standbySample (t : Ltc) (mailboxSeen sidebandSeen : Bool)
  | fenced (t : Ltc) (a : FDie)
  | isram (t : Ltc) (a : FDie)
  | touchstonePass (t : Ltc) (a : FDie) (failed : BitVec 8)
  | loaderCommand (t : Ltc)
  -- power
  | poresetN (t : Ltc)
  | railInWindow (t : Ltc) (rail : BitVec 4)
  | railEnableTimeout (t : Ltc) (rail : BitVec 4)
  | powerOnPhase (t : Ltc) (phase : BitVec 4) (far : Dimms)
  | phaseLate (t : Ltc) (phase : BitVec 4) (stackMask ddr : BitVec 12) (ports : BitVec 16)
  | bankFault (t : Ltc) (bank : FDie)
  | vrHot (t : Ltc) (bank : FDie)
  | warningLevelCrossing (t : Ltc) (rail : BitVec 4) (mv : BitVec 16)
  | throttleRelease (t : Ltc) (rail : BitVec 4) (minMv : BitVec 16) (belowNs : BitVec 32)
  | railResetLevel (t : Ltc) (rail : BitVec 4)
  | pmbusPoll (t : Ltc) (bank : FDie) (readings : List PmbReading)
  | thermalThrottle (t : Ltc) (die : BitVec 1) (coreC stackC : Byte)
  | thermalTrip (t : Ltc) (coreC fabC stackC : Byte)
  | vaonLoss (t : Ltc) (d : FDie)
  | vaonReturn (t : Ltc) (d : FDie)
  -- telemetry
  | dump (t : Ltc)
  | coalesceWindowEnd (t : Ltc) (cls code locKind : Byte) (locIndex : BitVec 12)
  | kaferlinkLinkUp (t : Ltc) (p : KPort)
  | kaferlinkLinkLoss (t : Ltc) (p : KPort)
  | demotionDone (t : Ltc) (tenant : BitVec 10) (va : Word)
  | poresetNLow (t : Ltc)
  | vrHotRelease (t : Ltc) (bank : FDie)
  deriving DecidableEq, Repr

end Sys2Proof
end

