-- ==== Sys2Proof/WellFormed.lean ====
section
/-! DEFINITION. Which commands are well formed: the ranges of operands that their types do not fix. A command outside them is
one that no sender can send; the meanings are total all the same. -/

namespace Sys2Proof

/-- Rails are numbered 0 to 13 (R370). -/
def railNumber (r : BitVec 4) : Bool := decide (r.toNat < 14)

/-- Phases B1 to B8 (R400). -/
def phaseNumber (n : BitVec 4) : Bool := decide (1 ≤ n.toNat ∧ n.toNat ≤ 8)

/-- Tamper sources 1 to 4 (R348). -/
def tamperSource (n : BitVec 3) : Bool := decide (1 ≤ n.toNat ∧ n.toNat ≤ 4)

/-- A Tinning has one of the three triggers of R255. -/
def tinningCause (n : BitVec 2) : Bool := decide (n.toNat ≠ 0)

/-- An engine's code: groups 0 to 4, bits 11 to 15 zero (R118). -/
def engineCode (e : Eng) : Bool := decide (e.toNat / 256 ≤ 4)

/-- The part has up to 384 pseudo-channels and 12 DDR5 channels (R66, R71). -/
def memUnit : MemUnit → Bool
  | .stack n => decide (n.toNat < 384)
  | .ddr n => decide (n.toNat < 12)

/-- A list of n parameters of a size fits the 8,192 bytes a command may carry (R44). -/
def fits (n size : Nat) : Bool := decide (n * size ≤ 8192)

/-- One capacity for each channel with a DIMM (R71). -/
def dimmsOk (f : Dimms) : Bool := decide (f.gib.length = ((List.range 12).filter fun i => f.channels.getLsbD i).length)

/-- No port gives a router two cells in one slot (R265). -/
def onePerPort : List (BitVec 4) → Bool
  | [] => true
  | a :: r => !r.contains a && onePerPort r

/-- The ports of a fabric die (R17). -/
def portsOf (d : FDie) (l : List (BitVec 4)) : Bool := l.all fun p => decide (p.toNat / 8 = match d with | .f0 => 0 | .f1 => 1)

/-- The command is well formed. -/
def Instr.wf : Instr → Bool
  | .kaferlinkFrame _ _ f _ => decide (f.payload.length = 1248)
  | .relayReply _ (.reply r _) => decide (r.payload.length ≤ 16384)
  | .relayReply _ (.event p) => decide (p.length < 65536)
  | .relayListSet _ _ parts => fits parts.length 2
  | .csrWrite _ _ _ _ values => fits values.length 8
  | .routeTableWrite _ _ _ _ entries => fits entries.length 4
  | .trafficTableWrite _ _ _ _ entries => fits entries.length 16
  | .fwLoadChunk _ _ _ bytes => fits bytes.length 1
  | .memRequest _ u _ => memUnit u
  | .refresh _ u _ => memUnit u
  | .selfRefreshEntry _ u => memUnit u
  | .walkStart _ eng _ _ _ => engineCode eng
  | .walkComplete _ eng _ => engineCode eng
  | .fetchBatch _ _ _ group _ => decide (group.toNat ≤ 4)
  | .descriptorBegin _ eng => engineCode eng
  | .steal _ eng => engineCode eng
  | .descriptorComplete _ eng _ _ => engineCode eng
  | .fill _ eng _ _ => engineCode eng
  | .copy _ eng _ _ => engineCode eng
  | .compare _ eng _ _ => engineCode eng
  | .reduce _ eng _ _ => engineCode eng
  | .atomic _ eng _ _ => engineCode eng
  | .attend _ eng _ _ => engineCode eng
  | .append _ eng _ _ => engineCode eng
  | .sketch _ eng _ _ => engineCode eng
  | .matmul _ eng _ _ => engineCode eng
  | .chunkTake _ eng _ => engineCode eng
  | .partialMerge _ eng _ _ => engineCode eng
  | .gather _ eng _ _ => engineCode eng
  | .pool _ eng _ _ => engineCode eng
  | .reduceArm _ eng _ _ => engineCode eng
  | .reduceTimeout _ eng _ => engineCode eng
  | .routerSlot _ d cells => onePerPort (cells.map Prod.fst) && portsOf d (cells.map Prod.fst)
  | .portDisable _ _ _ action _ => decide (action = 0 ∨ 3 < action.toNat)
  | .tinning _ cause => tinningCause cause
  | .tamper _ source => tamperSource source
  | .railInWindow _ rail => railNumber rail
  | .railEnableTimeout _ rail => railNumber rail
  | .powerOnPhase _ phase far => phaseNumber phase && dimmsOk far
  | .phaseLate _ phase _ _ _ => phaseNumber phase
  | .warningLevelCrossing _ rail _ => railNumber rail
  | .throttleRelease _ rail _ _ => railNumber rail
  | .railResetLevel _ rail => railNumber rail
  | .pmbusPoll _ _ readings => readings.all fun r => railNumber r.rail
  | .replayRequest .. | .ackTimeout .. | .commandReceive .. | .commandBegin .. | .inProgress ..
  | .replyPortFallback .. | .relayTimeout .. | .replyAck .. | .replyAckTimeout .. | .eventRepeat .. | .genDiscard ..
  | .modeApply .. | .nop .. | .identify .. | .sessionOpen .. | .sessionClose .. | .assignPartId .. | .neighbours ..
  | .eventAck .. | .csrRead .. | .csrModify .. | .csrPoll .. | .pollTimeout .. | .registerWrite .. | .modeArm ..
  | .modeCommit .. | .modeClose .. | .modeAbort .. | .ingotAdd .. | .ingotRelease .. | .ingotQuery .. | .tierMove ..
  | .interleaveSet .. | .pageInvalidate .. | .epochWaitDone .. | .tenantCreate .. | .tenantDestroy .. | .jobkeyEstablish ..
  | .jobkeyRetire .. | .tenantKeyRotate .. | .partitionSet .. | .routeDrain .. | .drainComplete .. | .routeEpochSet ..
  | .congestionRead .. | .portEnable .. | .fastRetrain .. | .widthChange .. | .ringCreate ..
  | .ringDestroy .. | .seqctxBind .. | .seqctxRelease .. | .reduceSlotReserve .. | .reduceSlotRelease ..
  | .engineSetEnable .. | .counterSelect .. | .dumpRingSet .. | .snapshotRead .. | .samplingSet .. | .healthRead ..
  | .powerStateSet .. | .throttleSet .. | .anvilSwitchBack .. | .scrubControl .. | .fwLoadBegin .. | .fwLoadEnd ..
  | .fwActivate .. | .hallmarkRead .. | .assayRequest .. | .lifecycleAdvance .. | .debugOpen .. | .debugRead ..
  | .debugClose .. | .scanEnable .. | .scanExpiry .. | .reset .. | .resetEngines .. | .resetControl .. | .resetFabric ..
  | .resetPart .. | .resetCore .. | .xltRootWrite .. | .xltPtwDataWrite .. | .xltFqConsume .. | .faultRetry ..
  | .faultAbort .. | .memLandPush .. | .memSectorRegionWrite .. | .cohReclaimDeclareDead .. | .cohReclaimRevive ..
  | .reclaimWalkDone .. | .writeRaw .. | .readRaw .. | .readDecoded .. | .bucketLeak .. | .promotion .. | .promotionDone ..
  | .hotPage .. | .hotEpoch .. | .dbTail .. | .dbCqHead .. | .descriptorArrival .. | .deadlineMiss .. | .layerLockGrant ..
  | .contribution .. | .rdShared .. | .rdOwn .. | .upgrade .. | .rdCur .. | .wrLine .. | .homeAtomic .. | .evictClean ..
  | .writeback .. | .rspI .. | .rspS .. | .rspIData .. | .rspSData .. | .rspWbInFlight .. | .lineDataFromStack ..
  | .snpInv .. | .snpShared .. | .snpCur .. | .dataS .. | .dataE .. | .grantE .. | .cmp .. | .wbAck .. | .nack ..
  | .refused .. | .snoopTimeout .. | .memReqRead .. | .memReqWrite .. | .writeMasked .. | .writeCount .. | .memReqAtomic ..
  | .fence .. | .data .. | .ack .. | .status .. | .fenceDone .. | .ackHold .. | .retry .. | .nackBackoff ..
  | .completionTimeout .. | .fenceGap .. | .streamEntryFree .. | .congestionWindow .. | .queueJoin .. | .schedulerSlot ..
  | .gateSwap .. | .gateIntervalEnd .. | .signalDetect .. | .trainingComplete .. | .hello .. | .helloTimer ..
  | .retrainReq .. | .widthReq .. | .reqAck .. | .linkControlResend .. | .widthChangeDone .. | .linkDataCell ..
  | .replayTimer .. | .unackedLimit .. | .signalLoss .. | .laneFailure .. | .uncorrLimit .. | .scrubRead .. | .annealPass ..
  | .wakeRequest .. | .wakeComplete .. | .tinningDone .. | .sweepStep .. | .heartbeat .. | .heartbeatLoss ..
  | .standbySample .. | .fenced .. | .isram .. | .touchstonePass .. | .loaderCommand .. | .poresetN .. | .bankFault ..
  | .vrHot .. | .thermalThrottle .. | .thermalTrip .. | .vaonLoss .. | .vaonReturn .. | .dump .. | .coalesceWindowEnd ..
  | .kaferlinkLinkUp .. | .kaferlinkLinkLoss .. | .demotionDone .. | .poresetNLow .. | .vrHotRelease .. => true

end Sys2Proof
end

