-- ==== Sys2Proof/Decode.lean ====
section
/-! DEFINITION. The table of commands gives no row any bits: a command is not spelled by a word. -/

namespace Sys2Proof

/-- The command a word spells by the bits of spec/opcode_table.json: the table gives no row bits, so none. -/
def decodeTableWord (_nbits _w : Nat) : Option Instr := none

end Sys2Proof
end

