-- ==== Sys2Proof/Machine/Bits.lean ====
section
/-! DEFINITION. Bit fields and byte order (R5, R6): fields of numbers, little-endian bytes. -/

namespace Sys2Proof.Machine

/-- Bits lo..lo + w − 1 of x (R6). -/
def bitsOf (x lo w : Nat) : Nat := x / 2 ^ lo % 2 ^ w

/-- x with bits lo..lo + w − 1 replaced by the low w bits of v. -/
def putBits (x lo w v : Nat) : Nat :=
  x - bitsOf x lo w * 2 ^ lo + v % 2 ^ w * 2 ^ lo

/-- Bit i of x. -/
def bitAt (x i : Nat) : Bool := x / 2 ^ i % 2 == 1

/-- 1 for true, 0 for false. -/
def b2n (b : Bool) : Nat := if b then 1 else 0

/-- x with bit i made b. -/
def putBit (x i : Nat) (b : Bool) : Nat := putBits x i 1 (b2n b)

/-- A number laid out from (width, value) pairs, the first in the lowest bits. -/
def packBits : List (Nat × Nat) → Nat
  | [] => 0
  | (w, v) :: r => v % 2 ^ w + 2 ^ w * packBits r

/-- The n low bytes of x, least significant first (R5). -/
def leBytes : Nat → Nat → List Byte
  | 0, _ => []
  | n + 1, x => BitVec.ofNat 8 x :: leBytes n (x / 256)

/-- The number n bytes spell, least significant first (R5). -/
def leNat : List Byte → Nat
  | [] => 0
  | b :: r => b.toNat + 256 * leNat r

/-- A signed reading of the low w bits of x. -/
def toSigned (w x : Nat) : Int :=
  let y := x % 2 ^ w
  if y < 2 ^ (w - 1) then (y : Int) else (y : Int) - (2 ^ w : Nat)

/-- Two's complement of an integer in w bits. -/
def ofSigned (w : Nat) (i : Int) : Nat := (i % ((2 ^ w : Nat) : Int)).toNat

/-- The exclusive or of the w low bits of x. -/
def parity : Nat → Nat → Nat
  | 0, _ => 0
  | w + 1, x => (x % 2 + parity w (x / 2)) % 2

/-- How many of the w low bits of x are 1. -/
def popCount : Nat → Nat → Nat
  | 0, _ => 0
  | w + 1, x => x % 2 + popCount w (x / 2)

/-- The positions of the 1 bits among the w low bits of x, rising. -/
def setBits (w x : Nat) : List Nat := (List.range w).filter fun i => bitAt x i

/-- x − 1 where x is positive, saturating increments at cap. -/
def satInc (cap x n : Nat) : Nat := min cap (x + n)

/-- a div b, rounded up. -/
def ceilDiv (a b : Nat) : Nat := (a + b - 1) / b

/-- x rounded down to a multiple of m. -/
def alignDown (x m : Nat) : Nat := x / m * m

/-- The pieces of k bytes a list of bytes is cut into; fuel bounds their number. -/
def piecesOf (k : Nat) : Nat → List Byte → List (List Byte)
  | 0, _ => []
  | _, [] => []
  | n + 1, l => l.take k :: piecesOf k n (l.drop k)

/-- A list of exactly n bytes: cut, or padded with zeros. -/
def fitBytes (n : Nat) (l : List Byte) : List Byte :=
  let k := l.take n
  k ++ List.replicate (n - k.length) 0

/-- Replace item i of a list. -/
def setAt {α : Type} (l : List α) (i : Nat) (x : α) : List α := l.set i x

/-- Insertion into a list kept in rising order of a key; equal keys keep their order of arrival. -/
def insertBy {α : Type} (key : α → Nat) (x : α) : List α → List α
  | [] => [x]
  | y :: r => if key x < key y then x :: y :: r else y :: insertBy key x r

/-- A list sorted by a key; equal keys keep their order. -/
def sortBy {α : Type} (key : α → Nat) (l : List α) : List α :=
  l.foldl (fun acc x => insertBy key x acc) []

/-- The first item with the least key. -/
def firstMin {α : Type} (key : α → Nat) : List α → Option α
  | [] => none
  | x :: r =>
    match firstMin key r with
    | none => some x
    | some y => if key y < key x then some y else some x

end Sys2Proof.Machine
end

