-- ==== Sys2Proof/Machine/Sparse.lean ====
section
/-! DEFINITION. Tables keyed by number: a list of (key, value) pairs in one canonical form, keys strictly rising.

A table read through `Tab.get` with a default lists no entry equal to that default, so equal tables are equal data. -/

namespace Sys2Proof.Machine

/-- A table: (key, value) pairs with strictly rising keys. -/
abbrev Tab (α : Type) := List (Nat × α)

/-- Every key of a table is above k. -/
def Tab.above {α : Type} (k : Nat) : Tab α → Bool
  | [] => true
  | (j, _) :: _ => decide (k < j)

/-- The keys rise strictly. -/
def Tab.wf {α : Type} : Tab α → Bool
  | [] => true
  | (k, _) :: r => Tab.above k r && Tab.wf r

/-- The entry of a key, where listed. -/
def Tab.find {α : Type} : Tab α → Nat → Option α
  | [], _ => none
  | (j, v) :: r, k => if k = j then some v else Tab.find r k

/-- Lists v under k, in place of what was listed. -/
def Tab.put {α : Type} : Tab α → Nat → α → Tab α
  | [], k, v => [(k, v)]
  | (j, w) :: r, k, v =>
    if k < j then (k, v) :: (j, w) :: r
    else if k = j then (k, v) :: r
    else (j, w) :: Tab.put r k v

/-- Lists nothing under k. -/
def Tab.del {α : Type} (t : Tab α) (k : Nat) : Tab α := t.filter fun e => decide (e.1 ≠ k)

/-- The value of a key: what is listed, or the default. -/
def Tab.get {α : Type} (d : α) (t : Tab α) (k : Nat) : α := (t.find k).getD d

/-- Gives a key a value; the default is not listed. -/
def Tab.set {α : Type} [DecidableEq α] (d : α) (t : Tab α) (k : Nat) (v : α) : Tab α :=
  if v = d then t.del k else t.put k v

/-- No entry of a table equals the default. -/
def Tab.noDefault {α : Type} [DecidableEq α] (d : α) (t : Tab α) : Bool :=
  t.all fun e => decide (e.2 ≠ d)

/-- The canonical form of a table read with a default. -/
def Tab.canonical {α : Type} [DecidableEq α] (d : α) (t : Tab α) : Bool :=
  t.wf && t.noDefault d

/-- The keys of a table. -/
def Tab.keys {α : Type} (t : Tab α) : List Nat := t.map Prod.fst

/-- The values of a table. -/
def Tab.vals {α : Type} (t : Tab α) : List α := t.map Prod.snd

/-- The entry of a key changed by f, where listed. -/
def Tab.upd {α : Type} (t : Tab α) (k : Nat) (f : α → α) : Tab α :=
  match t.find k with
  | none => t
  | some v => t.put k (f v)

/-- The entries that a test keeps. -/
def Tab.keep {α : Type} (t : Tab α) (p : Nat → α → Bool) : Tab α :=
  t.filter fun e => p e.1 e.2

/-- The entries changed one by one, keys kept. -/
def Tab.mapVals {α β : Type} (f : Nat → α → β) (t : Tab α) : Tab β :=
  t.map fun e => (e.1, f e.1 e.2)

end Sys2Proof.Machine
end

