-- ==== Sys2Proof/Machine/RegMap.lean ====
section
/-! DEFINITION. The registers of the part (R60, R98, R125, R149, R181, R214, R234, R258, R286, R306, R322, R353, R369, R389,
R407, R428): where each lies, which of its bits software writes, what it holds after reset, and its fields. -/

namespace Sys2Proof.Machine

/-- A run of like registers: `count` of them from `base`, `stride` bytes apart, `size` bytes each;
`rw` marks the bits of access code RW (R12) and `reset` is the value of the Reset column. -/
structure RegBlock where
  base : Nat
  stride : Nat
  count : Nat
  size : Nat
  rw : Nat
  reset : Nat
  deriving DecidableEq, Repr

/-- A field of a register: the register's address, the lowest bit and the width. -/
structure Fld where
  addr : Nat
  lo : Nat
  w : Nat
  deriving DecidableEq, Repr

/-- CTRL_MODE_STATUS (R60). -/
def Reg.CTRL_MODE_STATUS : RegBlock := ⟨0x1000, 8, 1, 8, 0x0, 0x0⟩
/-- CTRL_MODE_DISCARD (R60). -/
def Reg.CTRL_MODE_DISCARD : RegBlock := ⟨0x1008, 8, 1, 8, 0x0, 0x0⟩
/-- CTRL_JOURNAL_STATUS (R60). -/
def Reg.CTRL_JOURNAL_STATUS : RegBlock := ⟨0x1010, 8, 1, 8, 0x0, 0x0⟩
/-- KAFER_LINK_STATUS (R60). -/
def Reg.KAFER_LINK_STATUS : RegBlock := ⟨0x1100, 128, 2, 8, 0x0, 0x0⟩
/-- MEM_CONFIG (R98). -/
def Reg.MEM_CONFIG : RegBlock := ⟨0x20000, 8, 1, 8, 0x0, 0x4⟩
/-- MEM_REFRESH_CTRL (R98). -/
def Reg.MEM_REFRESH_CTRL : RegBlock := ⟨0x20008, 8, 1, 8, 0xffffffffff, 0x0⟩
/-- MEM_CTRL_STATUS (R98). -/
def Reg.MEM_CTRL_STATUS : RegBlock := ⟨0x20010, 8, 1, 8, 0x0, 0x0⟩
/-- MEM_TIER_CTRL (R98). -/
def Reg.MEM_TIER_CTRL : RegBlock := ⟨0x20018, 8, 1, 8, 0x1fff01, 0x100000⟩
/-- MEM_TIER_STATUS (R98). -/
def Reg.MEM_TIER_STATUS : RegBlock := ⟨0x20020, 8, 1, 8, 0x0, 0x0⟩
/-- MEM_LAND_PUSH (R98). -/
def Reg.MEM_LAND_PUSH : RegBlock := ⟨0x20028, 8, 1, 8, 0x0, 0x0⟩
/-- MEM_SECTOR_REGION (R98). -/
def Reg.MEM_SECTOR_REGION : RegBlock := ⟨0x20100, 8, 8, 8, 0xffffffff0003, 0x0⟩
/-- MEM_HOT_CTRL (R98). -/
def Reg.MEM_HOT_CTRL : RegBlock := ⟨0x20200, 8, 1, 8, 0xffffffff1f01, 0x10000a00⟩
/-- MEM_HOT_STATUS (R98). -/
def Reg.MEM_HOT_STATUS : RegBlock := ⟨0x20208, 8, 1, 8, 0x0, 0x0⟩
/-- XLT_ROOT (R125). -/
def Reg.XLT_ROOT : RegBlock := ⟨0x30000, 8, 1024, 8, 0xfffffff001, 0x0⟩
/-- XLT_CONFIG (R125). -/
def Reg.XLT_CONFIG : RegBlock := ⟨0x38000, 8, 1, 8, 0x0, 0x0⟩
/-- XLT_PTW_PAGE (R125). -/
def Reg.XLT_PTW_PAGE : RegBlock := ⟨0x38008, 8, 1, 8, 0xfffffff000, 0x0⟩
/-- XLT_PTW_DATA (R125). -/
def Reg.XLT_PTW_DATA : RegBlock := ⟨0x39000, 8, 512, 8, 0x0, 0x0⟩
/-- XLT_FQ_STATUS (R125). -/
def Reg.XLT_FQ_STATUS : RegBlock := ⟨0x38040, 64, 2, 8, 0x0, 0x0⟩
/-- XLT_FQ_CONSUME (R125). -/
def Reg.XLT_FQ_CONSUME : RegBlock := ⟨0x38048, 64, 2, 8, 0x0, 0x0⟩
/-- XLT_FAULT_RESOLVE (R125). -/
def Reg.XLT_FAULT_RESOLVE : RegBlock := ⟨0x38100, 8, 1, 8, 0x0, 0x0⟩
/-- XLT_STATUS (R125). -/
def Reg.XLT_STATUS : RegBlock := ⟨0x38108, 8, 1, 8, 0x0, 0x0⟩
/-- XLT_INV_STATUS (R125). -/
def Reg.XLT_INV_STATUS : RegBlock := ⟨0x38110, 8, 1, 8, 0x0, 0x0⟩
/-- COH_CTRL (R149). -/
def Reg.COH_CTRL : RegBlock := ⟨0xc0000, 8, 1, 8, 0xffff, 0x64⟩
/-- COH_STATUS (R149). -/
def Reg.COH_STATUS : RegBlock := ⟨0xc0008, 8, 1, 8, 0x0, 0x0⟩
/-- COH_STATUS2 (R149). -/
def Reg.COH_STATUS2 : RegBlock := ⟨0xc0010, 8, 1, 8, 0x0, 0x0⟩
/-- COH_RECLAIM (R149). -/
def Reg.COH_RECLAIM : RegBlock := ⟨0xc0018, 8, 1, 8, 0x0, 0x0⟩
/-- COH_RECLAIM_STATUS (R149). -/
def Reg.COH_RECLAIM_STATUS : RegBlock := ⟨0xc0020, 8, 1, 8, 0x0, 0x0⟩
/-- COH_MEMBER (R149). -/
def Reg.COH_MEMBER : RegBlock := ⟨0xc1000, 8, 256, 8, 0xffffffffffffffff, 0x0⟩
/-- COH_DEAD (R149). -/
def Reg.COH_DEAD : RegBlock := ⟨0xc2000, 8, 256, 8, 0x0, 0x0⟩
/-- ENG_STATUS (R181). -/
def Reg.ENG_STATUS : RegBlock := ⟨0xd0000, 8, 1, 8, 0x0, 0x0⟩
/-- ENG_STATUS2 (R181). -/
def Reg.ENG_STATUS2 : RegBlock := ⟨0xd0008, 8, 1, 8, 0x0, 0x0⟩
/-- ENG_ENABLE (R181). -/
def Reg.ENG_ENABLE : RegBlock := ⟨0xd0100, 8, 8, 8, 0x0, 0xffffffffffffffff⟩
/-- ENG_RING_STATE (R181). -/
def Reg.ENG_RING_STATE : RegBlock := ⟨0xd8000, 8, 4096, 8, 0x0, 0x0⟩
/-- CRU_STATUS (R214). -/
def Reg.CRU_STATUS : RegBlock := ⟨0xe0000, 8, 1, 8, 0x0, 0x0⟩
/-- CRU_STATUS2 (R214). -/
def Reg.CRU_STATUS2 : RegBlock := ⟨0xe0008, 8, 1, 8, 0x0, 0x0⟩
/-- CRU_CTX (R214). -/
def Reg.CRU_CTX : RegBlock := ⟨0xe1000, 8, 2048, 8, 0x0, 0x0⟩
/-- GTH_STATUS (R234). -/
def Reg.GTH_STATUS : RegBlock := ⟨0xf0000, 8, 1, 8, 0x0, 0x0⟩
/-- RED_STATUS (R234). -/
def Reg.RED_STATUS : RegBlock := ⟨0xf0008, 8, 1, 8, 0x0, 0x0⟩
/-- RED_SLOT (R234). -/
def Reg.RED_SLOT : RegBlock := ⟨0xf1000, 8, 4096, 8, 0x0, 0x0⟩
/-- ECC_BUCKET_CTRL (R258). -/
def Reg.ECC_BUCKET_CTRL : RegBlock := ⟨0x100000, 8, 1, 8, 0xffffffffffff001f, 0x4000400040000e⟩
/-- ECC_STATUS (R258). -/
def Reg.ECC_STATUS : RegBlock := ⟨0x100008, 8, 1, 8, 0x0, 0x0⟩
/-- ECC_REGION (R258). -/
def Reg.ECC_REGION : RegBlock := ⟨0x101000, 8, 288, 8, 0x0, 0x0⟩
/-- ECC_TEST_CTRL (R258). -/
def Reg.ECC_TEST_CTRL : RegBlock := ⟨0x100100, 8, 1, 8, 0xffffffffffff1f, 0x0⟩
/-- ECC_TEST_DATA (R258). -/
def Reg.ECC_TEST_DATA : RegBlock := ⟨0x100108, 8, 1, 8, 0xffffffffffffffff, 0x0⟩
/-- ECC_TEST_CHECK (R258). -/
def Reg.ECC_TEST_CHECK : RegBlock := ⟨0x100110, 8, 1, 8, 0xffff, 0x0⟩
/-- ECC_TEST_STATUS (R258). -/
def Reg.ECC_TEST_STATUS : RegBlock := ⟨0x100118, 8, 1, 8, 0x0, 0x0⟩
/-- ECC_SCRUB_LAP (R258). -/
def Reg.ECC_SCRUB_LAP : RegBlock := ⟨0x100200, 8, 7, 8, 0x0, 0x200000000000000⟩
/-- ECC_ANNEAL_CTRL (R258). -/
def Reg.ECC_ANNEAL_CTRL : RegBlock := ⟨0x100300, 8, 1, 8, 0xffff0001, 0x640001⟩
/-- ECC_ANNEAL_STATUS (R258). -/
def Reg.ECC_ANNEAL_STATUS : RegBlock := ⟨0x100308, 8, 1, 8, 0x0, 0x0⟩
/-- ECC_TIN_STATUS (R258). -/
def Reg.ECC_TIN_STATUS : RegBlock := ⟨0x100310, 8, 1, 8, 0x0, 0x0⟩
/-- FAB_CTRL (R286). -/
def Reg.FAB_CTRL : RegBlock := ⟨0x110000, 8, 1, 8, 0xff1fffff0fffff, 0x8014044c030032⟩
/-- FAB_ROUTE_STATUS (R286). -/
def Reg.FAB_ROUTE_STATUS : RegBlock := ⟨0x110008, 8, 1, 8, 0x0, 0x0⟩
/-- FAB_STATUS (R286). -/
def Reg.FAB_STATUS : RegBlock := ⟨0x110010, 8, 1, 8, 0x0, 0x0⟩
/-- FAB_STATUS2 (R286). -/
def Reg.FAB_STATUS2 : RegBlock := ⟨0x110018, 8, 1, 8, 0x0, 0x0⟩
/-- FAB_STATUS3 (R286). -/
def Reg.FAB_STATUS3 : RegBlock := ⟨0x110028, 8, 1, 8, 0x0, 0x0⟩
/-- FAB_STREAM_STATUS (R286). -/
def Reg.FAB_STREAM_STATUS : RegBlock := ⟨0x110020, 8, 1, 8, 0x0, 0x0⟩
/-- FAB_ROUTE (R286). -/
def Reg.FAB_ROUTE : RegBlock := ⟨0x118000, 4, 4096, 4, 0x0, 0x0⟩
/-- FAB_PATH (R286). -/
def Reg.FAB_PATH : RegBlock := ⟨0x120000, 8, 8192, 8, 0x0, 0x0⟩
/-- FAB_LINK_CTRL (R306). -/
def Reg.FAB_LINK_CTRL : RegBlock := ⟨0x130000, 8, 1, 8, 0xffff03, 0x1001⟩
/-- FAB_PORT_STATUS (R306). -/
def Reg.FAB_PORT_STATUS : RegBlock := ⟨0x130100, 32, 16, 8, 0x0, 0xfff000000⟩
/-- FAB_PORT_UID (R306). -/
def Reg.FAB_PORT_UID : RegBlock := ⟨0x130108, 32, 16, 8, 0x0, 0x0⟩
/-- FAB_PORT_ERR (R306). -/
def Reg.FAB_PORT_ERR : RegBlock := ⟨0x130110, 32, 16, 8, 0x0, 0x0⟩
/-- FAB_PORT_ERR2 (R306). -/
def Reg.FAB_PORT_ERR2 : RegBlock := ⟨0x130118, 32, 16, 8, 0x0, 0x0⟩
/-- TC_PORT_STATUS (R322). -/
def Reg.TC_PORT_STATUS : RegBlock := ⟨0x140100, 16, 16, 8, 0x0, 0x0⟩
/-- TC_GATE_STATE (R322). -/
def Reg.TC_GATE_STATE : RegBlock := ⟨0x140108, 16, 16, 8, 0x0, 0x0⟩
/-- TC_METER_STATUS (R322). -/
def Reg.TC_METER_STATUS : RegBlock := ⟨0x141000, 8, 1024, 8, 0x0, 0x0⟩
/-- SEC_STATUS (R353). -/
def Reg.SEC_STATUS : RegBlock := ⟨0x150000, 8, 1, 8, 0x0, 0x0⟩
/-- SEC_FAB_STATUS (R353). -/
def Reg.SEC_FAB_STATUS : RegBlock := ⟨0x150008, 8, 1, 8, 0x0, 0x0⟩
/-- SEC_SWEEP_CTRL (R353). -/
def Reg.SEC_SWEEP_CTRL : RegBlock := ⟨0x150010, 8, 1, 8, 0xfff, 0x804⟩
/-- SEC_TENANT (R353). -/
def Reg.SEC_TENANT : RegBlock := ⟨0x151000, 8, 1024, 8, 0x0, 0x0⟩
/-- SEC_JOBKEY (R353). -/
def Reg.SEC_JOBKEY : RegBlock := ⟨0x190000, 8, 8192, 8, 0x0, 0x0⟩
/-- ANV_STATUS (R369). -/
def Reg.ANV_STATUS : RegBlock := ⟨0x1200, 8, 1, 8, 0x0, 0xff09⟩
/-- ANV_SWITCH (R369). -/
def Reg.ANV_SWITCH : RegBlock := ⟨0x1208, 8, 1, 8, 0x0, 0x0⟩
/-- PWR_STATUS (R389). -/
def Reg.PWR_STATUS : RegBlock := ⟨0x160000, 8, 1, 8, 0x0, 0x96258000000⟩
/-- PWR_THERMAL (R389). -/
def Reg.PWR_THERMAL : RegBlock := ⟨0x160008, 8, 1, 8, 0xff, 0x64⟩
/-- PWR_EPISODES (R389). -/
def Reg.PWR_EPISODES : RegBlock := ⟨0x160010, 8, 1, 8, 0x0, 0x0⟩
/-- PWR_RAIL (R389). -/
def Reg.PWR_RAIL : RegBlock := ⟨0x160100, 8, 28, 8, 0x0, 0x0⟩
/-- CLK_LTC (R407). -/
def Reg.CLK_LTC : RegBlock := ⟨0x170000, 8, 1, 8, 0x0, 0x0⟩
/-- CLK_STATUS (R407). -/
def Reg.CLK_STATUS : RegBlock := ⟨0x170008, 8, 1, 8, 0x0, 0x0⟩
/-- RST_STATUS (R407). -/
def Reg.RST_STATUS : RegBlock := ⟨0x170010, 8, 1, 8, 0x0, 0xf00⟩
/-- RST_PHASE_LTC (R407). -/
def Reg.RST_PHASE_LTC : RegBlock := ⟨0x170108, 8, 8, 8, 0x0, 0x0⟩
/-- TEL_STATUS (R428). -/
def Reg.TEL_STATUS : RegBlock := ⟨0x180000, 8, 1, 8, 0x0, 0x0⟩
/-- FLT_STATUS (R428). -/
def Reg.FLT_STATUS : RegBlock := ⟨0x180008, 8, 1, 8, 0x0, 0x0⟩
/-- FLT_STATUS2 (R428). -/
def Reg.FLT_STATUS2 : RegBlock := ⟨0x180010, 8, 1, 8, 0x0, 0x0⟩
/-- FLT_DEGRADED (R428). -/
def Reg.FLT_DEGRADED : RegBlock := ⟨0x180018, 8, 1, 8, 0x0, 0x0⟩
/-- FLT_LOG (R428). -/
def Reg.FLT_LOG : RegBlock := ⟨0x188000, 8, 4096, 8, 0x0, 0x0⟩

/-- Every register of the part, in rising address order of its first one. -/
def Reg.blocks : List RegBlock :=
  [Reg.CTRL_MODE_STATUS, Reg.CTRL_MODE_DISCARD, Reg.CTRL_JOURNAL_STATUS, Reg.KAFER_LINK_STATUS, Reg.ANV_STATUS, Reg.ANV_SWITCH, Reg.MEM_CONFIG, Reg.MEM_REFRESH_CTRL, Reg.MEM_CTRL_STATUS, Reg.MEM_TIER_CTRL, Reg.MEM_TIER_STATUS, Reg.MEM_LAND_PUSH] ++
  [Reg.MEM_SECTOR_REGION, Reg.MEM_HOT_CTRL, Reg.MEM_HOT_STATUS, Reg.XLT_ROOT, Reg.XLT_CONFIG, Reg.XLT_PTW_PAGE, Reg.XLT_FQ_STATUS, Reg.XLT_FQ_CONSUME, Reg.XLT_FAULT_RESOLVE, Reg.XLT_STATUS, Reg.XLT_INV_STATUS, Reg.XLT_PTW_DATA] ++
  [Reg.COH_CTRL, Reg.COH_STATUS, Reg.COH_STATUS2, Reg.COH_RECLAIM, Reg.COH_RECLAIM_STATUS, Reg.COH_MEMBER, Reg.COH_DEAD, Reg.ENG_STATUS, Reg.ENG_STATUS2, Reg.ENG_ENABLE, Reg.ENG_RING_STATE, Reg.CRU_STATUS] ++
  [Reg.CRU_STATUS2, Reg.CRU_CTX, Reg.GTH_STATUS, Reg.RED_STATUS, Reg.RED_SLOT, Reg.ECC_BUCKET_CTRL, Reg.ECC_STATUS, Reg.ECC_TEST_CTRL, Reg.ECC_TEST_DATA, Reg.ECC_TEST_CHECK, Reg.ECC_TEST_STATUS, Reg.ECC_SCRUB_LAP] ++
  [Reg.ECC_ANNEAL_CTRL, Reg.ECC_ANNEAL_STATUS, Reg.ECC_TIN_STATUS, Reg.ECC_REGION, Reg.FAB_CTRL, Reg.FAB_ROUTE_STATUS, Reg.FAB_STATUS, Reg.FAB_STATUS2, Reg.FAB_STREAM_STATUS, Reg.FAB_STATUS3, Reg.FAB_ROUTE, Reg.FAB_PATH] ++
  [Reg.FAB_LINK_CTRL, Reg.FAB_PORT_STATUS, Reg.FAB_PORT_UID, Reg.FAB_PORT_ERR, Reg.FAB_PORT_ERR2, Reg.TC_PORT_STATUS, Reg.TC_GATE_STATE, Reg.TC_METER_STATUS, Reg.SEC_STATUS, Reg.SEC_FAB_STATUS, Reg.SEC_SWEEP_CTRL, Reg.SEC_TENANT] ++
  [Reg.PWR_STATUS, Reg.PWR_THERMAL, Reg.PWR_EPISODES, Reg.PWR_RAIL, Reg.CLK_LTC, Reg.CLK_STATUS, Reg.RST_STATUS, Reg.RST_PHASE_LTC, Reg.TEL_STATUS, Reg.FLT_STATUS, Reg.FLT_STATUS2, Reg.FLT_DEGRADED] ++
  [Reg.FLT_LOG, Reg.SEC_JOBKEY]

/-- The register of a run at an index. -/
def RegBlock.at (b : RegBlock) (n : Nat) : Nat := b.base + b.stride * n

/-- A byte address lies in a register of the run. -/
def RegBlock.holds (b : RegBlock) (a : Nat) : Bool :=
  decide (b.base ≤ a) && decide ((a - b.base) / b.stride < b.count) && decide ((a - b.base) % b.stride < b.size)

/-- The run a byte address lies in. -/
def Reg.blockOf (a : Nat) : Option RegBlock := Reg.blocks.find? fun b => b.holds a

/-- The address of the register a byte address lies in, where it is mapped. -/
def Reg.regOf (a : Nat) : Option Nat :=
  (Reg.blockOf a).map fun b => a - (a - b.base) % b.stride

/-- What a register holds after reset (R12, R14). -/
def Reg.resetOf (a : Nat) : Nat :=
  match Reg.blockOf a with
  | none => 0
  | some b => b.reset

/-- CTRL_MODE_STATUS.APPLIED_GEN (R60). -/
def Fld.CTRL_MODE_STATUS_APPLIED_GEN : Fld := ⟨0x1000, 0, 16⟩
/-- CTRL_MODE_STATUS.ARMED_GEN (R60). -/
def Fld.CTRL_MODE_STATUS_ARMED_GEN : Fld := ⟨0x1000, 16, 16⟩
/-- CTRL_MODE_STATUS.ARMED (R60). -/
def Fld.CTRL_MODE_STATUS_ARMED : Fld := ⟨0x1000, 32, 1⟩
/-- CTRL_MODE_STATUS.WINDOW_OPEN (R60). -/
def Fld.CTRL_MODE_STATUS_WINDOW_OPEN : Fld := ⟨0x1000, 33, 1⟩
/-- CTRL_MODE_STATUS.STAGED_WRITES (R60). -/
def Fld.CTRL_MODE_STATUS_STAGED_WRITES : Fld := ⟨0x1000, 48, 16⟩
/-- CTRL_MODE_DISCARD.STALE_CELLS (R60). -/
def Fld.CTRL_MODE_DISCARD_STALE_CELLS : Fld := ⟨0x1008, 0, 32⟩
/-- CTRL_MODE_DISCARD.AHEAD_CELLS (R60). -/
def Fld.CTRL_MODE_DISCARD_AHEAD_CELLS : Fld := ⟨0x1008, 32, 32⟩
/-- CTRL_JOURNAL_STATUS.USED (R60). -/
def Fld.CTRL_JOURNAL_STATUS_USED : Fld := ⟨0x1010, 0, 10⟩
/-- CTRL_JOURNAL_STATUS.LONG_ACTIVE (R60). -/
def Fld.CTRL_JOURNAL_STATUS_LONG_ACTIVE : Fld := ⟨0x1010, 16, 7⟩
/-- CTRL_JOURNAL_STATUS.BUSY_COUNT (R60). -/
def Fld.CTRL_JOURNAL_STATUS_BUSY_COUNT : Fld := ⟨0x1010, 32, 32⟩
/-- KAFER_LINK_STATUS.STATE (R60) of register n. -/
def Fld.KAFER_LINK_STATUS_STATE (n : Nat) : Fld := ⟨0x1100 + 128 * n, 0, 2⟩
/-- KAFER_LINK_STATUS.SIGNAL (R60) of register n. -/
def Fld.KAFER_LINK_STATUS_SIGNAL (n : Nat) : Fld := ⟨0x1100 + 128 * n, 2, 1⟩
/-- KAFER_LINK_STATUS.REPLAYS (R60) of register n. -/
def Fld.KAFER_LINK_STATUS_REPLAYS (n : Nat) : Fld := ⟨0x1100 + 128 * n, 16, 16⟩
/-- KAFER_LINK_STATUS.RELAY_LATE_DROP (R60) of register n. -/
def Fld.KAFER_LINK_STATUS_RELAY_LATE_DROP (n : Nat) : Fld := ⟨0x1100 + 128 * n, 32, 16⟩
/-- MEM_CONFIG.GRAIN (R98). -/
def Fld.MEM_CONFIG_GRAIN : Fld := ⟨0x20000, 0, 3⟩
/-- MEM_CONFIG.FAR_CHANNELS (R98). -/
def Fld.MEM_CONFIG_FAR_CHANNELS : Fld := ⟨0x20000, 8, 4⟩
/-- MEM_CONFIG.FAR_DIMM_GIB (R98). -/
def Fld.MEM_CONFIG_FAR_DIMM_GIB : Fld := ⟨0x20000, 16, 10⟩
/-- MEM_CONFIG.FAR_MTS (R98). -/
def Fld.MEM_CONFIG_FAR_MTS : Fld := ⟨0x20000, 32, 14⟩
/-- MEM_CONFIG.FAR_STATE (R98). -/
def Fld.MEM_CONFIG_FAR_STATE : Fld := ⟨0x20000, 48, 2⟩
/-- MEM_REFRESH_CTRL.SR_IDLE_US (R98). -/
def Fld.MEM_REFRESH_CTRL_SR_IDLE_US : Fld := ⟨0x20008, 0, 16⟩
/-- MEM_REFRESH_CTRL.PASR_C0 (R98). -/
def Fld.MEM_REFRESH_CTRL_PASR_C0 : Fld := ⟨0x20008, 16, 8⟩
/-- MEM_REFRESH_CTRL.PASR_C1 (R98). -/
def Fld.MEM_REFRESH_CTRL_PASR_C1 : Fld := ⟨0x20008, 24, 8⟩
/-- MEM_REFRESH_CTRL.PASR_FAR (R98). -/
def Fld.MEM_REFRESH_CTRL_PASR_FAR : Fld := ⟨0x20008, 32, 8⟩
/-- MEM_REFRESH_CTRL.PASR_IGNORED (R98). -/
def Fld.MEM_REFRESH_CTRL_PASR_IGNORED : Fld := ⟨0x20008, 40, 24⟩
/-- MEM_CTRL_STATUS.INORDER_ENTRIES (R98). -/
def Fld.MEM_CTRL_STATUS_INORDER_ENTRIES : Fld := ⟨0x20010, 0, 16⟩
/-- MEM_CTRL_STATUS.STARVE_PROMOTIONS (R98). -/
def Fld.MEM_CTRL_STATUS_STARVE_PROMOTIONS : Fld := ⟨0x20010, 16, 16⟩
/-- MEM_CTRL_STATUS.SR_CANCELS (R98). -/
def Fld.MEM_CTRL_STATUS_SR_CANCELS : Fld := ⟨0x20010, 32, 16⟩
/-- MEM_CTRL_STATUS.SR_WAKES (R98). -/
def Fld.MEM_CTRL_STATUS_SR_WAKES : Fld := ⟨0x20010, 48, 16⟩
/-- MEM_TIER_CTRL.ENABLE (R98). -/
def Fld.MEM_TIER_CTRL_ENABLE : Fld := ⟨0x20018, 0, 1⟩
/-- MEM_TIER_CTRL.MOVE_GBPS (R98). -/
def Fld.MEM_TIER_CTRL_MOVE_GBPS : Fld := ⟨0x20018, 8, 8⟩
/-- MEM_TIER_CTRL.SWAGE_ENGINES (R98). -/
def Fld.MEM_TIER_CTRL_SWAGE_ENGINES : Fld := ⟨0x20018, 16, 5⟩
/-- MEM_TIER_STATUS.LAST_MOVE_DONE (R98). -/
def Fld.MEM_TIER_STATUS_LAST_MOVE_DONE : Fld := ⟨0x20020, 0, 32⟩
/-- MEM_TIER_STATUS.LAND_FREE (R98). -/
def Fld.MEM_TIER_STATUS_LAND_FREE : Fld := ⟨0x20020, 32, 13⟩
/-- MEM_TIER_STATUS.LAND_DROPPED (R98). -/
def Fld.MEM_TIER_STATUS_LAND_DROPPED : Fld := ⟨0x20020, 48, 16⟩
/-- MEM_LAND_PUSH.FRAME (R98). -/
def Fld.MEM_LAND_PUSH_FRAME : Fld := ⟨0x20028, 0, 19⟩
/-- MEM_SECTOR_REGION.VALID (R98) of register n. -/
def Fld.MEM_SECTOR_REGION_VALID (n : Nat) : Fld := ⟨0x20100 + 8 * n, 0, 1⟩
/-- MEM_SECTOR_REGION.TIER (R98) of register n. -/
def Fld.MEM_SECTOR_REGION_TIER (n : Nat) : Fld := ⟨0x20100 + 8 * n, 1, 1⟩
/-- MEM_SECTOR_REGION.BASE_GIB (R98) of register n. -/
def Fld.MEM_SECTOR_REGION_BASE_GIB (n : Nat) : Fld := ⟨0x20100 + 8 * n, 16, 16⟩
/-- MEM_SECTOR_REGION.SIZE_GIB (R98) of register n. -/
def Fld.MEM_SECTOR_REGION_SIZE_GIB (n : Nat) : Fld := ⟨0x20100 + 8 * n, 32, 16⟩
/-- MEM_SECTOR_REGION.CONFLICT (R98) of register n. -/
def Fld.MEM_SECTOR_REGION_CONFLICT (n : Nat) : Fld := ⟨0x20100 + 8 * n, 48, 1⟩
/-- MEM_SECTOR_REGION.IN_USE (R98) of register n. -/
def Fld.MEM_SECTOR_REGION_IN_USE (n : Nat) : Fld := ⟨0x20100 + 8 * n, 49, 1⟩
/-- MEM_HOT_CTRL.ENABLE (R98). -/
def Fld.MEM_HOT_CTRL_ENABLE : Fld := ⟨0x20200, 0, 1⟩
/-- MEM_HOT_CTRL.EPOCH_LOG2 (R98). -/
def Fld.MEM_HOT_CTRL_EPOCH_LOG2 : Fld := ⟨0x20200, 8, 5⟩
/-- MEM_HOT_CTRL.THRESHOLD (R98). -/
def Fld.MEM_HOT_CTRL_THRESHOLD : Fld := ⟨0x20200, 16, 16⟩
/-- MEM_HOT_CTRL.MAX_REPORTS (R98). -/
def Fld.MEM_HOT_CTRL_MAX_REPORTS : Fld := ⟨0x20200, 32, 16⟩
/-- MEM_HOT_STATUS.EPOCH (R98). -/
def Fld.MEM_HOT_STATUS_EPOCH : Fld := ⟨0x20208, 0, 32⟩
/-- MEM_HOT_STATUS.REPORTS (R98). -/
def Fld.MEM_HOT_STATUS_REPORTS : Fld := ⟨0x20208, 32, 16⟩
/-- MEM_HOT_STATUS.DROPPED (R98). -/
def Fld.MEM_HOT_STATUS_DROPPED : Fld := ⟨0x20208, 48, 16⟩
/-- XLT_ROOT.VALID (R125) of register n. -/
def Fld.XLT_ROOT_VALID (n : Nat) : Fld := ⟨0x30000 + 8 * n, 0, 1⟩
/-- XLT_ROOT.ROOT (R125) of register n. -/
def Fld.XLT_ROOT_ROOT (n : Nat) : Fld := ⟨0x30000 + 8 * n, 12, 28⟩
/-- XLT_CONFIG.RESERVE_BASE (R125). -/
def Fld.XLT_CONFIG_RESERVE_BASE : Fld := ⟨0x38000, 0, 10⟩
/-- XLT_CONFIG.RESERVE_COUNT (R125). -/
def Fld.XLT_CONFIG_RESERVE_COUNT : Fld := ⟨0x38000, 16, 10⟩
/-- XLT_CONFIG.INGOTS_USED (R125). -/
def Fld.XLT_CONFIG_INGOTS_USED : Fld := ⟨0x38000, 32, 11⟩
/-- XLT_CONFIG.GRANULES_FREE (R125). -/
def Fld.XLT_CONFIG_GRANULES_FREE : Fld := ⟨0x38000, 48, 10⟩
/-- XLT_PTW_PAGE.PAGE (R125). -/
def Fld.XLT_PTW_PAGE_PAGE : Fld := ⟨0x38008, 12, 28⟩
/-- XLT_FQ_STATUS.COUNT (R125) of register n. -/
def Fld.XLT_FQ_STATUS_COUNT (n : Nat) : Fld := ⟨0x38040 + 64 * n, 0, 13⟩
/-- XLT_FQ_STATUS.HEAD (R125) of register n. -/
def Fld.XLT_FQ_STATUS_HEAD (n : Nat) : Fld := ⟨0x38040 + 64 * n, 16, 12⟩
/-- XLT_FQ_STATUS.TAIL (R125) of register n. -/
def Fld.XLT_FQ_STATUS_TAIL (n : Nat) : Fld := ⟨0x38040 + 64 * n, 32, 12⟩
/-- XLT_FQ_STATUS.WAIT_FULL (R125) of register n. -/
def Fld.XLT_FQ_STATUS_WAIT_FULL (n : Nat) : Fld := ⟨0x38040 + 64 * n, 48, 14⟩
/-- XLT_FQ_CONSUME.COUNT (R125) of register n. -/
def Fld.XLT_FQ_CONSUME_COUNT (n : Nat) : Fld := ⟨0x38048 + 64 * n, 0, 13⟩
/-- XLT_FAULT_RESOLVE.ENGINE (R125). -/
def Fld.XLT_FAULT_RESOLVE_ENGINE : Fld := ⟨0x38100, 0, 16⟩
/-- XLT_FAULT_RESOLVE.TASK (R125). -/
def Fld.XLT_FAULT_RESOLVE_TASK : Fld := ⟨0x38100, 16, 5⟩
/-- XLT_FAULT_RESOLVE.ACTION (R125). -/
def Fld.XLT_FAULT_RESOLVE_ACTION : Fld := ⟨0x38100, 24, 2⟩
/-- XLT_FAULT_RESOLVE.FSEQ (R125). -/
def Fld.XLT_FAULT_RESOLVE_FSEQ : Fld := ⟨0x38100, 32, 32⟩
/-- XLT_STATUS.INGRESS_REFUSED (R125). -/
def Fld.XLT_STATUS_INGRESS_REFUSED : Fld := ⟨0x38108, 0, 16⟩
/-- XLT_STATUS.FQ_OVERFLOWS (R125). -/
def Fld.XLT_STATUS_FQ_OVERFLOWS : Fld := ⟨0x38108, 16, 16⟩
/-- XLT_STATUS.RESOLVE_STALE (R125). -/
def Fld.XLT_STATUS_RESOLVE_STALE : Fld := ⟨0x38108, 32, 16⟩
/-- XLT_STATUS.PTW_REFUSED (R125). -/
def Fld.XLT_STATUS_PTW_REFUSED : Fld := ⟨0x38108, 48, 16⟩
/-- XLT_INV_STATUS.WALK_RESTARTS (R125). -/
def Fld.XLT_INV_STATUS_WALK_RESTARTS : Fld := ⟨0x38110, 0, 16⟩
/-- XLT_INV_STATUS.LAST_INV_US (R125). -/
def Fld.XLT_INV_STATUS_LAST_INV_US : Fld := ⟨0x38110, 16, 16⟩
/-- COH_CTRL.SNOOP_TIMEOUT_US (R149). -/
def Fld.COH_CTRL_SNOOP_TIMEOUT_US : Fld := ⟨0xc0000, 0, 16⟩
/-- COH_STATUS.DIR_EVICTIONS (R149). -/
def Fld.COH_STATUS_DIR_EVICTIONS : Fld := ⟨0xc0008, 0, 16⟩
/-- COH_STATUS.NACKS (R149). -/
def Fld.COH_STATUS_NACKS : Fld := ⟨0xc0008, 16, 16⟩
/-- COH_STATUS.NC_REFUSED (R149). -/
def Fld.COH_STATUS_NC_REFUSED : Fld := ⟨0xc0008, 32, 16⟩
/-- COH_STATUS.SNOOP_TIMEOUTS (R149). -/
def Fld.COH_STATUS_SNOOP_TIMEOUTS : Fld := ⟨0xc0008, 48, 16⟩
/-- COH_STATUS2.WB_DISCARDED (R149). -/
def Fld.COH_STATUS2_WB_DISCARDED : Fld := ⟨0xc0010, 0, 16⟩
/-- COH_STATUS2.HTT_USED (R149). -/
def Fld.COH_STATUS2_HTT_USED : Fld := ⟨0xc0010, 16, 11⟩
/-- COH_RECLAIM.AID (R149). -/
def Fld.COH_RECLAIM_AID : Fld := ⟨0xc0018, 0, 14⟩
/-- COH_RECLAIM.ACTION (R149). -/
def Fld.COH_RECLAIM_ACTION : Fld := ⟨0xc0018, 16, 2⟩
/-- COH_RECLAIM_STATUS.AID (R149). -/
def Fld.COH_RECLAIM_STATUS_AID : Fld := ⟨0xc0020, 0, 14⟩
/-- COH_RECLAIM_STATUS.ACTIVE (R149). -/
def Fld.COH_RECLAIM_STATUS_ACTIVE : Fld := ⟨0xc0020, 14, 1⟩
/-- COH_RECLAIM_STATUS.DONE (R149). -/
def Fld.COH_RECLAIM_STATUS_DONE : Fld := ⟨0xc0020, 15, 1⟩
/-- COH_RECLAIM_STATUS.LINES_POISONED (R149). -/
def Fld.COH_RECLAIM_STATUS_LINES_POISONED : Fld := ⟨0xc0020, 32, 32⟩
/-- ENG_STATUS.DOORBELL_STALE (R181). -/
def Fld.ENG_STATUS_DOORBELL_STALE : Fld := ⟨0xd0000, 0, 16⟩
/-- ENG_STATUS.DOORBELL_REFUSED (R181). -/
def Fld.ENG_STATUS_DOORBELL_REFUSED : Fld := ⟨0xd0000, 16, 16⟩
/-- ENG_STATUS.DEADLINE_MISSES (R181). -/
def Fld.ENG_STATUS_DEADLINE_MISSES : Fld := ⟨0xd0000, 32, 16⟩
/-- ENG_STATUS.RECORDS_LOST (R181). -/
def Fld.ENG_STATUS_RECORDS_LOST : Fld := ⟨0xd0000, 48, 16⟩
/-- ENG_STATUS2.STEALS_CLUSTER (R181). -/
def Fld.ENG_STATUS2_STEALS_CLUSTER : Fld := ⟨0xd0008, 0, 32⟩
/-- ENG_STATUS2.STEALS_DIE (R181). -/
def Fld.ENG_STATUS2_STEALS_DIE : Fld := ⟨0xd0008, 32, 32⟩
/-- ENG_ENABLE.ENABLE (R181) of register n. -/
def Fld.ENG_ENABLE_ENABLE (n : Nat) : Fld := ⟨0xd0100 + 8 * n, 0, 64⟩
/-- ENG_RING_STATE.HEAD (R181) of register n. -/
def Fld.ENG_RING_STATE_HEAD (n : Nat) : Fld := ⟨0xd8000 + 8 * n, 0, 32⟩
/-- ENG_RING_STATE.STATE (R181) of register n. -/
def Fld.ENG_RING_STATE_STATE (n : Nat) : Fld := ⟨0xd8000 + 8 * n, 32, 2⟩
/-- ENG_RING_STATE.INFLIGHT (R181) of register n. -/
def Fld.ENG_RING_STATE_INFLIGHT (n : Nat) : Fld := ⟨0xd8000 + 8 * n, 34, 16⟩
/-- CRU_STATUS.CHUNKS_POSTED (R214). -/
def Fld.CRU_STATUS_CHUNKS_POSTED : Fld := ⟨0xe0000, 0, 32⟩
/-- CRU_STATUS.CHUNKS_BY_PARENT (R214). -/
def Fld.CRU_STATUS_CHUNKS_BY_PARENT : Fld := ⟨0xe0000, 32, 16⟩
/-- CRU_STATUS.LOCK_WAITS (R214). -/
def Fld.CRU_STATUS_LOCK_WAITS : Fld := ⟨0xe0000, 48, 16⟩
/-- CRU_STATUS2.SKETCHES_WRITTEN (R214). -/
def Fld.CRU_STATUS2_SKETCHES_WRITTEN : Fld := ⟨0xe0008, 0, 32⟩
/-- CRU_STATUS2.SK_SATURATED (R214). -/
def Fld.CRU_STATUS2_SK_SATURATED : Fld := ⟨0xe0008, 32, 16⟩
/-- CRU_STATUS2.NAN_ROWS (R214). -/
def Fld.CRU_STATUS2_NAN_ROWS : Fld := ⟨0xe0008, 48, 16⟩
/-- CRU_CTX.BOUND (R214) of register n. -/
def Fld.CRU_CTX_BOUND (n : Nat) : Fld := ⟨0xe1000 + 8 * n, 0, 1⟩
/-- CRU_CTX.RELEASING (R214) of register n. -/
def Fld.CRU_CTX_RELEASING (n : Nat) : Fld := ⟨0xe1000 + 8 * n, 1, 1⟩
/-- CRU_CTX.TENANT (R214) of register n. -/
def Fld.CRU_CTX_TENANT (n : Nat) : Fld := ⟨0xe1000 + 8 * n, 16, 10⟩
/-- CRU_CTX.LOCKS (R214) of register n. -/
def Fld.CRU_CTX_LOCKS (n : Nat) : Fld := ⟨0xe1000 + 8 * n, 32, 7⟩
/-- GTH_STATUS.ROWS_READ (R234). -/
def Fld.GTH_STATUS_ROWS_READ : Fld := ⟨0xf0000, 0, 32⟩
/-- GTH_STATUS.RANGE_FAULTS (R234). -/
def Fld.GTH_STATUS_RANGE_FAULTS : Fld := ⟨0xf0000, 32, 16⟩
/-- GTH_STATUS.EMPTY_BAGS (R234). -/
def Fld.GTH_STATUS_EMPTY_BAGS : Fld := ⟨0xf0000, 48, 16⟩
/-- RED_STATUS.NOT_ARMED (R234). -/
def Fld.RED_STATUS_NOT_ARMED : Fld := ⟨0xf0008, 0, 16⟩
/-- RED_STATUS.DUPLICATES (R234). -/
def Fld.RED_STATUS_DUPLICATES : Fld := ⟨0xf0008, 16, 16⟩
/-- RED_STATUS.REFUSED (R234). -/
def Fld.RED_STATUS_REFUSED : Fld := ⟨0xf0008, 32, 16⟩
/-- RED_STATUS.TIMEOUTS (R234). -/
def Fld.RED_STATUS_TIMEOUTS : Fld := ⟨0xf0008, 48, 16⟩
/-- RED_SLOT.RESERVED (R234) of register n. -/
def Fld.RED_SLOT_RESERVED (n : Nat) : Fld := ⟨0xf1000 + 8 * n, 0, 1⟩
/-- RED_SLOT.ARMED (R234) of register n. -/
def Fld.RED_SLOT_ARMED (n : Nat) : Fld := ⟨0xf1000 + 8 * n, 1, 1⟩
/-- RED_SLOT.TENANT (R234) of register n. -/
def Fld.RED_SLOT_TENANT (n : Nat) : Fld := ⟨0xf1000 + 8 * n, 16, 10⟩
/-- RED_SLOT.CONTRIB_DONE (R234) of register n. -/
def Fld.RED_SLOT_CONTRIB_DONE (n : Nat) : Fld := ⟨0xf1000 + 8 * n, 32, 9⟩
/-- RED_SLOT.ENGINE (R234) of register n. -/
def Fld.RED_SLOT_ENGINE (n : Nat) : Fld := ⟨0xf1000 + 8 * n, 48, 16⟩
/-- ECC_BUCKET_CTRL.LEAK_LOG2 (R258). -/
def Fld.ECC_BUCKET_CTRL_LEAK_LOG2 : Fld := ⟨0x100000, 0, 5⟩
/-- ECC_BUCKET_CTRL.CAP_SRAM (R258). -/
def Fld.ECC_BUCKET_CTRL_CAP_SRAM : Fld := ⟨0x100000, 16, 16⟩
/-- ECC_BUCKET_CTRL.CAP_STACK (R258). -/
def Fld.ECC_BUCKET_CTRL_CAP_STACK : Fld := ⟨0x100000, 32, 16⟩
/-- ECC_BUCKET_CTRL.CAP_DDR (R258). -/
def Fld.ECC_BUCKET_CTRL_CAP_DDR : Fld := ⟨0x100000, 48, 16⟩
/-- ECC_STATUS.SRAM_COLLISIONS (R258). -/
def Fld.ECC_STATUS_SRAM_COLLISIONS : Fld := ⟨0x100008, 0, 32⟩
/-- ECC_STATUS.TILES_RETIRED (R258). -/
def Fld.ECC_STATUS_TILES_RETIRED : Fld := ⟨0x100008, 32, 9⟩
/-- ECC_REGION.LEVEL (R258) of register n. -/
def Fld.ECC_REGION_LEVEL (n : Nat) : Fld := ⟨0x101000 + 8 * n, 0, 16⟩
/-- ECC_REGION.SINGLE (R258) of register n. -/
def Fld.ECC_REGION_SINGLE (n : Nat) : Fld := ⟨0x101000 + 8 * n, 16, 16⟩
/-- ECC_REGION.DOUBLE (R258) of register n. -/
def Fld.ECC_REGION_DOUBLE (n : Nat) : Fld := ⟨0x101000 + 8 * n, 32, 16⟩
/-- ECC_REGION.UNCORR (R258) of register n. -/
def Fld.ECC_REGION_UNCORR (n : Nat) : Fld := ⟨0x101000 + 8 * n, 48, 16⟩
/-- ECC_TEST_CTRL.ENABLE (R258). -/
def Fld.ECC_TEST_CTRL_ENABLE : Fld := ⟨0x100100, 0, 1⟩
/-- ECC_TEST_CTRL.TARGET (R258). -/
def Fld.ECC_TEST_CTRL_TARGET : Fld := ⟨0x100100, 1, 3⟩
/-- ECC_TEST_CTRL.DIE (R258). -/
def Fld.ECC_TEST_CTRL_DIE : Fld := ⟨0x100100, 4, 1⟩
/-- ECC_TEST_CTRL.TILE (R258). -/
def Fld.ECC_TEST_CTRL_TILE : Fld := ⟨0x100100, 8, 8⟩
/-- ECC_TEST_CTRL.ADDR (R258). -/
def Fld.ECC_TEST_CTRL_ADDR : Fld := ⟨0x100100, 16, 40⟩
/-- ECC_TEST_CTRL.OP (R258). -/
def Fld.ECC_TEST_CTRL_OP : Fld := ⟨0x100100, 56, 3⟩
/-- ECC_TEST_DATA.DATA (R258). -/
def Fld.ECC_TEST_DATA_DATA : Fld := ⟨0x100108, 0, 64⟩
/-- ECC_TEST_CHECK.CHECK (R258). -/
def Fld.ECC_TEST_CHECK_CHECK : Fld := ⟨0x100110, 0, 14⟩
/-- ECC_TEST_CHECK.META (R258). -/
def Fld.ECC_TEST_CHECK_META : Fld := ⟨0x100110, 14, 2⟩
/-- ECC_TEST_STATUS.DONE (R258). -/
def Fld.ECC_TEST_STATUS_DONE : Fld := ⟨0x100118, 0, 1⟩
/-- ECC_TEST_STATUS.ERROR (R258). -/
def Fld.ECC_TEST_STATUS_ERROR : Fld := ⟨0x100118, 1, 1⟩
/-- ECC_TEST_STATUS.OUTCOME (R258). -/
def Fld.ECC_TEST_STATUS_OUTCOME : Fld := ⟨0x100118, 2, 3⟩
/-- ECC_TEST_STATUS.POS0 (R258). -/
def Fld.ECC_TEST_STATUS_POS0 : Fld := ⟨0x100118, 8, 7⟩
/-- ECC_TEST_STATUS.POS1 (R258). -/
def Fld.ECC_TEST_STATUS_POS1 : Fld := ⟨0x100118, 16, 7⟩
/-- ECC_SCRUB_LAP.LAP_US (R258) of register n. -/
def Fld.ECC_SCRUB_LAP_LAP_US (n : Nat) : Fld := ⟨0x100200 + 8 * n, 0, 48⟩
/-- ECC_SCRUB_LAP.REGION (R258) of register n. -/
def Fld.ECC_SCRUB_LAP_REGION (n : Nat) : Fld := ⟨0x100200 + 8 * n, 48, 9⟩
/-- ECC_SCRUB_LAP.ENABLED (R258) of register n. -/
def Fld.ECC_SCRUB_LAP_ENABLED (n : Nat) : Fld := ⟨0x100200 + 8 * n, 57, 1⟩
/-- ECC_ANNEAL_CTRL.ENABLE (R258). -/
def Fld.ECC_ANNEAL_CTRL_ENABLE : Fld := ⟨0x100300, 0, 1⟩
/-- ECC_ANNEAL_CTRL.PERIOD_US (R258). -/
def Fld.ECC_ANNEAL_CTRL_PERIOD_US : Fld := ⟨0x100300, 16, 16⟩
/-- ECC_ANNEAL_STATUS.PASSES (R258). -/
def Fld.ECC_ANNEAL_STATUS_PASSES : Fld := ⟨0x100308, 0, 32⟩
/-- ECC_ANNEAL_STATUS.SOFT_REPAIRS (R258). -/
def Fld.ECC_ANNEAL_STATUS_SOFT_REPAIRS : Fld := ⟨0x100308, 32, 16⟩
/-- ECC_ANNEAL_STATUS.SPARES_EXHAUSTED (R258). -/
def Fld.ECC_ANNEAL_STATUS_SPARES_EXHAUSTED : Fld := ⟨0x100308, 48, 16⟩
/-- ECC_TIN_STATUS.STATE (R258). -/
def Fld.ECC_TIN_STATUS_STATE : Fld := ⟨0x100310, 0, 2⟩
/-- ECC_TIN_STATUS.PENDING (R258). -/
def Fld.ECC_TIN_STATUS_PENDING : Fld := ⟨0x100310, 2, 1⟩
/-- ECC_TIN_STATUS.COUNT (R258). -/
def Fld.ECC_TIN_STATUS_COUNT : Fld := ⟨0x100310, 16, 16⟩
/-- ECC_TIN_STATUS.LAST_CAUSE (R258). -/
def Fld.ECC_TIN_STATUS_LAST_CAUSE : Fld := ⟨0x100310, 32, 2⟩
/-- FAB_CTRL.RETRY_US (R286). -/
def Fld.FAB_CTRL_RETRY_US : Fld := ⟨0x110000, 0, 16⟩
/-- FAB_CTRL.RETRIES (R286). -/
def Fld.FAB_CTRL_RETRIES : Fld := ⟨0x110000, 16, 4⟩
/-- FAB_CTRL.STREAM_HOLD_US (R286). -/
def Fld.FAB_CTRL_STREAM_HOLD_US : Fld := ⟨0x110000, 24, 16⟩
/-- FAB_CTRL.CONG_WINDOW_LOG2 (R286). -/
def Fld.FAB_CTRL_CONG_WINDOW_LOG2 : Fld := ⟨0x110000, 40, 5⟩
/-- FAB_CTRL.ACK_HOLD_SLOTS (R286). -/
def Fld.FAB_CTRL_ACK_HOLD_SLOTS : Fld := ⟨0x110000, 48, 8⟩
/-- FAB_ROUTE_STATUS.EPOCH (R286). -/
def Fld.FAB_ROUTE_STATUS_EPOCH : Fld := ⟨0x110008, 0, 16⟩
/-- FAB_ROUTE_STATUS.STAGED_EPOCH (R286). -/
def Fld.FAB_ROUTE_STATUS_STAGED_EPOCH : Fld := ⟨0x110008, 16, 16⟩
/-- FAB_ROUTE_STATUS.EPOCH_STAGED (R286). -/
def Fld.FAB_ROUTE_STATUS_EPOCH_STAGED : Fld := ⟨0x110008, 32, 1⟩
/-- FAB_ROUTE_STATUS.DRAINED (R286). -/
def Fld.FAB_ROUTE_STATUS_DRAINED : Fld := ⟨0x110008, 33, 1⟩
/-- FAB_ROUTE_STATUS.PATH_BANK (R286). -/
def Fld.FAB_ROUTE_STATUS_PATH_BANK : Fld := ⟨0x110008, 34, 1⟩
/-- FAB_ROUTE_STATUS.DRAIN_MASK (R286). -/
def Fld.FAB_ROUTE_STATUS_DRAIN_MASK : Fld := ⟨0x110008, 48, 16⟩
/-- FAB_STATUS.STALE_EPOCH (R286). -/
def Fld.FAB_STATUS_STALE_EPOCH : Fld := ⟨0x110010, 0, 16⟩
/-- FAB_STATUS.AGED_OUT (R286). -/
def Fld.FAB_STATUS_AGED_OUT : Fld := ⟨0x110010, 16, 16⟩
/-- FAB_STATUS.NO_ROUTE (R286). -/
def Fld.FAB_STATUS_NO_ROUTE : Fld := ⟨0x110010, 32, 16⟩
/-- FAB_STATUS.CHECK_FAIL (R286). -/
def Fld.FAB_STATUS_CHECK_FAIL : Fld := ⟨0x110010, 48, 16⟩
/-- FAB_STATUS2.NACK_SENT (R286). -/
def Fld.FAB_STATUS2_NACK_SENT : Fld := ⟨0x110018, 0, 16⟩
/-- FAB_STATUS2.NACK_RECEIVED (R286). -/
def Fld.FAB_STATUS2_NACK_RECEIVED : Fld := ⟨0x110018, 16, 16⟩
/-- FAB_STATUS2.RETRIES_SENT (R286). -/
def Fld.FAB_STATUS2_RETRIES_SENT : Fld := ⟨0x110018, 32, 16⟩
/-- FAB_STATUS2.LATE_REPLIES (R286). -/
def Fld.FAB_STATUS2_LATE_REPLIES : Fld := ⟨0x110018, 48, 16⟩
/-- FAB_STATUS3.PATH_DROP (R286). -/
def Fld.FAB_STATUS3_PATH_DROP : Fld := ⟨0x110028, 0, 16⟩
/-- FAB_STATUS3.ENC_REFUSED (R286). -/
def Fld.FAB_STATUS3_ENC_REFUSED : Fld := ⟨0x110028, 16, 16⟩
/-- FAB_STATUS3.NO_PLACE (R286). -/
def Fld.FAB_STATUS3_NO_PLACE : Fld := ⟨0x110028, 32, 16⟩
/-- FAB_STREAM_STATUS.USED_C0 (R286). -/
def Fld.FAB_STREAM_STATUS_USED_C0 : Fld := ⟨0x110020, 0, 13⟩
/-- FAB_STREAM_STATUS.USED_C1 (R286). -/
def Fld.FAB_STREAM_STATUS_USED_C1 : Fld := ⟨0x110020, 16, 13⟩
/-- FAB_STREAM_STATUS.FULL_NACKS (R286). -/
def Fld.FAB_STREAM_STATUS_FULL_NACKS : Fld := ⟨0x110020, 32, 16⟩
/-- FAB_STREAM_STATUS.DUPLICATES (R286). -/
def Fld.FAB_STREAM_STATUS_DUPLICATES : Fld := ⟨0x110020, 48, 16⟩
/-- FAB_LINK_CTRL.AUTO_WIDTH (R306). -/
def Fld.FAB_LINK_CTRL_AUTO_WIDTH : Fld := ⟨0x130000, 0, 1⟩
/-- FAB_LINK_CTRL.ACCEPT_CREDIT (R306). -/
def Fld.FAB_LINK_CTRL_ACCEPT_CREDIT : Fld := ⟨0x130000, 1, 1⟩
/-- FAB_LINK_CTRL.UNCORR_LIMIT (R306). -/
def Fld.FAB_LINK_CTRL_UNCORR_LIMIT : Fld := ⟨0x130000, 8, 16⟩
/-- FAB_PORT_STATUS.STATE (R306) of register n. -/
def Fld.FAB_PORT_STATUS_STATE (n : Nat) : Fld := ⟨0x130100 + 32 * n, 0, 3⟩
/-- FAB_PORT_STATUS.WIDTH (R306) of register n. -/
def Fld.FAB_PORT_STATUS_WIDTH (n : Nat) : Fld := ⟨0x130100 + 32 * n, 3, 5⟩
/-- FAB_PORT_STATUS.LANE_MASK (R306) of register n. -/
def Fld.FAB_PORT_STATUS_LANE_MASK (n : Nat) : Fld := ⟨0x130100 + 32 * n, 8, 16⟩
/-- FAB_PORT_STATUS.NEIGH_PART (R306) of register n. -/
def Fld.FAB_PORT_STATUS_NEIGH_PART (n : Nat) : Fld := ⟨0x130100 + 32 * n, 24, 12⟩
/-- FAB_PORT_STATUS.NEIGH_SINK (R306) of register n. -/
def Fld.FAB_PORT_STATUS_NEIGH_SINK (n : Nat) : Fld := ⟨0x130100 + 32 * n, 36, 1⟩
/-- FAB_PORT_STATUS.REPLAY_USED (R306) of register n. -/
def Fld.FAB_PORT_STATUS_REPLAY_USED (n : Nat) : Fld := ⟨0x130100 + 32 * n, 48, 10⟩
/-- FAB_PORT_UID.NEIGH_UID (R306) of register n. -/
def Fld.FAB_PORT_UID_NEIGH_UID (n : Nat) : Fld := ⟨0x130108 + 32 * n, 0, 64⟩
/-- FAB_PORT_ERR.CORR_SYMBOLS (R306) of register n. -/
def Fld.FAB_PORT_ERR_CORR_SYMBOLS (n : Nat) : Fld := ⟨0x130110 + 32 * n, 0, 16⟩
/-- FAB_PORT_ERR.UNCORR_CW (R306) of register n. -/
def Fld.FAB_PORT_ERR_UNCORR_CW (n : Nat) : Fld := ⟨0x130110 + 32 * n, 16, 16⟩
/-- FAB_PORT_ERR.RETX_CELLS (R306) of register n. -/
def Fld.FAB_PORT_ERR_RETX_CELLS (n : Nat) : Fld := ⟨0x130110 + 32 * n, 32, 16⟩
/-- FAB_PORT_ERR.DUP_CELLS (R306) of register n. -/
def Fld.FAB_PORT_ERR_DUP_CELLS (n : Nat) : Fld := ⟨0x130110 + 32 * n, 48, 16⟩
/-- FAB_PORT_ERR2.TIMER_EXPIRIES (R306) of register n. -/
def Fld.FAB_PORT_ERR2_TIMER_EXPIRIES (n : Nat) : Fld := ⟨0x130118 + 32 * n, 0, 16⟩
/-- FAB_PORT_ERR2.LINK_DROPPED (R306) of register n. -/
def Fld.FAB_PORT_ERR2_LINK_DROPPED (n : Nat) : Fld := ⟨0x130118 + 32 * n, 16, 16⟩
/-- FAB_PORT_ERR2.RETRAINS (R306) of register n. -/
def Fld.FAB_PORT_ERR2_RETRAINS (n : Nat) : Fld := ⟨0x130118 + 32 * n, 32, 16⟩
/-- FAB_PORT_ERR2.FULL_SLOTS (R306) of register n. -/
def Fld.FAB_PORT_ERR2_FULL_SLOTS (n : Nat) : Fld := ⟨0x130118 + 32 * n, 48, 16⟩
/-- TC_PORT_STATUS.QUEUED (R322) of register n. -/
def Fld.TC_PORT_STATUS_QUEUED (n : Nat) : Fld := ⟨0x140100 + 16 * n, 0, 12⟩
/-- TC_PORT_STATUS.GATE_HELD (R322) of register n. -/
def Fld.TC_PORT_STATUS_GATE_HELD (n : Nat) : Fld := ⟨0x140100 + 16 * n, 16, 16⟩
/-- TC_PORT_STATUS.GUARD_HELD (R322) of register n. -/
def Fld.TC_PORT_STATUS_GUARD_HELD (n : Nat) : Fld := ⟨0x140100 + 16 * n, 32, 16⟩
/-- TC_PORT_STATUS.SHAPER_HELD (R322) of register n. -/
def Fld.TC_PORT_STATUS_SHAPER_HELD (n : Nat) : Fld := ⟨0x140100 + 16 * n, 48, 16⟩
/-- TC_GATE_STATE.ACTIVE_BASE (R322) of register n. -/
def Fld.TC_GATE_STATE_ACTIVE_BASE (n : Nat) : Fld := ⟨0x140108 + 16 * n, 0, 48⟩
/-- TC_GATE_STATE.ACTIVE_COUNT (R322) of register n. -/
def Fld.TC_GATE_STATE_ACTIVE_COUNT (n : Nat) : Fld := ⟨0x140108 + 16 * n, 48, 7⟩
/-- TC_GATE_STATE.BANK (R322) of register n. -/
def Fld.TC_GATE_STATE_BANK (n : Nat) : Fld := ⟨0x140108 + 16 * n, 55, 1⟩
/-- TC_GATE_STATE.ARMED (R322) of register n. -/
def Fld.TC_GATE_STATE_ARMED (n : Nat) : Fld := ⟨0x140108 + 16 * n, 56, 1⟩
/-- TC_METER_STATUS.GREEN (R322) of register n. -/
def Fld.TC_METER_STATUS_GREEN (n : Nat) : Fld := ⟨0x141000 + 8 * n, 0, 16⟩
/-- TC_METER_STATUS.YELLOW (R322) of register n. -/
def Fld.TC_METER_STATUS_YELLOW (n : Nat) : Fld := ⟨0x141000 + 8 * n, 16, 16⟩
/-- TC_METER_STATUS.RED (R322) of register n. -/
def Fld.TC_METER_STATUS_RED (n : Nat) : Fld := ⟨0x141000 + 8 * n, 32, 16⟩
/-- TC_METER_STATUS.NACKED (R322) of register n. -/
def Fld.TC_METER_STATUS_NACKED (n : Nat) : Fld := ⟨0x141000 + 8 * n, 48, 16⟩
/-- SEC_STATUS.LC_STATE (R353). -/
def Fld.SEC_STATUS_LC_STATE : Fld := ⟨0x150000, 0, 3⟩
/-- SEC_STATUS.TAMPERED (R353). -/
def Fld.SEC_STATUS_TAMPERED : Fld := ⟨0x150000, 8, 1⟩
/-- SEC_STATUS.TAMPER_SRC (R353). -/
def Fld.SEC_STATUS_TAMPER_SRC : Fld := ⟨0x150000, 9, 3⟩
/-- SEC_STATUS.SESSIONS (R353). -/
def Fld.SEC_STATUS_SESSIONS : Fld := ⟨0x150000, 16, 4⟩
/-- SEC_STATUS.CONSENT_SLOTS (R353). -/
def Fld.SEC_STATUS_CONSENT_SLOTS : Fld := ⟨0x150000, 32, 10⟩
/-- SEC_STATUS.TENANTS (R353). -/
def Fld.SEC_STATUS_TENANTS : Fld := ⟨0x150000, 48, 11⟩
/-- SEC_FAB_STATUS.PEER_FULL (R353). -/
def Fld.SEC_FAB_STATUS_PEER_FULL : Fld := ⟨0x150008, 0, 16⟩
/-- SEC_FAB_STATUS.NO_OUT_SLOT (R353). -/
def Fld.SEC_FAB_STATUS_NO_OUT_SLOT : Fld := ⟨0x150008, 16, 16⟩
/-- SEC_SWEEP_CTRL.GBPS (R353). -/
def Fld.SEC_SWEEP_CTRL_GBPS : Fld := ⟨0x150010, 0, 8⟩
/-- SEC_SWEEP_CTRL.FRAMES (R353). -/
def Fld.SEC_SWEEP_CTRL_FRAMES : Fld := ⟨0x150010, 8, 4⟩
/-- SEC_TENANT.EXISTS (R353) of register n. -/
def Fld.SEC_TENANT_EXISTS (n : Nat) : Fld := ⟨0x151000 + 8 * n, 0, 1⟩
/-- SEC_TENANT.SWEEPING (R353) of register n. -/
def Fld.SEC_TENANT_SWEEPING (n : Nat) : Fld := ⟨0x151000 + 8 * n, 1, 1⟩
/-- SEC_TENANT.KEY_LOST (R353) of register n. -/
def Fld.SEC_TENANT_KEY_LOST (n : Nat) : Fld := ⟨0x151000 + 8 * n, 2, 1⟩
/-- SEC_TENANT.PARTITIONED (R353) of register n. -/
def Fld.SEC_TENANT_PARTITIONED (n : Nat) : Fld := ⟨0x151000 + 8 * n, 3, 1⟩
/-- SEC_TENANT.KEY_GEN (R353) of register n. -/
def Fld.SEC_TENANT_KEY_GEN (n : Nat) : Fld := ⟨0x151000 + 8 * n, 16, 16⟩
/-- SEC_TENANT.SWEEP_COUNT (R353) of register n. -/
def Fld.SEC_TENANT_SWEEP_COUNT (n : Nat) : Fld := ⟨0x151000 + 8 * n, 32, 32⟩
/-- SEC_JOBKEY.STATE (R353) of register n. -/
def Fld.SEC_JOBKEY_STATE (n : Nat) : Fld := ⟨0x190000 + 8 * n, 0, 2⟩
/-- SEC_JOBKEY.CONSENT (R353) of register n. -/
def Fld.SEC_JOBKEY_CONSENT (n : Nat) : Fld := ⟨0x190000 + 8 * n, 2, 3⟩
/-- SEC_JOBKEY.DEBUG_OPEN (R353) of register n. -/
def Fld.SEC_JOBKEY_DEBUG_OPEN (n : Nat) : Fld := ⟨0x190000 + 8 * n, 5, 1⟩
/-- SEC_JOBKEY.TENANT (R353) of register n. -/
def Fld.SEC_JOBKEY_TENANT (n : Nat) : Fld := ⟨0x190000 + 8 * n, 16, 10⟩
/-- SEC_JOBKEY.PEERS (R353) of register n. -/
def Fld.SEC_JOBKEY_PEERS (n : Nat) : Fld := ⟨0x190000 + 8 * n, 32, 7⟩
/-- ANV_STATUS.STATE_A (R369). -/
def Fld.ANV_STATUS_STATE_A : Fld := ⟨0x1200, 0, 3⟩
/-- ANV_STATUS.STATE_B (R369). -/
def Fld.ANV_STATUS_STATE_B : Fld := ⟨0x1200, 3, 3⟩
/-- ANV_STATUS.TOKEN (R369). -/
def Fld.ANV_STATUS_TOKEN : Fld := ⟨0x1200, 8, 8⟩
/-- ANV_STATUS.LAST_FAULT_A (R369). -/
def Fld.ANV_STATUS_LAST_FAULT_A : Fld := ⟨0x1200, 16, 4⟩
/-- ANV_STATUS.LAST_FAULT_B (R369). -/
def Fld.ANV_STATUS_LAST_FAULT_B : Fld := ⟨0x1200, 20, 4⟩
/-- ANV_STATUS.LEASE_LEFT_NS (R369). -/
def Fld.ANV_STATUS_LEASE_LEFT_NS : Fld := ⟨0x1200, 32, 16⟩
/-- ANV_SWITCH.SWITCHOVERS (R369). -/
def Fld.ANV_SWITCH_SWITCHOVERS : Fld := ⟨0x1208, 0, 16⟩
/-- ANV_SWITCH.SWITCHBACKS (R369). -/
def Fld.ANV_SWITCH_SWITCHBACKS : Fld := ⟨0x1208, 16, 16⟩
/-- ANV_SWITCH.LAST_GAP_NS (R369). -/
def Fld.ANV_SWITCH_LAST_GAP_NS : Fld := ⟨0x1208, 32, 16⟩
/-- ANV_SWITCH.PATH_FAULTS (R369). -/
def Fld.ANV_SWITCH_PATH_FAULTS : Fld := ⟨0x1208, 48, 16⟩
/-- PWR_STATUS.STATE (R389). -/
def Fld.PWR_STATUS_STATE : Fld := ⟨0x160000, 0, 2⟩
/-- PWR_STATUS.SETPOINT_MV (R389). -/
def Fld.PWR_STATUS_SETPOINT_MV : Fld := ⟨0x160000, 8, 10⟩
/-- PWR_STATUS.ECLK_C0_MHZ (R389). -/
def Fld.PWR_STATUS_ECLK_C0_MHZ : Fld := ⟨0x160000, 24, 10⟩
/-- PWR_STATUS.ECLK_C1_MHZ (R389). -/
def Fld.PWR_STATUS_ECLK_C1_MHZ : Fld := ⟨0x160000, 34, 10⟩
/-- PWR_STATUS.THR_SUPPLY (R389). -/
def Fld.PWR_STATUS_THR_SUPPLY : Fld := ⟨0x160000, 44, 1⟩
/-- PWR_STATUS.THR_THERMAL (R389). -/
def Fld.PWR_STATUS_THR_THERMAL : Fld := ⟨0x160000, 45, 1⟩
/-- PWR_STATUS.THR_VRHOT (R389). -/
def Fld.PWR_STATUS_THR_VRHOT : Fld := ⟨0x160000, 46, 1⟩
/-- PWR_STATUS.THR_COMMAND (R389). -/
def Fld.PWR_STATUS_THR_COMMAND : Fld := ⟨0x160000, 47, 1⟩
/-- PWR_STATUS.BANK_A_OK (R389). -/
def Fld.PWR_STATUS_BANK_A_OK : Fld := ⟨0x160000, 48, 1⟩
/-- PWR_STATUS.BANK_B_OK (R389). -/
def Fld.PWR_STATUS_BANK_B_OK : Fld := ⟨0x160000, 49, 1⟩
/-- PWR_THERMAL.T_THROTTLE (R389). -/
def Fld.PWR_THERMAL_T_THROTTLE : Fld := ⟨0x160008, 0, 8⟩
/-- PWR_THERMAL.T_CORE_MAX (R389). -/
def Fld.PWR_THERMAL_T_CORE_MAX : Fld := ⟨0x160008, 8, 8⟩
/-- PWR_THERMAL.T_FAB_MAX (R389). -/
def Fld.PWR_THERMAL_T_FAB_MAX : Fld := ⟨0x160008, 16, 8⟩
/-- PWR_THERMAL.T_STACK_MAX (R389). -/
def Fld.PWR_THERMAL_T_STACK_MAX : Fld := ⟨0x160008, 24, 8⟩
/-- PWR_THERMAL.THERMAL_EVENTS (R389). -/
def Fld.PWR_THERMAL_THERMAL_EVENTS : Fld := ⟨0x160008, 32, 16⟩
/-- PWR_EPISODES.SUPPLY_EPISODES (R389). -/
def Fld.PWR_EPISODES_SUPPLY_EPISODES : Fld := ⟨0x160010, 0, 16⟩
/-- PWR_EPISODES.BANK_FAULTS_A (R389). -/
def Fld.PWR_EPISODES_BANK_FAULTS_A : Fld := ⟨0x160010, 16, 16⟩
/-- PWR_EPISODES.BANK_FAULTS_B (R389). -/
def Fld.PWR_EPISODES_BANK_FAULTS_B : Fld := ⟨0x160010, 32, 16⟩
/-- PWR_EPISODES.PMBUS_ERRORS (R389). -/
def Fld.PWR_EPISODES_PMBUS_ERRORS : Fld := ⟨0x160010, 48, 16⟩
/-- PWR_RAIL.VOUT_MV (R389) of register n. -/
def Fld.PWR_RAIL_VOUT_MV (n : Nat) : Fld := ⟨0x160100 + 8 * n, 0, 16⟩
/-- PWR_RAIL.IOUT_A (R389) of register n. -/
def Fld.PWR_RAIL_IOUT_A (n : Nat) : Fld := ⟨0x160100 + 8 * n, 16, 16⟩
/-- PWR_RAIL.TEMP_C (R389) of register n. -/
def Fld.PWR_RAIL_TEMP_C (n : Nat) : Fld := ⟨0x160100 + 8 * n, 32, 8⟩
/-- PWR_RAIL.STATUS_WORD (R389) of register n. -/
def Fld.PWR_RAIL_STATUS_WORD (n : Nat) : Fld := ⟨0x160100 + 8 * n, 40, 16⟩
/-- PWR_RAIL.MIN_PCT (R389) of register n. -/
def Fld.PWR_RAIL_MIN_PCT (n : Nat) : Fld := ⟨0x160100 + 8 * n, 56, 8⟩
/-- CLK_LTC.LTC (R407). -/
def Fld.CLK_LTC_LTC : Fld := ⟨0x170000, 0, 64⟩
/-- CLK_STATUS.KCLK_A_OK (R407). -/
def Fld.CLK_STATUS_KCLK_A_OK : Fld := ⟨0x170008, 0, 1⟩
/-- CLK_STATUS.KCLK_B_OK (R407). -/
def Fld.CLK_STATUS_KCLK_B_OK : Fld := ⟨0x170008, 1, 1⟩
/-- CLK_STATUS.LTC_SOURCE (R407). -/
def Fld.CLK_STATUS_LTC_SOURCE : Fld := ⟨0x170008, 2, 1⟩
/-- CLK_STATUS.LTC_SPLIT_NS (R407). -/
def Fld.CLK_STATUS_LTC_SPLIT_NS : Fld := ⟨0x170008, 16, 16⟩
/-- RST_STATUS.PHASES (R407). -/
def Fld.RST_STATUS_PHASES : Fld := ⟨0x170010, 0, 8⟩
/-- RST_STATUS.LAST_TYPE (R407). -/
def Fld.RST_STATUS_LAST_TYPE : Fld := ⟨0x170010, 8, 3⟩
/-- RST_STATUS.LAST_SOURCE (R407). -/
def Fld.RST_STATUS_LAST_SOURCE : Fld := ⟨0x170010, 11, 3⟩
/-- RST_STATUS.LAST_LTC (R407). -/
def Fld.RST_STATUS_LAST_LTC : Fld := ⟨0x170010, 16, 48⟩
/-- RST_PHASE_LTC.DONE_LTC (R407) of register n. -/
def Fld.RST_PHASE_LTC_DONE_LTC (n : Nat) : Fld := ⟨0x170100 + 8 * n, 0, 48⟩
/-- TEL_STATUS.DSEQ_NEXT (R428). -/
def Fld.TEL_STATUS_DSEQ_NEXT : Fld := ⟨0x180000, 0, 32⟩
/-- TEL_STATUS.RING_VALID (R428). -/
def Fld.TEL_STATUS_RING_VALID : Fld := ⟨0x180000, 32, 1⟩
/-- TEL_STATUS.RING_LOST (R428). -/
def Fld.TEL_STATUS_RING_LOST : Fld := ⟨0x180000, 33, 1⟩
/-- TEL_STATUS.SKIPPED (R428). -/
def Fld.TEL_STATUS_SKIPPED : Fld := ⟨0x180000, 40, 16⟩
/-- FLT_STATUS.NEXT_FREC (R428). -/
def Fld.FLT_STATUS_NEXT_FREC : Fld := ⟨0x180008, 0, 32⟩
/-- FLT_STATUS.LOG_NEXT (R428). -/
def Fld.FLT_STATUS_LOG_NEXT : Fld := ⟨0x180008, 32, 32⟩
/-- FLT_STATUS2.COALESCED (R428). -/
def Fld.FLT_STATUS2_COALESCED : Fld := ⟨0x180010, 0, 16⟩
/-- FLT_DEGRADED.TILES_RETIRED (R428). -/
def Fld.FLT_DEGRADED_TILES_RETIRED : Fld := ⟨0x180018, 0, 16⟩
/-- FLT_DEGRADED.STACKS_LOST (R428). -/
def Fld.FLT_DEGRADED_STACKS_LOST : Fld := ⟨0x180018, 16, 12⟩
/-- FLT_DEGRADED.DDR_LOST (R428). -/
def Fld.FLT_DEGRADED_DDR_LOST : Fld := ⟨0x180018, 28, 12⟩
/-- FLT_DEGRADED.PORTS_LOST (R428). -/
def Fld.FLT_DEGRADED_PORTS_LOST : Fld := ⟨0x180018, 40, 16⟩
/-- FLT_DEGRADED.UNITS_LOST (R428). -/
def Fld.FLT_DEGRADED_UNITS_LOST : Fld := ⟨0x180018, 56, 6⟩

end Sys2Proof.Machine
end

