-- ==== Sys2Proof/Machine/State.lean ====
section
/-! DEFINITION. The state of the part: every register, table, queue, buffer and pin the manual names, as plain data;
the reasons a step can stop; and the state after reset. -/

namespace Sys2Proof.Machine

/-! ### Clocks and pins -/

/-- The local time counter: both copies, which one is followed, and the supplies and references they need (R395, R391). -/
structure Clk where
  ltcA : Ltc := 0
  ltcB : Ltc := 0
  vaonA : Bool := true
  vaonB : Bool := true
  followB : Bool := false
  kclkA : Bool := true
  kclkB : Bool := true
  deriving DecidableEq, Repr

/-- Sideband pins that hold a level (R56, R376, R387). ALERT_N is a function of the events held (`alertLow`). -/
structure Pins where
  replaceReqLow : Bool := false
  tamperLow : Bool := false
  thermtripLow : Bool := false
  bankEnA : Bool := true
  bankEnB : Bool := true
  deriving DecidableEq, Repr

/-! ### The command protocol -/

/-- One session (R46, R47, R329): H (`high`) and the records of the accepted SEQ values of its window. -/
structure Session where
  id : BitVec 32
  subscriber : Bool
  node : BitVec 16
  src : CmdSource
  high : Option (BitVec 32) := none
  recs : Tab (Option (BitVec 16)) := []
  deriving DecidableEq, Repr

/-- Where a journaled command stands (R51). -/
inductive JState where
  | queued
  | running (began : Ltc)
  | replied
  deriving DecidableEq, Repr

/-- A journal entry (R40, R51). `sentOn` is the Kaferlink port and the frame that ends the final reply, `sentAt` when a final
reply left through another part. -/
structure JEntry where
  h : CmdHdr
  params : List Byte
  src : CmdSource
  accepted : Ltc
  st : JState := .queued
  reply : Option Reply := none
  readyAt : Ltc := 0
  sentOn : Option (KPort × BitVec 16) := none
  sentRelay : Bool := false
  sentAt : Ltc := 0
  held : Bool := false
  reexec : Bool := false
  interims : Nat := 0
  deriving DecidableEq, Repr

/-- A relayed command outstanding (R42). -/
structure RelayEntry where
  h : CmdHdr
  port : CmdSource
  due : Ltc
  deriving DecidableEq, Repr

/-- An event packet (R53): header fields and payload, as it is held. -/
structure EventRec where
  seq : BitVec 32
  cls : BitVec 16
  source : BitVec 12
  tenant : BitVec 12
  ltc : BitVec 48
  gen : BitVec 16
  len : BitVec 16
  payload : Nat
  sent : Bool := false
  due : Ltc := 0
  deriving DecidableEq, Repr

/-- A packet of the Kaferlink payload stream (R38), as the part sends it: its own reply, its own event to a session, or a
packet of a part it relays for. -/
inductive KPacket where
  | reply (r : Reply)
  | event (e : EventRec) (rep : Bool) (session : BitVec 32)
  | relayed (m : RelayMsg)
  deriving DecidableEq, Repr

/-- A data frame in the replay buffer (R39): its FSEQ, the packets that end in it, and which piece of 1,248 bytes of which
packet it carries. -/
structure TxFrame where
  fseq : BitVec 16
  ends : List KPacket
  pkt : KPacket
  piece : Nat
  deriving DecidableEq, Repr

/-- One Kaferlink port's frame state (R36-R40): the last FSEQ sent, the highest FSEQ accepted in order, the unacknowledged
frames, the packets that wait to be sent with the time since which they do, the resends of the oldest frame, whether later
frames are being discarded, since when no ACK has advanced, the bytes received of a packet that is not yet whole, and the whole
command packets not yet taken with the FSEQ of the frame each ended in. -/
structure KLink where
  lastSent : BitVec 16 := 0
  lastGood : BitVec 16 := 0
  unacked : List TxFrame := []
  waiting : List (Ltc × KPacket) := []
  resends : Nat := 0
  discarding : Bool := false
  ackAt : Ltc := 0
  rx : List Byte := []
  cmds : List (BitVec 16 × List Byte) := []
  deriving DecidableEq, Repr

/-- A key of the coalescing windows (R414): the window's end, its count, and the first occurrence within it with its tenant. -/
structure Window where
  cls : Byte
  code : Byte
  kind : Byte
  index : BitVec 12
  ends : Ltc
  count : Nat := 0
  first : Nat := 0
  tenant : BitVec 12 := 0xFFF
  deriving DecidableEq, Repr

/-! ### Mode changes -/

/-- The settings an S opcode writes (R61): route epoch, route table, partitions, and the traffic-control tables 0..3 of R318
keyed by table × 65,536 + entry. Entries a table does not list have their Reset values. -/
structure Settings where
  epoch : BitVec 16 := 0
  routes : Tab (BitVec 32) := []
  partitions : Tab (BitVec 512) := []
  traffic : Tab (BitVec 128) := []
  deriving DecidableEq, Repr

/-- A staged command's effect (R62). -/
inductive StagedOp where
  | partition (tenant : BitVec 10) (e : BitVec 512)
  | routes (epoch first : BitVec 16) (entries : List (BitVec 32))
  | epoch (e : BitVec 16)
  | traffic (table : Byte) (first : BitVec 16) (entries : List (BitVec 128))
  deriving DecidableEq, Repr

/-- A staged command: its SEQ and its effect. -/
structure Staged where
  seq : BitVec 32
  op : StagedOp
  deriving DecidableEq, Repr

/-- A `MODE_COMMIT` that waits for its activation LTC (R62). -/
structure Commit where
  h : CmdHdr
  gen : BitVec 16
  act : BitVec 48
  deriving DecidableEq, Repr

/-- The mode state held in the mailbox (R62, R63): applied settings, those of the open window, the generation closed last,
staged commands. -/
structure Mode where
  applied : Settings := {}
  prev : Option Settings := none
  prevGen : BitVec 16 := 0
  closedGen : Option (BitVec 16) := none
  staged : List Staged := []
  commit : Option Commit := none
  discardStale : BitVec 32 := 0
  discardAhead : BitVec 32 := 0
  discardGen : BitVec 8 := 0
  discardLtc : BitVec 48 := 0
  discardDue : Option Ltc := none
  deriving DecidableEq, Repr

/-- The control plane: sessions by slot, journal in order, relay list and relayed commands, Kaferlink ports, replies without a
journal entry that wait for the gap to end before they leave in cells, the number of the next packet sent in cells (R261), events
held and their numbering, counts of events lost, fault log, coalescing windows (R36-R64, R415). -/
structure Ctl where
  sessions : Tab Session := []
  journal : List JEntry := []
  relayList : List (BitVec 12) := []
  relayed : List RelayEntry := []
  kA : KLink := {}
  kB : KLink := {}
  heldReplies : List (CmdSource × Reply) := []
  packetNo : BitVec 18 := 0
  partId : Option (BitVec 12) := none
  events : List EventRec := []
  nextEvent : BitVec 32 := 0
  lost : Tab (BitVec 16) := []
  log : Tab (BitVec 512) := []
  windows : List Window := []
  deriving DecidableEq, Repr

/-! ### Keys, tenants and identity -/

/-- A key rotation of a tenant (R336): the old generation and its key, the pointer P in lines of each item being swept, the
runs of items no longer tagged with the old generation, and SWEEP_COUNT. Items are numbered in
sweep order: stack frames, then 2^24 + far frames, then 2^40 + 2^38 × tier + the first sector of a compressed unit. `oldLost`:
the old key was lost (R335). -/
structure Sweep where
  gen : BitVec 16
  key : Nat
  ptrs : Tab Nat := []
  fresh : List (Nat × Nat) := []
  count : Nat := 0
  oldLost : Bool := false
  deriving DecidableEq, Repr

/-- A tenant (R331, R335, R336): its entry, the generation and number of its key. -/
structure Tenant where
  entry : BitVec 512
  keyGen : BitVec 16 := 1
  key : Nat
  keyLost : Bool := false
  sweep : Option Sweep := none
  deriving DecidableEq, Repr

/-- A debug handle (R345). -/
structure DebugHandle where
  handle : BitVec 32
  scope : BitVec 16
  deriving DecidableEq, Repr

/-- A job-key slot that holds a binding (R339, R342): its peer table maps a part ID to the highest number performed. -/
structure JobKey where
  binding : BitVec 512
  lost : Bool := false
  peers : Tab (BitVec 48) := []
  dbg : Option DebugHandle := none
  deriving DecidableEq, Repr

/-- Boundary scan enabled under a slot (R347). -/
structure Scan where
  slot : BitVec 16
  ends : Ltc
  deriving DecidableEq, Repr

/-- A `LIFECYCLE_ADVANCE` whose Tinning runs (`begun`) or waits for an earlier one (R255, R257, R324). -/
structure LcPending where
  h : CmdHdr
  target : BitVec 3
  owner : BitVec 512
  secret : BitVec 256
  begun : Bool
  deriving DecidableEq, Repr

/-- The Hecor state (R323-R348). The keys' values are not held: a key is named by its owner and generation. `sweepLines` counts the
lines that key sweeps re-encrypted in the stretch of 4 ns numbered `sweepAt`. -/
structure Sec where
  tenants : Tab Tenant := []
  jobs : Tab JobKey := []
  scan : Option Scan := none
  platformKey : Nat := 0
  tampered : Bool := false
  source : BitVec 3 := 0
  lcPending : Option LcPending := none
  sweepAt : Nat := 0
  sweepLines : Nat := 0
  deriving DecidableEq, Repr

/-- What fuses hold (R250, R323, R324, R365, R389): no reset changes it. `spares` is the fuse map: the rows and bit-columns of a
macro that spares replace. `romSigner` and `romIssuer` are the key digests of the Hecor ROM (R324, R364). -/
structure Fuses where
  uid : BitVec 64 := Config.fusedUid
  lc : BitVec 3 := 2
  owner : BitVec 512 := Config.fusedOwner
  secret : BitVec 256 := Config.fusedSecret
  romSigner : BitVec 256 := Config.romSigner
  romIssuer : BitVec 512 := Config.romIssuer
  minVersion : BitVec 32 := 0
  setpointMv : BitVec 10 := 720
  spares : Tab (List Nat × List Nat) := []
  deriving DecidableEq, Repr

/-! ### The Anvil pair -/

/-- One Anvil and its health-report entry (R355, R363), the digest of its image (R327), the offset of its first instruction (R364),
and the `FW_ACTIVATE` that runs. -/
structure Anvil where
  state : BitVec 3 := 1
  healthy : Bool := false
  testing : Bool := false
  failed : BitVec 8 := 0
  passes : BitVec 32 := 0
  lastPass : BitVec 48 := 0
  fw : BitVec 32 := 0
  image : BitVec 512 := 0
  entry : BitVec 32 := 0
  lastFault : BitVec 4 := 0
  lastBeat : Ltc := 0
  pathFailed : BitVec 8 := 0
  activating : Option CmdHdr := none
  deriving DecidableEq, Repr

/-- The firmware staging area (R365): the open load, the bytes present, and whether the image was verified. -/
structure Staging where
  opened : Bool := false
  length : BitVec 32 := 0
  version : BitVec 32 := 0
  bytes : Tab Byte := []
  verified : Bool := false
  deriving DecidableEq, Repr

/-- The pair (R357-R359): token, lease, heartbeat count, when the standby last saw a heartbeat on the sideband and on the
mailbox path, and the takeover that has yet to send its SWITCH_OVER event: former holder, its last heartbeat, and when the
token was taken. -/
structure AnvPair where
  a : Anvil := {}
  b : Anvil := {}
  token : Option FDie := none
  lease : Ltc := 0
  beats : BitVec 32 := 0
  sideband : Ltc := 0
  mailbox : Ltc := 0
  takeover : Option (FDie × Ltc × Ltc) := none
  staging : Staging := {}
  deriving DecidableEq, Repr

/-! ### Telemetry -/

/-- A cluster counter (R416): event number, tenant (0xFFF: every occurrence) and value. -/
structure Counter where
  event : BitVec 16 := 0
  tenant : BitVec 12 := 0xFFF
  value : Word := 0
  stopped : Bool := false
  deriving DecidableEq, Repr

/-- Counters, dump ring with the end of its period, and sampling (R416-R424). -/
structure Tel where
  counters : Tab Counter := []
  ringAddr : Word := 0
  ringSize : BitVec 32 := 0
  period : BitVec 32 := 0
  dumpAt : Ltc := 0
  rateLog2 : BitVec 5 := 0
  groups : BitVec 5 := 0
  tenant : BitVec 12 := 0xFFF
  deriving DecidableEq, Repr

/-! ### The fabric -/

/-- A request of class 0 or 5 this part has sent and that lacks its full reply (R276, R279): stream, number, endpoint, the
cell as sent, the reply cells still missing (bit j: block j), sendings, `NACK`s and the latest one, and whether it waits in its
queue again. -/
structure Request where
  dest : BitVec 12
  enc : Bool
  owner : BitVec 13
  num : BitVec 48
  port : BitVec 4
  tenant : BitVec 10
  cell : Cell
  missing : BitVec 64
  firstSent : Ltc
  lastSent : Ltc
  sends : Nat := 1
  nacks : Nat := 0
  waiting : Bool := false
  backoff : Bool := false
  nackAt : Ltc := 0
  atom : Nat := 0
  deriving DecidableEq, Repr

/-- A pending fence of a stream (R277, R280). -/
structure PendingFence where
  num : BitVec 48
  at_ : Ltc
  cell : Cell
  deriving DecidableEq, Repr

/-- A stream entry (R277, R278, R264): BASE, bitmap, PERFORMED, old values of the last 16 atomics and whether they were poison,
pending fence, reply-cell count, acknowledgements held and when their hold ends, time of the last traffic. -/
structure Stream where
  base : BitVec 48
  bits : BitVec 1024 := 0
  performed : Word := 0
  olds : List (BitVec 48 × Word × Bool) := []
  fence : Option PendingFence := none
  rctr : BitVec 21 := 0
  acks : List (BitVec 48) := []
  ackAt : Ltc := 0
  tenant : BitVec 10 := 0
  last : Ltc := 0
  deriving DecidableEq, Repr

/-- A port's congestion counts of the running window and its latched map (R270). -/
structure Congestion where
  busy : BitVec 32 := 0
  deflOut : BitVec 32 := 0
  deflMiss : BitVec 32 := 0
  injWait : BitVec 32 := 0
  latched : BitVec 256 := 0
  deriving DecidableEq, Repr

/-- A request of class 0 that waits on the wait lists of its lines (R134, R277): its cell and number, what the outside answers
within its step, and whether it is a duplicate to be performed again. -/
structure WaitingCell where
  cell : Cell
  num : Nat
  x : Ext
  again : Bool
  deriving DecidableEq, Repr

/-- A cell on the crossing toward a fabric die (R265): the external port it arrived on, when it was sent, and the slot. -/
structure Crossing where
  die : FDie
  port : BitVec 4
  at_ : Ltc
  slot : Nat
  cell : Cell
  deriving DecidableEq, Repr

/-- A `ROUTE_DRAIN` whose final reply is outstanding (R271): its mask, and the requests it waits for. -/
structure Drain where
  h : CmdHdr
  mask : BitVec 16
  reqs : List (Nat × BitVec 48)
  deriving DecidableEq, Repr

/-- Endpoints and router: path banks (R272), next stream numbers, outstanding requests, stream entries, requests that wait at
the homes, congestion maps and the slot their window began in (R270), the drains whose final reply is outstanding (R271), the
cells on the crossing (R265), and how many atomics each stream has sent (R276). -/
structure Fab where
  paths0 : Tab (BitVec 128) := []
  paths1 : Tab (BitVec 128) := []
  nextNum : Tab (BitVec 48) := []
  reqs : List Request := []
  streams : Tab Stream := []
  waiting : List WaitingCell := []
  cong : Tab Congestion := []
  congAt : Nat := 0
  drains : List Drain := []
  crossing : List Crossing := []
  atoms : Tab Nat := []
  deriving DecidableEq, Repr

/-! ### Fabric links -/

/-- A data cell held in a replay buffer (R295, R298, R299): LSEQ, cell, first and latest sending, and the horizon h of its
latest retransmission on gap evidence. -/
structure HeldCell where
  lseq : BitVec 10
  cell : Cell
  first : Ltc
  latest : Ltc
  h : Option (BitVec 10) := none
  deriving DecidableEq, Repr

/-- A `RETRAIN_REQ` or `WIDTH_REQ` outstanding (R294, R302, R303); width 0 marks a retrain. -/
structure LinkReq where
  num : BitVec 8
  width : BitVec 5
  lanes : BitVec 16
  auto : Bool
  deriving DecidableEq, Repr

/-- A fabric port's link state (R291, R295-R303). LACK starts one below LSEQ 0; `failed` names the lanes lost since the latest training
(R302), `freeAt` the slot from which the port is free (R302), `helloAt` and `reqAt` those of the next `HELLO` and request (R291,
R294), `avAt` the one after the last cell with AV = 1 (R297), `fullAt` the one last counted in FULL_SLOTS (R306), and `unc` the
uncorrectable codewords of the last millisecond (R302). -/
structure LPort where
  signal : BitVec 16 := 0
  lanes : Option (BitVec 16) := none
  good : BitVec 16 := 0
  peerLanes : BitVec 16 := 0
  seenPeer : Bool := false
  sentSeen : Bool := false
  peerSeen : Bool := false
  pool : BitVec 10 := 0
  reserve : BitVec 8 := 0
  next : BitVec 10 := 0
  replay : List HeldCell := []
  lack : BitVec 10 := 1023
  win : BitVec 512 := 0
  reqNum : BitVec 8 := 0
  req : Option LinkReq := none
  change : Option LinkReq := none
  used : Tab Nat := []
  returned : Tab (BitVec 5) := []
  failed : BitVec 16 := 0
  freeAt : Nat := 0
  helloAt : Nat := 0
  reqAt : Nat := 0
  avAt : Nat := 0
  fullAt : Option Nat := none
  unc : List (Ltc × Nat) := []
  deriving DecidableEq, Repr

/-! ### Traffic control -/

/-- A request cell in its tenant queue (R308); `resend` names one sent before. -/
structure QCell where
  cell : Cell
  num : BitVec 48
  resend : Bool := false
  atom : Nat := 0
  deriving DecidableEq, Repr

/-- A tenant queue of a port (R311, R312): tags, cells, shaper credit in 1/256 byte and the time it was last brought up. -/
structure TQueue where
  s : BitVec 48 := 0
  f : BitVec 48 := 0
  cells : List QCell := []
  credit : Int := 0
  at_ : Ltc := 0
  leftAt : Option Ltc := none
  deriving DecidableEq, Repr

/-- A port's scheduler and gate (R311, R315, R317): virtual time, queues by tenant, two gate banks, the active list, the
armed port entry and the time of its swap. -/
structure TPort where
  v : BitVec 48 := 0
  queues : Tab TQueue := []
  bank0 : Tab (BitVec 64) := []
  bank1 : Tab (BitVec 64) := []
  cycle : BitVec 24 := 0
  armed : Option (BitVec 128) := none
  swapAt : Ltc := 0
  deriving DecidableEq, Repr

/-- A tenant's meter (R313): tokens in 1/256 byte and the time they were last brought up. -/
structure Meter where
  tc : Nat := 0
  ts : Nat := 0
  at_ : Ltc := 0
  deriving DecidableEq, Repr

/-- The traffic-control state. -/
structure Tc where
  ports : Tab TPort := []
  meters : Tab Meter := []
  deriving DecidableEq, Repr

/-! ### Stored words, tiers and repair -/

/-- A memory array kept under the code (R20, R241, R333): the data bytes, the metadata bits of each word, the pattern by which
the stored codeword of a word differs from the right codeword of its data (poison is the pattern of R242), and for each line
the key under which it was last written: 0 for raw, otherwise 1 + the key's number. Bytes not listed are 0; a line's bytes
are its plaintext under its tag. -/
structure Store where
  bytes : List Host.Cell := []
  metas : Tab (BitVec 2) := []
  errs : Tab (BitVec 80) := []
  tags : Tab Nat := []
  deriving DecidableEq, Repr

/-- A request in a controller queue (R75, R76). -/
structure QReq where
  id : Nat
  bank : Nat
  row : Nat
  write : Bool
  tenant : Nat
  at_ : Ltc
  deriving DecidableEq, Repr

/-- A stack pseudo-channel or DDR channel (R75-R79): its queue, the banks in in-order mode with the newest request each
must still issue, when self-refresh entry began with the losses of its segments before it, and when the latest request
arrived, whether writes are drained, the open row of each bank, until when a bank is being refreshed, and the time up to which a
bank was refreshed (`refBase` where `refs` lists none). -/
structure MUnit where
  queue : List QReq := []
  nextId : Nat := 0
  inorder : Tab Nat := []
  sr : Option Ltc := none
  undo : Tab Nat := []
  last : Ltc := 0
  draining : Bool := false
  rows : Tab Nat := []
  busy : Tab Ltc := []
  refBase : Ltc := 0
  refs : Tab Ltc := []
  deriving DecidableEq, Repr

/-- An ingot (R101, R105). -/
structure Ingot where
  tenant : BitVec 10
  kind : BitVec 2
  base : BitVec 10
  count : BitVec 10
  releasing : Option CmdHdr := none
  deriving DecidableEq, Repr

/-- The accesses outstanding when the translation epoch was flipped (R105, R122): when that was, the requests to other nodes by
stream and number, and the lines asked for by ELCs. -/
structure Epoch where
  began : Ltc := 0
  reqs : List (Nat × BitVec 48) := []
  pend : List Nat := []
  deriving DecidableEq, Repr

/-- A window write held while the page of its entry is moved, and the command whose reply waits for it (R111). -/
structure HeldWrite where
  la : Nat
  val : Word
  cmd : Option CmdHdr := none
  deriving DecidableEq, Repr

/-- The final reply of a command some of whose window writes are held. -/
structure HeldReply where
  h : CmdHdr
  status : Nat
  payload : List Byte
  deriving DecidableEq, Repr

/-- A page move in progress (R90, R91): a promotion into a landing frame, a demotion whose invalidation is waited for, or a
demotion whose copy runs to a tier and address. -/
inductive MoveKind where
  | promote (frame : Nat)
  | demoteWait (epoch : Epoch)
  | demoteCopy (tier addr : Nat)
  deriving DecidableEq, Repr

/-- A page that is being moved: its entry's address and value, the destination code, whether a `TIER_MOVE` began it, and
when it began. -/
structure PageMove where
  tenant : BitVec 10
  page : Nat
  pte : Nat
  old : Nat
  dest : Nat
  kind : MoveKind
  cmd : Bool
  began : Ltc
  deriving DecidableEq, Repr

/-- A unit of a compressed page (R82): sectors, codec (0 raw, 1 LZ4, 2 Planish), first sector and tier, the generation. -/
structure UnitEntry where
  sectors : Nat
  codec : Nat
  sector : Nat
  tier : Nat
  gen : BitVec 16
  deriving DecidableEq, Repr

/-- The page map of a compressed page (R82), with the destination code it was made under. -/
structure PageMap where
  tenant : BitVec 10
  page : Nat
  code : Nat
  units : List UnitEntry
  deriving DecidableEq, Repr

/-- A `TIER_MOVE` that runs (R88): next page, pages left, destination, pages moved, frames left vacant. -/
structure TierCmd where
  h : CmdHdr
  tenant : BitVec 10
  next : Nat
  left : Nat
  dest : Nat
  moved : Nat := 0
  vacant : List Nat := []
  deriving DecidableEq, Repr

/-- The memory tiers (R66-R98): stored arrays, controllers, segments lost to masked self-refresh and granules zeroed since (numbered by `tick`), ingots, landing list, frames that hold
a promoted page, page moves, promotions that wait, the `TIER_MOVE` begun last, window writes held and the replies that wait for them, far frames in use (tenant, page), page maps by
2^40 × tier + sector, runs of sectors in use by the same key, access counters, the last epoch boundary and hot-page
reports. -/
structure Mem where
  stack : Store := {}
  far : Store := {}
  sram : Store := {}
  units : Tab MUnit := []
  tick : Nat := 0
  lost : Tab Nat := []
  zeroed : Tab Nat := []
  ingots : Tab Ingot := []
  landing : List (BitVec 19) := []
  promoted : Tab (BitVec 10) := []
  moves : List PageMove := []
  waitPromote : List (BitVec 10 × Nat) := []
  noticedEmpty : Bool := false
  tierCmds : List TierCmd := []
  lastTier : Option CmdHdr := none
  heldPtw : List HeldWrite := []
  heldReplies : List HeldReply := []
  farUsed : Tab (BitVec 10 × Nat) := []
  maps : Tab PageMap := []
  runs : Tab Nat := []
  hot : Tab (BitVec 64) := []
  hotAt : Ltc := 0
  reports : List (BitVec 256) := []
  firstReport : Ltc := 0
  epochReports : Nat := 0
  deriving DecidableEq, Repr

/-- A write of bytes of an SRAM word through a port (R237, R238): the ECLK cycle it is performed in, and whether it is a retry. -/
structure SramWrite where
  loc : Nat
  port : Nat
  mask : Nat
  cycle : Nat
  retry : Bool := false
  deriving DecidableEq, Repr

/-- Repair and scrubbing (R246-R256): corrections since a region's last event (singles, doubles), the next Anneal region of
each macro group, spares used in each macro (rows, columns), retired tiles, and for each scrubbed region the start of the
lap, the scrubbers that finished it and the last lap, each scrubber's next address, the region of the last exhausted macro,
retained macro groups and wakes under way, the last leak tick, the beginning of each group's last Anneal pass, and the writes of
the present ECLK cycle with those tried again in the next. -/
structure Ecc where
  since : Tab (BitVec 32 × BitVec 32) := []
  annealAt : Tab Nat := []
  spares : Tab (Nat × Nat) := []
  retired : Tab Bool := []
  lapStart : Tab Ltc := []
  lapDone : Tab (List Nat) := []
  laps : Tab (BitVec 48) := []
  scrubAt : Tab Nat := []
  exhausted : BitVec 16 := 0xFFFF
  retained : Tab Bool := []
  wakes : Tab Ltc := []
  leakAt : Ltc := 0
  annealed : Tab Ltc := []
  writes : List SramWrite := []
  deriving DecidableEq, Repr

/-! ### Coherence -/

/-- A directory entry (R129): owned or shared, coarse, pointers, groups; `used` orders entries for eviction (R130). -/
structure DirEntry where
  owned : Bool
  coarse : Bool := false
  ptrs : List (BitVec 14) := []
  groups : BitVec 64 := 0
  used : Nat := 0
  deriving DecidableEq, Repr

/-- What a request asks of the home (R133); `evict` recalls a line whose directory entry is needed (R130),
`cell` is the place of a fabric request of class 0, by stream and number. -/
inductive CohOp where
  | rdShared
  | rdOwn
  | upgrade
  | rdCur
  | wrLine (mask : BitVec 64) (l : Line)
  | atomic (code : BitVec 4) (size8 : Bool) (offset : BitVec 6) (operand cmp : Word)
  | evict
  | cell (stream num : Nat)
  deriving DecidableEq, Repr

/-- A request at the home, with its arrival. -/
structure CohReq where
  aid : BitVec 14
  op : CohOp
  at_ : Ltc := 0
  deriving DecidableEq, Repr

/-- The transient states of R134, in its order. -/
inductive TState where
  | hRd
  | hInv
  | hRecall
  | hWbwait
  | hAtomic
  | hReclaim
  deriving DecidableEq, Repr

/-- A transaction of the HTT (R134): the request, its state, the agents whose snoop response or announced release is
awaited, releases that came early, data returned, whether the owner kept the line shared, the line whose eviction it waits
for, the agents reported late, and when its snoops went out. -/
structure Trans where
  req : CohReq
  st : TState
  need : List (BitVec 14) := []
  wb : List (BitVec 14) := []
  early : List (BitVec 14) := []
  data : Option Line := none
  written : Bool := false
  kept : Bool := false
  released : Bool := false
  blocked : Option Nat := none
  reported : List (BitVec 14) := []
  since : Ltc := 0
  deriving DecidableEq, Repr

/-- A line in an engine line cache (R126, R132): its state and order of use. -/
inductive Mesi where
  | s
  | e
  | m
  deriving DecidableEq, Repr

structure ElcLine where
  st : Mesi
  line : Line
  used : Nat := 0
  deriving DecidableEq, Repr

/-- A request of an ELC that awaits its grant, the task whose atomic it serves, the grant the home has sent and a snoop held
meanwhile (R136). -/
structure ElcPend where
  op : CohOp
  upg : Bool := false
  task : Option Nat := none
  grant : Option (Mesi × Option Line) := none
  held : Option TState := none
  retryAt : Option Ltc := none
  nacks : Nat := 0
  deriving DecidableEq, Repr

/-- Homes and engine line caches (R126-R149). Lines are keyed by line number (local address div 64), ELC tables by
2^34 × die + line. `dir` is what the home knows, `cache` the directory sets each row of a directory cache holds, latest used first (by
256 × die + row), `stored` the entries written back to the reserve (by 2^28 × die + 16 × set + way), each with its line.
`evicting` holds eviction records (with the data of a `WRITEBACK`), `expect` releases whose effect the home has already taken
and that have not arrived, `walks` the reclaim walks that run, `backoffs` the requesters of this part answered `NACK`: how
often, and when they ask again (R134). -/
structure Coh where
  dir : Tab DirEntry := []
  cache : Tab (List Nat) := []
  stored : Tab (Nat × DirEntry) := []
  htt : Tab Trans := []
  waits : Tab (List CohReq) := []
  elc : Tab ElcLine := []
  pend : Tab ElcPend := []
  evicting : Tab (Option Line) := []
  expect : List (Nat × BitVec 14) := []
  dead : List (BitVec 14) := []
  walks : List (BitVec 14) := []
  backoffs : Tab (Nat × Ltc) := []
  order : Nat := 0
  deriving DecidableEq, Repr

/-! ### Translation -/

/-- A leaf in a TLB (R112): tenant, page base, log2 of its size, tier (0 or 4), node, address, and whether writes passed. -/
structure TlbEntry where
  tenant : BitVec 10
  base : Nat
  size : Nat
  tier : Nat
  node : Nat
  addr : Nat
  w : Bool
  wOk : Bool
  bad : Bool := false
  deriving DecidableEq, Repr

/-- A non-leaf entry in a walk cache: the table that level `level` − 1 is read from for addresses of a prefix. -/
structure WalkEntry where
  tenant : BitVec 10
  level : Nat
  prefixNo : Nat
  table : Nat
  bad : Bool := false
  deriving DecidableEq, Repr

/-- A task that waits for a walk: its key, the address and whether it writes. -/
structure WalkWait where
  key : Nat
  va : Nat
  write : Bool
  deriving DecidableEq, Repr

/-- A walk in progress (R114, R107, R122): tenant, 2 MiB page, the level and table it began at (none without a usable root),
whether the root was written since, the ranges invalidated since, and the tasks that share it. -/
structure Walk where
  tenant : BitVec 10
  page : Nat
  start : Option (Nat × Nat)
  stale : Bool := false
  marks : List (Nat × Nat) := []
  waiters : List WalkWait
  deriving DecidableEq, Repr

/-- A die's fault queue (R118, R119): slots as last written, head, tail, entries, tasks waiting with FAULT_QUEUE_FULL in
order of FSEQ, and the next FSEQ. -/
structure FaultQueue where
  slots : Tab (BitVec 512) := []
  head : BitVec 12 := 0
  tail : BitVec 12 := 0
  count : Nat := 0
  waiting : List Nat := []
  fseq : BitVec 32 := 0
  deriving DecidableEq, Repr

/-- A `PAGE_INVALIDATE` whose epoch wait runs: range lo..hi − 1 and the epoch it ends (R122). -/
structure Inval where
  h : CmdHdr
  tenant : BitVec 10
  lo : Nat
  hi : Nat
  epoch : Epoch
  deriving DecidableEq, Repr

/-- TLBs by engine and by cluster, walk caches by die, walks by walker (64 × die + 8 × cluster + walker) and the misses that wait
for one by die, fault queues by die, invalidations and, by ingot, releases that wait. -/
structure Xlt where
  l1 : Tab (List TlbEntry) := []
  l2 : Tab (List TlbEntry) := []
  wc : Tab (List WalkEntry) := []
  walkers : Tab Walk := []
  walkq : Tab (List WalkWait) := []
  fq : Tab FaultQueue := []
  invals : List Inval := []
  releaseAt : Tab Epoch := []
  deriving DecidableEq, Repr

/-! ### Rings, run queues and tasks -/

/-- A descriptor the part has fetched (R161): ring, index, its 128 bytes, tenant, order of fetch, whether its deadline was
reported, whether it is tagged for sampling, and the LTC of its fetch. -/
structure QDesc where
  ring : BitVec 12
  slot : BitVec 32
  desc : BitVec 1024
  tenant : BitVec 10
  age : Nat
  reported : Bool := false
  tagged : Bool := false
  fetchedAt : Ltc := 0
  deriving DecidableEq, Repr

/-- A ring (R152-R160): its entry, indices, records written, state (1 active, 2 error, 3 destroying), descriptors fetched and
not completed, batches outstanding (first index, and each slot's words and poison marks as read), descriptors held by FENCE or for want of room, whether the want of
an engine was reported, and the `RING_DESTROY` that waits. -/
structure Ring where
  entry : BitVec 512
  tenant : BitVec 10
  tail : BitVec 32 := 0
  head : BitVec 32 := 0
  cqHead : BitVec 32 := 0
  written : BitVec 32 := 0
  state : BitVec 2 := 1
  inflight : Nat := 0
  batches : List (BitVec 32 × List (BitVec 1024 × BitVec 16)) := []
  held : List QDesc := []
  noEngine : Bool := false
  destroyer : Option CmdHdr := none
  deriving DecidableEq, Repr

/-- Where a begun descriptor stands: it can run; its miss is at a walker or waits for one (address, write); it is
parked on a fault (entry, FAULT_QUEUE_FULL), on a promotion of a page, on a layer lock; it waits for chunks, a grant or
contributions; it has its status and result and waits for its record. -/
inductive TaskState where
  | ready
  | walking (va : Nat) (write : Bool)
  | fault (entry : BitVec 512) (full : Bool)
  | promo (page : Nat)
  | lock (ctx layer : Nat)
  | wait
  | done (status : BitVec 8) (result : BitVec 64)
  deriving DecidableEq, Repr

/-- An extent of a data-mover side (R175). -/
structure Extent where
  va : Nat
  len : Nat
  deriving DecidableEq, Repr

/-- A chunk (R205, R211): the task key of its parent, its head and blocks with their addresses, or the first row of B and the
rows. -/
structure Chunk where
  parent : Nat
  head : Nat := 0
  blocks : List (Nat × Nat) := []
  first : Nat := 0
  rows : Nat := 0
  deriving DecidableEq, Repr

/-- A task (R117): its descriptor, state, beginning, order of beginning, whether the deadline had passed then, poison met,
how far it is, what it has counted on the way, the extents read from its lists (of a gather, the bags its begin read), the
progress figure it would report now, the room it takes in a tile's descriptor areas, the chunk it is, where it is one, the faults it had, whether it waited for a lock, whether its accesses
have begun (R174), and the status of its record once that is written or suppressed while its counter is not done (R163). -/
structure Task where
  q : QDesc
  st : TaskState := .ready
  began : Ltc := 0
  order : Nat := 0
  missed : Bool := false
  poison : Bool := false
  prog : Nat := 0
  tally : Nat := 0
  sideA : Option (List Extent) := none
  sideB : Option (List Extent) := none
  figure : Nat := 0
  area : Nat := 0
  chunk : Option Chunk := none
  faults : Nat := 0
  lockWaits : Nat := 0
  issued : Bool := false
  recorded : Option (BitVec 8) := none
  deriving DecidableEq, Repr

/-- Rings, run queues by engine, tasks by engine × 32 + context, the order of fetch and of beginning, and the ring each fetch
unit served last (by 64 × die + 8 × cluster + group). -/
structure Engines where
  rings : Tab Ring := []
  runq : Tab (List QDesc) := []
  tasks : Tab Task := []
  age : Nat := 0
  served : Tab Nat := []
  deriving DecidableEq, Repr

/-! ### Sequence contexts, chunks and reduce slots -/

/-- A bound sequence context (R187-R190, R195): tenant, bound address, its 1,024 bytes, the release that runs, whether an
uncorrectable word made it lost (R245), and the task that holds each layer's lock. -/
structure SeqCtx where
  tenant : BitVec 10
  va : Word
  desc : BitVec 8192
  releasing : Option CmdHdr := none
  lost : Bool := false
  locks : Tab Nat := []
  deriving DecidableEq, Repr

/-- A row of the merge accumulators (R206, R207): m, l and o as FP32, and whether a score, l or o was not finite. -/
structure MergeRow where
  m : Nat
  l : Nat
  o : List Nat
  bad : Bool := false
  deriving DecidableEq, Repr

/-- A partial on the merge path (R206): the parent, the sending unit, the head, its rows, whether a chunk word was poison. -/
structure Partial where
  parent : Nat
  unit : Nat
  head : Nat
  rows : List MergeRow
  poison : Bool
  deriving DecidableEq, Repr

/-- What a parent's descriptor area holds (R185, R211) and what is left to do: queries or operand A; new keys and values;
merge accumulators; blocks attended by head; addresses of blocks; chunks formed, still to come back, and not posted;
poisoned heads; NaN rows. -/
structure Attend where
  lines : List Line := []
  news : List Line := []
  rows : List MergeRow := []
  attended : List (List Nat) := []
  addrs : Tab Nat := []
  chunks : Nat := 0
  left : Nat := 0
  own : List Chunk := []
  poisoned : List Nat := []
  nan : Nat := 0
  deriving DecidableEq, Repr

/-- Sequence contexts, chunk queues by cluster, partials in order of arrival, and descriptor areas by task. -/
structure Cru where
  ctxs : Tab SeqCtx := []
  chunkq : Tab (List Chunk) := []
  partials : List Partial := []
  areas : Tab Attend := []
  deriving DecidableEq, Repr

/-- An armed run of reduce slots (R226-R230): slots, contributions expected, format, function, local flag, elements, the task
that armed it, when, its time limit in µs, bits (c × 128 + k), accumulator elements that are set, poisoned accumulator
words. -/
structure RedRun where
  nslots : Nat
  contrib : Nat
  fmt : Nat
  fn : Nat
  loc : Bool
  elems : Nat
  task : Nat
  armed : Ltc
  limitUs : Nat
  bits : Tab Bool := []
  acc : Tab Nat := []
  poison : Tab Bool := []
  deriving DecidableEq, Repr

/-- Reduce slots (R225): the tenant of each reserved slot, and the armed runs by their first slot. -/
structure Red where
  slots : Tab (BitVec 10) := []
  runs : Tab RedRun := []
  deriving DecidableEq, Repr

/-! ### Power, reset and start-up -/

/-- A supply episode of a rail (R379, R380): first and latest crossing, and lowest reading, in mV. -/
structure Episode where
  start : Ltc
  last : Ltc
  minMv : Nat
  deriving DecidableEq, Repr

/-- The power sequencers and monitors (R370-R388) and what start-up knows (R400): PORESET_N low; a trip since VAON was last
removed; rails in window; when each rail still out of window was enabled; banks in regulation; command limits by island in MHz and
thermal limits by core die in tenths of MHz; the latest thermal step and the time since which a die has been cool; the latest
temperatures of core dies and stacks; VR_HOT inputs low; supply episodes by rail; polls missed in a row by device (16 × bank +
address − 0x40); when each bank is polled next; fabric dies inside a reset; when a VAON supply left its window; when power was good; whether the far tier trains
again after a FABRIC reset. -/
structure Pwr where
  poresetLow : Bool := false
  tripped : Bool := false
  rails : BitVec 14 := 0x3FFF
  enabledAt : Tab Ltc := []
  bankOkA : Bool := true
  bankOkB : Bool := true
  limits : Tab Nat := []
  thermal : Tab Nat := []
  stepAt : Tab Ltc := []
  coolAt : Tab Ltc := []
  temps : Tab (Nat × Nat) := []
  hotA : Bool := false
  hotB : Bool := false
  episodes : Tab Episode := []
  missed : Tab Nat := []
  pollAt : Tab Ltc := []
  downA : Bool := false
  downB : Bool := false
  vaonOut : Tab Ltc := []
  goodAt : Ltc := 0
  retrain : Bool := false
  deriving DecidableEq, Repr

/-! ### What the part sends -/

/-- A message that leaves the part or one of its blocks, in the order they were sent (the model's own record). -/
inductive Out where
  | kafer (p : KPort) (k : KPacket)
  | frame (p : KPort) (f : Frame)
  | retrain (p : KPort)
  | tamperEvent (e : EventRec)
  | cell (port : BitVec 4) (c : Cell)
  | toDie (d : BitVec 1) (c : Cell)
  | linkCell (port : BitVec 4) (w : LinkWord) (c : Cell)
  | toRouter (port : BitVec 4) (c : Cell)
  | eject (port : BitVec 4) (c : Cell)
  | snoop (name : String) (aid : BitVec 14) (ln : BitVec 34)
  | coh (name : String) (aid : BitVec 14) (ln : BitVec 34) (l : Option Line)
  | cohCmp (aid : BitVec 14) (ln : BitVec 34) (old : Option Word) (poison : Bool)
  | cohRefused (aid : BitVec 14) (ln : BitVec 34) (status : BitVec 8)
  | memData (u : MemUnit) (line : BitVec 40) (l : Line)
  | burst (u : MemUnit) (beats : List (BitVec 80))
  | coreOff (bank : FDie)
  | remote (node : BitVec 12) (what : String) (addr : BitVec 44) (l : Option Line)
  deriving DecidableEq, Repr

/-! ### The whole machine -/

/-- The part. `ready` holds, by port, the cells of the part's endpoints that wait for a place there, in the order formed (R307). -/
structure State where
  variant : Variant := .tr12
  clk : Clk := {}
  pins : Pins := {}
  regs : Tab (BitVec 64) := []
  fuses : Fuses := {}
  ctl : Ctl := {}
  mode : Mode := {}
  sec : Sec := {}
  anv : AnvPair := {}
  fab : Fab := {}
  ready : Tab (List Cell) := []
  link : Tab LPort := []
  tc : Tc := {}
  tel : Tel := {}
  pwr : Pwr := {}
  mem : Mem := {}
  ecc : Ecc := {}
  coh : Coh := {}
  xlt : Xlt := {}
  eng : Engines := {}
  cru : Cru := {}
  red : Red := {}
  draws : Nat := 0
  out : List Out := []
  pending : List Instr := []
  deriving DecidableEq, Repr

/-- Why a step would stop with a fault. -/
inductive Fault where
  /-- Raised by no command: every error of the part is a reply status, an event, a cell status or a record status. Safe. -/
  | outsideThePart
  deriving DecidableEq, Repr

/-- Why a command has no meaning here. -/
inductive Refusal where
  /-- Raised by an arm of `exec` whose command has no meaning yet. Safe: nothing is claimed of it. -/
  | notModelled (mnemonic : String)
  deriving DecidableEq, Repr

/-- The part right after a power-on reset: every register at the value of its Reset column (R14), every table empty, both
Anvils in LOADER, no token (R355), the LTC at 0 (R395). -/
def State.reset : State := {}

end Sys2Proof.Machine
end

