-- ==== Sys2Proof/Machine/Packet.lean ====
section
/-! DEFINITION. Packets on the wire: command, reply and event headers (R44, R48, R53), their protection under a session (R330),
markers and frames of Kaferlink (R37, R38), and the cells of the management class (R261). -/

namespace Sys2Proof.Machine

/-! ### CRC-32 (R37, R83, R263) -/

/-- Eight steps of the reflected IEEE 802.3 polynomial. -/
def crcBits : Nat → Nat → Nat
  | 0, c => c
  | n + 1, c => crcBits n (if c % 2 = 1 then (c / 2) ^^^ 0xEDB88320 else c / 2)

/-- The remainder after bytes; the match has every step evaluated before the next. -/
def crcFrom : List Byte → Nat → Nat
  | [], c => c
  | b :: r, c =>
    match crcBits 8 (c ^^^ b.toNat) with
    | 0 => crcFrom r 0
    | k + 1 => crcFrom r (k + 1)

/-- The CRC-32 of bytes. -/
def crc32 (l : List Byte) : Nat := crcFrom l 0xFFFFFFFF ^^^ 0xFFFFFFFF

/-! ### Headers -/

/-- The header of a command packet (R44). -/
def cmdHeader (h : CmdHdr) : Nat :=
  packBits [(8, h.version.toNat), (16, h.opcode.toNat), (32, h.tag.toNat), (12, h.target.toNat), (12, h.tenant.toNat),
    (16, h.flags.toNat), (48, h.deadline.toNat), (16, h.paramLen.toNat), (16, h.modeGen.toNat), (16, h.rsv.toNat),
    (32, h.session.toNat), (32, h.seq.toNat)]

/-- The header of a reply (R48). -/
def replyHeader (r : Reply) : Nat :=
  packBits [(8, 1), (16, r.opcode.toNat), (32, r.tag.toNat), (12, r.source.toNat), (12, r.tenant.toNat), (1, b2n r.late),
    (1, b2n r.relayed), (1, b2n r.held), (1, b2n r.reexec), (1, b2n r.anvilB), (1, b2n r.resent), (10, 0),
    (48, r.doneLtc.toNat), (16, r.payload.length), (16, r.appliedGen.toNat), (16, r.status.toNat), (32, r.session.toNat),
    (32, r.seq.toNat)]

/-- Which event classes hold ALERT_N low (R54). -/
def alertClass (cls : Nat) : Bool := cls = 1 || cls = 2 || cls = 3 || cls = 4 || cls = 5 || cls = 10

/-- The header of an event packet (R53). -/
def eventHeader (e : EventRec) (rep : Bool) (session : BitVec 32) : Nat :=
  packBits [(8, 1), (16, e.cls.toNat), (32, e.seq.toNat), (12, e.source.toNat), (12, e.tenant.toNat),
    (1, b2n (alertClass e.cls.toNat)), (1, b2n rep), (14, 0), (48, e.ltc.toNat), (16, e.len.toNat), (16, e.gen.toNat), (16, 0),
    (32, session.toNat), (32, 0)]

/-! ### Protection under a session (R330) -/

/-- The nonce of a packet: SEQ or EVENT_SEQ, the kind (0 command, 1 reply, 2 event), and the LTC. -/
def packetNonce (seq kind ltc : Nat) : Nat := packBits [(32, seq), (2, kind), (48, ltc), (14, 0)]

/-- Bytes encrypted from index i of the keystream on. -/
def sealFrom (session : BitVec 32) (nonce : Nat) : Nat → List Byte → List Byte
  | _, [] => []
  | i, b :: r => (b ^^^ Config.sessionStream session nonce i) :: sealFrom session nonce (i + 1) r

/-- A payload as it is carried: encrypted under a session, in the clear without one. -/
def sealed (session : BitVec 32) (nonce : Nat) (l : List Byte) : List Byte :=
  if session = 0 then l else sealFrom session nonce 0 l

/-- The tag of a packet under a session. -/
def tagBytes (session : BitVec 32) (nonce header : Nat) (cipher : List Byte) : List Byte :=
  if session = 0 then [] else leBytes 16 (Config.sessionTag session nonce header cipher).toNat

/-- A reply packet of this part. -/
def replyPacket (r : Reply) : List Byte :=
  let n := packetNonce r.seq.toNat 1 r.doneLtc.toNat
  let c := sealed r.session n r.payload
  leBytes 32 (replyHeader r) ++ c ++ tagBytes r.session n (replyHeader r) c

/-- An event packet of this part; its tag takes REPEAT as zero (R330). -/
def eventPacket (e : EventRec) (rep : Bool) (session : BitVec 32) : List Byte :=
  let n := packetNonce e.seq.toNat 2 e.ltc.toNat
  let c := sealed session n (leBytes e.len.toNat e.payload)
  leBytes 32 (eventHeader e rep session) ++ c ++ tagBytes session n (eventHeader e false session) c

/-- A packet of a relayed part as the relaying part sends it on: a reply with RELAYED set, an event unchanged (R41, R55). -/
def relayPacket : RelayMsg → List Byte
  | .reply r tag =>
    leBytes 32 (replyHeader { r with relayed := true }) ++ r.payload ++ (if r.session = 0 then [] else leBytes 16 tag.toNat)
  | .event packet => packet

/-! ### The payload stream (R38) -/

/-- PTYPE of a packet this part sends. -/
def KPacket.ptype : KPacket → Nat
  | .reply _ => 2
  | .event _ _ _ => 3
  | .relayed (.reply _ _) => 2
  | .relayed (.event _) => 3

/-- A packet. -/
def KPacket.packet : KPacket → List Byte
  | .reply r => replyPacket r
  | .event e rep session => eventPacket e rep session
  | .relayed m => relayPacket m

/-- A packet with its marker. -/
def KPacket.wire (k : KPacket) : List Byte :=
  leBytes 8 (packBits [(4, k.ptype), (12, 0), (16, k.packet.length), (32, 0)]) ++ k.packet

/-- The bytes of a packet with its marker. -/
def KPacket.bytes : KPacket → Nat
  | .reply r => 8 + 32 + r.payload.length + (if r.session = 0 then 0 else 16)
  | .event e _ session => 8 + 32 + e.len.toNat + (if session = 0 then 0 else 16)
  | .relayed (.reply r _) => 8 + 32 + r.payload.length + (if r.session = 0 then 0 else 16)
  | .relayed (.event p) => 8 + p.length

/-- The frames a packet takes; a packet begins a frame of its own (log entry 6). -/
def KPacket.frames (k : KPacket) : Nat := ceilDiv k.bytes 1248

/-- The command packets that end in a stretch of the payload stream, and the bytes of a packet that is not yet whole. Behind a
marker of an unassigned PTYPE nothing more begins in the frame (log entry 6). Fuel bounds the number of packets. -/
def takePackets : Nat → List Byte → List (List Byte) × List Byte
  | 0, l => ([], l)
  | n + 1, l =>
    if l.length < 8 then ([], l)
    else
      let m := leNat (l.take 8)
      let len := bitsOf m 16 16
      let ptype := bitsOf m 0 4
      if ptype = 0 || 3 < ptype then ([], [])
      else if l.length < 8 + len then ([], l)
      else
        let (ps, rest) := takePackets n (l.drop (8 + len))
        (if ptype = 1 then (l.drop 8).take len :: ps else ps, rest)

/-! ### Frames (R37) -/

/-- The 16 bytes of a frame's header. -/
def frameHeader (f : Frame) : List Byte :=
  leBytes 16 (packBits [(4, f.ftype.toNat), (12, bitsOf f.rsv.toNat 0 12), (16, f.fseq.toNat), (16, f.ack.toNat),
    (11, f.firstMark.toNat), (5, bitsOf f.rsv.toNat 12 5), (16, f.replayFrom.toNat), (48, bitsOf f.rsv.toNat 17 48)])

/-- The CRC-32 over header and payload. -/
def frameSum (f : Frame) : BitVec 32 := BitVec.ofNat 32 (crc32 (frameHeader f ++ f.payload))

/-- A frame of this part, with its CRC-32. -/
def newFrame (ftype : BitVec 4) (fseq ack : BitVec 16) (mark : BitVec 11) (replayFrom : BitVec 16) (payload : List Byte) : Frame :=
  let f : Frame := { ftype := ftype, fseq := fseq, ack := ack, firstMark := mark, replayFrom := replayFrom, rsv := 0,
                     payload := fitBytes 1248 payload, crc := 0, tail := 0 }
  { f with crc := frameSum f }

/-- The ACK a port sends: the last frame before the first that ends a command packet which is not yet taken (R40). -/
def KLink.ack (l : KLink) : BitVec 16 :=
  match l.cmds with
  | [] => l.lastGood
  | c :: _ => c.1 - 1

/-- The data frame of a place in the replay buffer. -/
def dataFrame (l : KLink) (x : TxFrame) : Frame :=
  newFrame 1 x.fseq l.ack (if x.piece = 0 then 0 else 0x7FF) 0 ((x.pkt.wire.drop (1248 * x.piece)).take 1248)

/-- A frame without packets: idle, replay request or training. -/
def bareFrame (l : KLink) (ftype : BitVec 4) (replayFrom : BitVec 16) : Frame :=
  newFrame ftype l.lastSent l.ack 0x7FF replayFrom []

/-- The frames of a packet from piece i on; it ends in the last. -/
def framesFrom (k : KPacket) : Nat → Nat → BitVec 16 → List TxFrame
  | 0, _, _ => []
  | 1, i, f => [⟨f, [k], k, i⟩]
  | n + 1, i, f => ⟨f, [], k, i⟩ :: framesFrom k n (i + 1) (f + 1)

/-- The frames of a packet, from an FSEQ on. -/
def framesOf (k : KPacket) (n : Nat) (f : BitVec 16) : List TxFrame := framesFrom k n 0 f

/-! ### The CHECK of a cell (R263) -/

/-- Header bytes 8..55 of a cell as its codes take them: HOPS, HOP_PTR, AGE, REPOCH and GEN are zero (R260, R263). -/
def cellHead (c : Cell) : Nat :=
  packBits [(120, 0), (5, 0), (6, 0), (12, c.dest.toNat), (12, c.src.toNat), (3, c.cls.toNat), (5, c.op.toNat), (4, 0), (8, 0),
    (1, b2n c.enc), (13, c.owner.toNat), (16, c.sseq.toNat), (35, c.addr.toNat), (8, c.lines.toNat), (8, c.plines.toNat),
    (128, c.meta128.toNat)]

/-- The CHECK of an ENC 0 cell: CRC-32 in bits 448..479, bits 480..511 zero (R263). -/
def cellCrc (c : Cell) : BitVec 64 := BitVec.ofNat 64 (crc32 (leBytes 48 (cellHead c) ++ leBytes 512 c.payload.toNat))

/-- A cell of this part with its CHECK; that of an ENC 1 cell is its tag (R341). -/
def withCrc (c : Cell) : Cell := if c.enc then c else { c with check := cellCrc c }

/-- The nonce of an ENC 1 cell (R341): stream number, requester, responder, 1 for a reply, its RCTR. -/
def cellNonce (num requester responder : Nat) (rctr : Option Nat) : Nat :=
  packBits [(48, num), (12, requester), (12, responder), (1, b2n rctr.isSome), (21, rctr.getD 0), (2, 0)]

/-- A payload under the keystream of a job key. -/
def payloadUnder (binding : BitVec 512) (nonce : Nat) (payload : BitVec 4096) : BitVec 4096 :=
  payload ^^^ BitVec.ofNat 4096 (leNat ((List.range 512).map (Config.jobStream binding nonce)))

/-- An ENC 1 cell protected under a job key: payload encrypted, CHECK the tag (R263, R341). -/
def sealCell (binding : BitVec 512) (nonce : Nat) (c : Cell) : Cell :=
  let p := payloadUnder binding nonce c.payload
  { c with payload := p, check := Config.jobTag binding nonce (cellHead c) p.toNat }

/-! ### Cells of the management class (R261) -/

/-- The cells that carry a packet, each like the first but for its fragment: ADDR holds index, last mark, bytes, packet number. -/
def fragments (c : Cell) (no : BitVec 18) (packet : List Byte) : List Cell :=
  let n := ceilDiv packet.length 512
  (List.range n).map fun i =>
    let b := (packet.drop (512 * i)).take 512
    { c with addr := BitVec.ofNat 35 (packBits [(6, i), (1, b2n (i + 1 = n)), (10, b.length), (18, no.toNat)])
             payload := BitVec.ofNat 4096 (leNat b) }

end Sys2Proof.Machine
end

