-- ==== Sys2Proof/Machine/Ops.lean ====
section
/-! DEFINITION. Operations every meaning shares: time, registers, free values, Kaferlink output, events, fault records and
replies. -/

namespace Sys2Proof

/-- 0 for port A, 1 for port B. -/
def KPort.num : KPort → Nat
  | .a => 0
  | .b => 1

/-- The other port. -/
def KPort.other : KPort → KPort
  | .a => .b
  | .b => .a

/-- The Anvil bit of a die. -/
def FDie.num : FDie → Nat
  | .f0 => 0
  | .f1 => 1

/-- The other domain. -/
def FDie.other : FDie → FDie
  | .f0 => .f1
  | .f1 => .f0

/-- The bits of FLAGS (R45). -/
def CmdHdr.dropLate (h : CmdHdr) : Bool := h.flags.getLsbD 0
def CmdHdr.fence (h : CmdHdr) : Bool := h.flags.getLsbD 1
def CmdHdr.staged (h : CmdHdr) : Bool := h.flags.getLsbD 2
def CmdHdr.pathRouted (h : CmdHdr) : Bool := h.flags.getLsbD 3

/-- The Kaferlink port number of a command's source; a relayed command arrives at port A's die (log entry 6). -/
def CmdSource.portNum : CmdSource → Nat
  | .kafer p => p.num
  | _ => 0

/-- Opcodes that take their tenant from TENANT need one; all others need 0xFFF (R57). -/
inductive Scope where
  | tenant
  | platform
  | either
  deriving DecidableEq, Repr

/-- The TENANT field suits an opcode's scope. -/
def CmdHdr.scopeOk (h : CmdHdr) : Scope → Bool
  | .tenant => decide (h.tenant.toNat < 1024)
  | .platform => h.tenant = 0xFFF
  | .either => decide (h.tenant.toNat < 1024) || h.tenant = 0xFFF

/-! ### Engine names (R118) -/

/-- The unit, cluster, die and group of an engine. -/
def Eng.unit (e : Eng) : Nat := Machine.bitsOf e.toNat 0 4
def Eng.cluster (e : Eng) : Nat := Machine.bitsOf e.toNat 4 3
def Eng.die (e : Eng) : Nat := Machine.bitsOf e.toNat 7 1
def Eng.group (e : Eng) : Nat := Machine.bitsOf e.toNat 8 3

/-- The part-wide cluster of an engine. -/
def Eng.cl (e : Eng) : Nat := Machine.bitsOf e.toNat 4 4

end Sys2Proof

namespace Sys2Proof.Machine

/-! ### Time (R8, R395) -/

/-- The part's LTC: the followed copy, in ns (R395). -/
def now (s : State) : Nat := if s.clk.followB then s.clk.ltcB.toNat else s.clk.ltcA.toNat

/-- The low 48 bits of the LTC. -/
def now48 (s : State) : Nat := now s % 2 ^ 48

/-- The LTC reaches t; it never runs backwards, and the copy of a domain without VAON does not count (R395). -/
def adv (t : Ltc) (s : State) : State :=
  let d := t.toNat - now s
  if d = 0 then s
  else { s with clk := { s.clk with
    ltcA := if s.clk.vaonA then s.clk.ltcA + BitVec.ofNat 64 d else s.clk.ltcA,
    ltcB := if s.clk.vaonB then s.clk.ltcB + BitVec.ofNat 64 d else s.clk.ltcB } }

/-- The LTC d ns from now. -/
def after (s : State) (d : Nat) : Ltc := BitVec.ofNat 64 (now s + d)

/-- A deadline D of 48 bits has passed when (L − D) mod 2^48 is less than 2^47 (R50). -/
def passed48 (s : State) (d : Nat) : Bool :=
  decide ((now48 s + 2 ^ 48 - d % 2 ^ 48) % 2 ^ 48 < 2 ^ 47)

/-- One µs in ns. -/
def us (n : Nat) : Nat := 1000 * n

/-- The ECLK cycle of a time: 600 MHz. -/
def eclk (t : Ltc) : Nat := t.toNat * 3 / 5

/-! ### Registers (R12) -/

/-- What is held under a register's address: what is listed, or its reset value. -/
def regGet (s : State) (a : Nat) : Nat :=
  match s.regs.find a with
  | some v => v.toNat
  | none => Reg.resetOf a

/-- Gives the register at an address a value; a register at its reset value is not listed. -/
def regSet (s : State) (a v : Nat) : State :=
  if v % 2 ^ 64 = Reg.resetOf a then { s with regs := s.regs.del a }
  else { s with regs := s.regs.put a (BitVec.ofNat 64 v) }

/-- A field of a register. -/
def rd (s : State) (f : Fld) : Nat := bitsOf (regGet s f.addr) f.lo f.w

/-- A field of a register gets a value. -/
def wr (s : State) (f : Fld) (v : Nat) : State := regSet s f.addr (putBits (regGet s f.addr) f.lo f.w v)

/-- A saturating counter rises by n. -/
def bumpBy (s : State) (f : Fld) (n : Nat) : State := wr s f (min (2 ^ f.w - 1) (rd s f + n))

/-- A saturating counter rises by 1. -/
def bump (s : State) (f : Fld) : State := bumpBy s f 1

/-- A one-bit field. -/
def rdb (s : State) (f : Fld) : Bool := rd s f == 1

/-! ### Free values -/

/-- A value the manual leaves open: nothing is known of it; each draw is a new one (log entry 2). -/
def draw (s : State) : Nat × State := (Config.freeBits s.draws, { s with draws := s.draws + 1 })

/-! ### Variants (R15) -/

/-- The core dies of the part. -/
def dies (s : State) : Nat := match s.variant with | .tr12 => 2 | .tr6 => 1

/-- The clusters of the part. -/
def clusters (s : State) : Nat := 8 * dies s

/-- A message leaves. -/
def emit (o : Out) (s : State) : State := { s with out := s.out ++ [o] }

/-- Messages leave, in order. -/
def emitAll (l : List Out) (s : State) : State := { s with out := s.out ++ l }

/-- The part ID replies, events and cells name: 0xFFF while the part has none (R48, R53, R284). -/
def sourceId (s : State) : BitVec 12 := s.ctl.partId.getD 0xFFF

/-- The applied generation. -/
def appliedGen (s : State) : Nat := rd s Fld.CTRL_MODE_STATUS_APPLIED_GEN

/-! ### Cells of this part's endpoints (R260, R268, R307) -/

/-- The hops of a table-mode cell: all 0x1F (R268). -/
def noHops : BitVec 120 := BitVec.ofNat 120 (2 ^ 120 - 1)

/-- The low bits of generation and epoch that this part's cells carry (R260). -/
def cellGen (s : State) : BitVec 8 := BitVec.ofNat 8 (appliedGen s)
def cellEpoch (s : State) : BitVec 4 := BitVec.ofNat 4 s.mode.applied.epoch.toNat

/-- A cell of this part with nothing but its addressing filled in. -/
def newCell (s : State) (dest cls op : Nat) : Cell :=
  { hops := noHops, hopPtr := 31, age := 0, dest := BitVec.ofNat 12 dest, src := sourceId s, cls := BitVec.ofNat 3 cls,
    op := BitVec.ofNat 5 op, repoch := cellEpoch s, gen := cellGen s, enc := false, owner := 0, sseq := 0, addr := 0,
    lines := 0, plines := 0, meta128 := 0, payload := 0, check := 0 }

/-- The key of a stream of this part's requests (R276). -/
def outKey (c : Cell) : Nat := (c.dest.toNat * 2 + b2n c.enc) * 8192 + c.owner.toNat

/-! ### Partitions (R169, R350, R351) -/

/-- Fields of a partition entry (R350). -/
def partEngines (e : Nat) : Nat := bitsOf e 16 64
def partTurns (e : Nat) : Nat := bitsOf e 80 4
def partClass (e : Nat) : Nat := bitsOf e 84 3
def partInj (e : Nat) : Nat := bitsOf e 88 11
def partElc (e : Nat) : Nat := bitsOf e 104 4
def partHtt (e : Nat) : Nat := bitsOf e 108 6
def partStreams (e : Nat) : Nat := bitsOf e 116 12

/-- The partition entry of a tenant, 0 without one. -/
def partEntry (s : State) (t : Nat) : Nat := (s.mode.applied.partitions.get 0 t).toNat

/-- What other tenants' partitions have reserved of a pool and do not use. -/
def heldBack (s : State) (share : Nat → Nat) (used : Nat → Nat) (t : Nat) : Nat :=
  (s.mode.applied.partitions.map fun e => if e.1 = t then 0 else share e.2.toNat - used e.1).foldl (· + ·) 0

/-- A pool has an entry for a tenant: within the tenant's reserve, or beside what the others' reserves hold back. -/
def poolRoom (s : State) (cap : Nat) (share : Nat → Nat) (all : Nat) (used : Nat → Nat) (t : Nat) : Bool :=
  decide (all < cap) && (decide (used t < share (partEntry s t)) || decide (all + heldBack s share used t < cap))

/-- The tenants that own the turns of a frame from turn 0, ascending; later turns are shared (R351). -/
def turnOwners (s : State) : List Nat := s.mode.applied.partitions.flatMap fun e => List.replicate (partTurns e.2.toNat) e.1

/-- The bit of a cluster's group in ENGINES of a partition entry (R350). -/
def pinBit (die cl group : Nat) : Nat := 4 * (8 * die + cl) + (if group = 4 then 3 else group)

/-- The pins of a tenant in force. -/
def pinsOf (s : State) (t : Nat) : Nat :=
  match s.mode.applied.partitions.find t with
  | some e => if bitAt e.toNat 10 then partEngines e.toNat else 0
  | none => 0

/-- The tenant the engines of a cluster's group are pinned to. -/
def pinnedTo (s : State) (die cl group : Nat) : Option Nat :=
  s.mode.applied.partitions.keys.find? fun t => bitAt (pinsOf s t) (pinBit die cl group)

/-- The engines of a cluster's group may serve a tenant (R169). -/
def mayServe (s : State) (die cl group t : Nat) : Bool :=
  match pinnedTo s die cl group with
  | some u => t = u
  | none => pinsOf s t = 0

/-- The route-table entry of a node under given settings, and its fields (R267). -/
def Settings.route (st : Settings) (node : Nat) : Nat := (st.routes.get 0 node).toNat
def rtA (e : Nat) : Nat := bitsOf e 0 4
def rtB (e : Nat) : Nat := bitsOf e 4 4
def rtV (e : Nat) : Bool := bitAt e 14
def rtBValid (e : Nat) : Bool := bitAt e 15

/-- A fabric port is UP (R290: state 2). -/
def fabUp (s : State) (port : Nat) : Bool := rd s (Fld.FAB_PORT_STATUS_STATE port) == 2

/-- The port a table-mode cell of this part leaves by: PORT_A, or PORT_B when PORT_A is not UP and B_VALID is 1 (R268). -/
def tablePort (s : State) (dest : Nat) : Option Nat :=
  let e := s.mode.applied.route dest
  if !rtV e then none
  else if !fabUp s (rtA e) && rtBValid e then some (rtB e) else some (rtA e)

/-- The cells formed that wait for a place at a port. -/
def readyAt (s : State) (p : Nat) : List Cell := s.ready.get [] p

/-- Replaces the waiting cells of a port. -/
def setReady (p : Nat) (l : List Cell) (s : State) : State := { s with ready := s.ready.set [] p l }

/-- Cells formed wait for a place at a port, behind those formed before (R307); those with ENC 0 get their CHECK (R263). -/
def queueCells (p : Nat) (l : List Cell) (s : State) : State := setReady p (readyAt s p ++ l.map withCrc) s

/-- The next packet in cells gets the next number. -/
def countPacket (s : State) : State := { s with ctl := { s.ctl with packetNo := s.ctl.packetNo + 1 } }

/-- A packet for another part is formed as management cells of an OP, in table mode along the route table; without a route
to that part none is formed (R41, R261, R268, log entry 6). -/
def sendMgmt (op : Nat) (dest : BitVec 12) (packet : List Byte) (s : State) : State :=
  match tablePort s dest.toNat with
  | none => s
  | some p => queueCells p (fragments (newCell s dest.toNat 6 op) s.ctl.packetNo packet) (countPacket s)

/-- A packet is formed as path-routed cells of an OP that leave on a port with the hops behind it (R283). -/
def sendOnPath (op : Nat) (port : BitVec 4) (hops : BitVec 120) (packet : List Byte) (s : State) : State :=
  queueCells port.toNat (fragments { newCell s 0 6 op with hops := hops, hopPtr := 1 } s.ctl.packetNo packet) (countPacket s)

/-- A `REPLY_ACK` cell to the part whose reply was delivered (R51, R261). -/
def sendReplyAck (part : BitVec 12) (session seq : BitVec 32) (s : State) : State :=
  sendMgmt 6 part (leBytes 4 session.toNat ++ leBytes 4 seq.toNat) s

/-! ### Kaferlink output (R36-R39) -/

/-- The two Anvils. -/
def anvil (s : State) : FDie → Anvil
  | .f0 => s.anv.a
  | .f1 => s.anv.b

/-- Replaces an Anvil. -/
def setAnvil (d : FDie) (a : Anvil) (s : State) : State :=
  match d with
  | .f0 => { s with anv := { s.anv with a := a } }
  | .f1 => { s with anv := { s.anv with b := a } }

/-- The token holder runs and its lease has not expired (R357, R359, R360). -/
def holderRuns (s : State) : Bool :=
  match s.anv.token with
  | none => false
  | some d => (anvil s d).state = 4 && decide (now s < s.anv.lease.toNat)

/-- The Anvil that executes loader commands while no Anvil holds the token, A first (R355). -/
def loaderAnvil (s : State) : Option FDie :=
  if s.anv.token.isSome then none else if s.anv.a.state = 1 then some .f0 else if s.anv.b.state = 1 then some .f1 else none

/-- Events and replies are sent: by the holder while its lease runs, or by a loader while there is no holder. -/
def holderLive (s : State) : Bool := holderRuns s || (loaderAnvil s).isSome

/-- The Anvil that forms replies (R48). DESIGN CHOICE (log entry 56): a reply no Anvil executed, with neither a holder nor a loader,
names Anvil A. -/
def replyAnvil (s : State) : FDie := (s.anv.token.orElse fun _ => loaderAnvil s).getD .f0

/-- The frame state of a port. -/
def klink (s : State) (p : KPort) : KLink := match p with | .a => s.ctl.kA | .b => s.ctl.kB

/-- Replaces the frame state of a port. -/
def setKlink (s : State) (p : KPort) (k : KLink) : State :=
  match p with
  | .a => { s with ctl := { s.ctl with kA := k } }
  | .b => { s with ctl := { s.ctl with kB := k } }

/-- A port is up (R60: STATE 2). -/
def portUp (s : State) (p : KPort) : Bool := rd s (Fld.KAFER_LINK_STATUS_STATE p.num) == 2

/-- Every journal entry goes through f. -/
def mapJournal (f : JEntry → JEntry) (s : State) : State :=
  { s with ctl := { s.ctl with journal := s.ctl.journal.map f } }

/-- Every session goes through f. -/
def mapSessions (f : Session → Session) (s : State) : State :=
  { s with ctl := { s.ctl with sessions := s.ctl.sessions.mapVals fun _ x => f x } }

/-- Every held event goes through f. -/
def mapEvents (f : EventRec → EventRec) (s : State) : State :=
  { s with ctl := { s.ctl with events := s.ctl.events.map f } }

/-- Every coalescing window goes through f. -/
def mapWindows (f : Window → Window) (s : State) : State :=
  { s with ctl := { s.ctl with windows := s.ctl.windows.map f } }

/-- Every cluster counter goes through f, which sees its index 16 × cluster + counter. -/
def mapCounters (f : Nat → Counter → Counter) (s : State) : State :=
  { s with tel := { s.tel with counters := s.tel.counters.mapVals f } }

/-- The first item that satisfies a test goes through f. -/
def updFirst {α : Type} (test : α → Bool) (f : α → α) : List α → List α
  | [] => []
  | x :: r => if test x then f x :: r else x :: updFirst test f r

/-- The first journal entry that satisfies a test goes through f. -/
def updJournal (test : JEntry → Bool) (f : JEntry → JEntry) (s : State) : State :=
  { s with ctl := { s.ctl with journal := updFirst test f s.ctl.journal } }

/-- A journal entry's reply has not left. -/
def JEntry.unsent (e : JEntry) : Bool := e.sentOn.isNone && !e.sentRelay

/-- The journal entry that a reply ends learns the port and frame its end left in (R51). -/
def markSent (p : KPort) (f : BitVec 16) (k : KPacket) (s : State) : State :=
  match k with
  | .reply r => updJournal (fun e => decide (e.reply = some r) && e.unsent) (fun e => { e with sentOn := some (p, f) }) s
  | _ => s

/-- Sends a packet on a port where the replay buffer of 512 frames has room for it (R39). -/
def kSendNow (s : State) (p : KPort) (k : KPacket) : Option State :=
  let l := klink s p
  let n := k.frames
  if l.unacked.length + n ≤ 512 then
    let lastF := l.lastSent + BitVec.ofNat 16 n
    let fs := framesOf k n (l.lastSent + 1)
    let s := setKlink s p { l with
      lastSent := lastF
      unacked := l.unacked ++ fs
      ackAt := if l.unacked.isEmpty then after s 0 else l.ackAt }
    some (markSent p lastF k (emitAll (.kafer p k :: fs.map fun x => .frame p (dataFrame l x)) s))
  else none

/-- The switch-over gap (R360): an Anvil holds the token but its lease has expired or it no longer runs. -/
def inGap (s : State) : Bool := s.anv.token.isSome && !holderLive s

/-- What a relayed part sends is hardware's to pass on; replies and events of this part wait in the gap (R41, R360). -/
def maySend (s : State) (k : KPacket) : Bool :=
  match k with
  | .relayed _ => true
  | _ => !inGap s

/-- A packet waits behind those that wait at a port. -/
def kWait (s : State) (p : KPort) (k : KPacket) : State :=
  setKlink s p { klink s p with waiting := (klink s p).waiting ++ [(after s 0, k)] }

/-- Sends a packet on a port, behind any that wait; it waits while the port is not up, while the replay buffer is full (when
idle frames are sent, R39), and in the gap (R36, R360). -/
def kSend (s : State) (p : KPort) (k : KPacket) : State :=
  if portUp s p && maySend s k && !((klink s p).waiting.any fun x => maySend s x.2) then
    match kSendNow s p k with
    | some s' => s'
    | none => emit (.frame p (bareFrame (klink s p) 2 0)) (kWait s p k)
  else kWait s p k

/-- Sends waiting packets that may be sent while the replay buffer has room; fuel bounds their number. -/
def kDrain : Nat → KPort → State → State
  | 0, _, s => s
  | n + 1, p, s =>
    let l := klink s p
    match l.waiting.find? fun x => maySend s x.2 with
    | none => s
    | some x =>
      match kSendNow (setKlink s p { l with waiting := l.waiting.eraseP fun y => maySend s y.2 }) p x.2 with
      | none => s
      | some s' => kDrain n p s'

/-! ### Events (R53-R56, R430) -/

/-- The sessions opened with the subscriber flag (R55). -/
def subscribers (s : State) : List Session := s.ctl.sessions.vals.filter fun x => x.subscriber

/-- The port events of a session leave on: its own while up, else the other once `late` (R36). -/
def eventPort (s : State) (p : KPort) (late : Bool) : Option KPort :=
  if portUp s p then some p else if late && portUp s p.other then some p.other else none

/-- An event is sent to one subscriber the way its session was opened (R36, R55); along a path it leaves as a reply does, for
the manual gives events no OP of their own there (log entry 6). -/
def sendEventTo (e : EventRec) (rep overdue : Bool) (s : State) (x : Session) : State :=
  match x.src with
  | .kafer p =>
    match eventPort s p overdue with
    | some q => kSend s q (.event e rep x.id)
    | none => s
  | .relayed part => sendMgmt 3 part (eventPacket e rep x.id) s
  | .path port back => sendOnPath 5 port back (eventPacket e rep x.id) s

/-- An event can reach a subscriber now. -/
def canSendTo (s : State) (late : Bool) (x : Session) : Bool :=
  match x.src with
  | .kafer p => (eventPort s p late).isSome
  | _ => true

/-- One held event is sent to every subscriber that can be reached, and falls due for repetition 100 µs later (R55). -/
def sendEvent (e : EventRec) (overdue : Bool) (s : State) : State :=
  let subs := (subscribers s).filter (canSendTo s overdue)
  if subs.isEmpty || !holderLive s then s
  else
    let s := subs.foldl (sendEventTo e e.sent overdue) s
    mapEvents (fun x => if x.seq = e.seq then { x with sent := true, due := after s (us 100) } else x) s

/-- Events formed while they could not be sent are sent (R55, R359), `overdue` ones on the other port too (R36). -/
def flushOn (overdue : Bool) (s : State) : State :=
  (s.ctl.events.filter fun e => !e.sent).foldl (fun s e => sendEvent e overdue s) s

/-- Events formed while they could not be sent are sent, each on its session's port (R55, R359). -/
def flushEvents (s : State) : State := flushOn false s

/-- ALERT_N is low while any held event has ALERT = 1 (R56). -/
def alertLow (s : State) : Bool := s.ctl.events.any fun e => alertClass e.cls.toNat

/-- Holds an event detected at `at_` that has room, under the next EVENT_SEQ, and sends it if it can be sent (R53, R55). -/
def holdEvent (cls tenant len payload at_ : Nat) (s : State) : State :=
  let e : EventRec :=
    { seq := s.ctl.nextEvent, cls := BitVec.ofNat 16 cls, source := sourceId s, tenant := BitVec.ofNat 12 tenant,
      ltc := BitVec.ofNat 48 at_, gen := BitVec.ofNat 16 (rd s Fld.CTRL_MODE_STATUS_APPLIED_GEN),
      len := BitVec.ofNat 16 len, payload := payload % 2 ^ (8 * len) }
  sendEvent e false { s with ctl := { s.ctl with events := s.ctl.events ++ [e], nextEvent := s.ctl.nextEvent + 1 } }

/-- Drives the pins an event class drives until reset (R56). -/
def eventPins (cls : Nat) (s : State) : State :=
  { s with pins := { s.pins with
      replaceReqLow := s.pins.replaceReqLow || cls = 3
      tamperLow := s.pins.tamperLow || cls = 4 } }

/-- An event detected at a given LTC: held while fewer than 256 are, otherwise counted per class (R55). -/
def raiseEventAt (at_ cls tenant len payload : Nat) (s : State) : State :=
  let s := eventPins cls s
  if s.ctl.events.length < 256 then holdEvent cls tenant len payload at_ s
  else
    let n := (s.ctl.lost.get 0 cls).toNat
    { s with ctl := { s.ctl with lost := s.ctl.lost.put cls (BitVec.ofNat 16 (min 0xFFFF (n + 1))) } }

/-- An event detected now. -/
def raiseEvent (cls tenant len payload : Nat) (s : State) : State := raiseEventAt (now48 s) cls tenant len payload s

/-- The LOST field of an EVENTS_LOST payload: 16 bits for each class (R430). -/
def lostPayload (s : State) : Nat :=
  (List.range 12).foldl (fun acc i => acc + (s.ctl.lost.get 0 (i + 1)).toNat * 2 ^ (16 * i)) 0

/-- When space frees, the counts of events not queued are reported in one EVENTS_LOST event (R55). -/
def reportLost (s : State) : State :=
  if s.ctl.lost.isEmpty || decide (256 ≤ s.ctl.events.length) then s
  else
    let p := lostPayload s
    raiseEvent 10 0xFFF 32 p { s with ctl := { s.ctl with lost := [] } }

/-! ### Fault records (R409-R415) -/

/-- What a fault record says, apart from its number and count (R409). -/
structure FaultInfo where
  cls : Nat
  code : Nat
  sev : Nat
  kind : Nat := 0
  index : Nat := 0
  akind : Nat := 0
  addr : Nat := 0
  detail : Nat := 0
  tenant : Nat := 0xFFF
  deriving DecidableEq, Repr

/-- A fault record (R409); `ltc` is that of the first occurrence, `detail` starts at bit 224. -/
def packRecord (i : FaultInfo) (count frec ltc : Nat) : Nat :=
  packBits [(8, i.cls), (8, i.code), (2, i.sev), (3, i.akind), (3, 0), (4, i.kind), (12, i.index), (16, min 0xFFFF count),
    (8, 0), (32, frec), (48, ltc), (16, 0), (64, i.addr), (288, i.detail)]

/-- A record is formed: numbered, written to the log unless of the deadline class, and sent in an event (R413, R415). -/
def formRecord (r cls tenant : Nat) (s : State) : State :=
  let n := rd s Fld.FLT_STATUS_NEXT_FREC
  let r := putBits r 64 32 n
  let s := wr s Fld.FLT_STATUS_NEXT_FREC (n + 1)
  if cls = 2 then raiseEvent 2 tenant 64 r s
  else
    let i := rd s Fld.FLT_STATUS_LOG_NEXT
    let s := { s with ctl := { s.ctl with log := s.ctl.log.put (i % 512) (BitVec.ofNat 512 r) } }
    raiseEvent 1 tenant 64 r (wr s Fld.FLT_STATUS_LOG_NEXT (i + 1))

/-- Classes 1 and 5..9 are coalesced (R414). -/
def coalesced (cls : Nat) : Bool := cls = 1 || (5 ≤ cls && cls ≤ 9)

/-- A coalescing window is that of a fault's key. -/
def Window.isOf (w : Window) (i : FaultInfo) : Bool :=
  w.cls.toNat = i.cls && w.code.toNat = i.code && w.kind.toNat = i.kind && w.index.toNat = i.index

/-- A fault occurs (R408-R415). -/
def raiseFault (i : FaultInfo) (s : State) : State :=
  if coalesced i.cls then
    match s.ctl.windows.find? (·.isOf i) with
    | some w =>
      let first := if w.count = 0 then packRecord i 0 0 (now48 s) else w.first
      let tenant := if w.count = 0 then BitVec.ofNat 12 i.tenant else w.tenant
      let w' := { w with count := w.count + 1, first := first, tenant := tenant }
      let s := mapWindows (fun x => if x.isOf i then w' else x) s
      bump s Fld.FLT_STATUS2_COALESCED
    | none =>
      let w : Window := { cls := BitVec.ofNat 8 i.cls, code := BitVec.ofNat 8 i.code, kind := BitVec.ofNat 8 i.kind,
                          index := BitVec.ofNat 12 i.index, ends := after s (us 100) }
      formRecord (packRecord i 1 0 (now48 s)) i.cls i.tenant { s with ctl := { s.ctl with windows := s.ctl.windows ++ [w] } }
  else formRecord (packRecord i 1 0 (now48 s)) i.cls i.tenant s

/-- A fabric access is refused under R103: counted and reported. -/
def ingressRefused (s : State) : State :=
  raiseFault { cls := 1, code := 2, sev := 0 } (bump s Fld.XLT_STATUS_INGRESS_REFUSED)

/-- The REPLACE_REQUEST payload of R425 from the degraded picture. -/
def replacePayload (s : State) (cause region : Nat) : Nat :=
  packBits [(8, cause), (8, 0), (16, rd s Fld.FLT_DEGRADED_TILES_RETIRED), (12, rd s Fld.FLT_DEGRADED_STACKS_LOST),
    (12, rd s Fld.FLT_DEGRADED_DDR_LOST), (8, 0), (16, rd s Fld.FLT_DEGRADED_PORTS_LOST),
    (6, rd s Fld.FLT_DEGRADED_UNITS_LOST), (10, 0), (48, now48 s), (16, region)]

/-- A REPLACE_REQUEST event with the whole degraded picture (R425). -/
def replaceRequest (cause region : Nat) (s : State) : State :=
  raiseEvent 3 0xFFF 64 (replacePayload s cause region) s

/-- A LINK_STATE event (R430). -/
def linkStateEvent (kafer : Bool) (port old new width : Nat) (s : State) : State :=
  raiseEvent 11 0xFFF 8 (packBits [(1, b2n kafer), (7, 0), (4, port), (4, 0), (3, old), (5, 0), (3, new), (5, 0), (5, width)]) s

/-! ### Status codes and replies (R48, R58) -/

namespace Status
def OK : Nat := 0x0000
def IN_PROGRESS : Nat := 0x0001
def BAD_VERSION : Nat := 0x0010
def BAD_OPCODE : Nat := 0x0011
def RSV_NONZERO : Nat := 0x0012
def BAD_LENGTH : Nat := 0x0013
def BAD_PARAM : Nat := 0x0014
def AUTH_FAIL : Nat := 0x0020
def NO_SESSION : Nat := 0x0021
def SEQ_REPLAYED : Nat := 0x0022
def DEADLINE_EXPIRED : Nat := 0x0030
def BUSY : Nat := 0x0031
def NO_TARGET : Nat := 0x0032
def RELAY_TIMEOUT : Nat := 0x0033
def NOT_PERMITTED : Nat := 0x0040
def CONSENT_REQUIRED : Nat := 0x0041
def NO_RESOURCE : Nat := 0x0042
def CONFLICT : Nat := 0x0043
def NOT_FOUND : Nat := 0x0044
def IN_USE : Nat := 0x0045
def NOT_ARMED : Nat := 0x0050
def GEN_MISMATCH : Nat := 0x0051
def WINDOW_OPEN : Nat := 0x0052
def NOT_APPLIED : Nat := 0x0053
def STAGE_INVALID : Nat := 0x0054
def CSR_UNMAPPED : Nat := 0x0060
def POLL_TIMEOUT : Nat := 0x0061
def FW_VERIFY_FAIL : Nat := 0x0070
def FW_SEQUENCE : Nat := 0x0071
def INTERNAL_ERROR : Nat := 0x00FF
end Status

/-- A command's deadline has passed (R50); 0 means none. -/
def cmdLate (s : State) (h : CmdHdr) : Bool := h.deadline ≠ 0 && passed48 s h.deadline.toNat

/-- The DETAIL of a deadline record of code 2 (R412). -/
def cmdDeadlineDetail (h : CmdHdr) : Nat :=
  packBits [(16, h.opcode.toNat), (32, h.tag.toNat), (32, h.seq.toNat), (32, h.session.toNat), (48, h.deadline.toNat)]

/-- A DEADLINE_MISS event of a command (R50, R411). -/
def cmdDeadlineMiss (h : CmdHdr) (src : CmdSource) (s : State) : State :=
  raiseFault { cls := 2, code := 2, sev := 0, kind := 6, index := src.portNum, detail := cmdDeadlineDetail h } s

/-- A reply's header and payload (R48), formed now. -/
def mkReply (s : State) (h : CmdHdr) (status : Nat) (payload : List Byte) : Reply :=
  { opcode := h.opcode, tag := h.tag, source := sourceId s, tenant := h.tenant, late := false, relayed := false,
    held := false, reexec := false, anvilB := replyAnvil s = .f1, resent := false,
    doneLtc := BitVec.ofNat 48 (now48 s), appliedGen := BitVec.ofNat 16 (rd s Fld.CTRL_MODE_STATUS_APPLIED_GEN),
    status := BitVec.ofNat 16 status, session := h.session, seq := h.seq, payload := payload }

/-- Which port a reply leaves on: the port its command arrived on; the other one once it has waited 1 ms (R36). -/
def replyPort (s : State) (p : KPort) (readyAt : Ltc) : Option KPort :=
  if portUp s p then some p
  else if decide (readyAt.toNat + us 1000 ≤ now s) && portUp s p.other then some p.other
  else none

/-- The journal entry of a reply that left through another part (R51). -/
def markRelayed (r : Reply) (s : State) : State :=
  updJournal (fun e => decide (e.reply = some r) && e.unsent) (fun e => { e with sentRelay := true, sentAt := after s 0 }) s

/-- Sends a reply the way its command came (R36, R41, R283); while no port is up, and in the gap, it waits in the journal. -/
def sendReply (s : State) (src : CmdSource) (readyAt : Ltc) (r : Reply) : State :=
  if inGap s then s
  else
    match src with
    | .kafer p =>
      match replyPort s p readyAt with
      | some q => kSend s q (.reply r)
      | none => s
    | .relayed part => markRelayed r (sendMgmt 2 part (replyPacket r) s)
    | .path port back => markRelayed r (sendOnPath 5 port back (replyPacket r) s)

/-- A command is not yet answered. -/
def JEntry.isOpen (h : CmdHdr) (e : JEntry) : Bool := e.h = h && e.st ≠ .replied

/-- The journal entry of a command not yet answered: the first, for two commands of SESSION 0 may have one header (R47). -/
def entryOf (s : State) (h : CmdHdr) : Option JEntry :=
  s.ctl.journal.find? (JEntry.isOpen h)

/-- Changes the journal entry of a command not yet answered. -/
def updEntry (s : State) (h : CmdHdr) (f : JEntry → JEntry) : State := updJournal (JEntry.isOpen h) f s

/-- The record of an accepted SEQ gets its final STATUS (R47). -/
def recordStatus (h : CmdHdr) (status : Nat) (s : State) : State :=
  mapSessions (fun x =>
    if x.id = h.session && h.session ≠ 0 then
      { x with recs := x.recs.upd h.seq.toNat fun _ => some (BitVec.ofNat 16 status) }
    else x) s

/-- A final reply is kept with its journal entry and recorded; a late one and an internal error are reported (R47, R50, R51). -/
def keepReply (h : CmdHdr) (status : Nat) (r : Reply) (src : CmdSource) (s : State) : State :=
  let s := updEntry s h fun e => { e with st := .replied, reply := some r, readyAt := after s 0 }
  let s := recordStatus h status s
  let s := if r.late then cmdDeadlineMiss h src s else s
  if status = Status.INTERNAL_ERROR then
    raiseFault { cls := 9, code := 5, sev := 1, kind := 10, index := b2n r.anvilB } s
  else s

/-- The payload of a final reply: that of `TIER_MOVE` says what was moved whatever the status, nothing where it was refused (R88). -/
def payloadFor (h : CmdHdr) (payload : List Byte) : List Byte :=
  if h.opcode = 0x0203 && payload.isEmpty then leBytes 8 0 else payload

/-- A command completes: its final reply is formed, recorded and sent (R47, R48, R50, R51). LATE is 1 also where a command expired
unexecuted (R50 says it of the end of an execution; log entry 56). A command that has lost its journal entry to a reset gets no
reply (R52, R397). -/
def finish (h : CmdHdr) (status : Nat) (payload : List Byte) (s : State) : State :=
  match entryOf s h with
  | none => s
  | some e =>
    let r := { mkReply s h status (payloadFor h payload) with late := cmdLate s h, held := e.held, reexec := e.reexec }
    sendReply (keepReply h status r e.src s) e.src (after s 0) r

/-- A command is answered with a status and no payload. -/
def refuseCmd (h : CmdHdr) (status : Nat) (s : State) : State := finish h status [] s

/-- The command completes with `OK` and a payload. -/
def okCmd (h : CmdHdr) (payload : List Byte) (s : State) : State := finish h Status.OK payload s

/-- A long command has begun and has not completed: it keeps its journal entry (R49, R51). -/
def beginLong (h : CmdHdr) (s : State) : State :=
  updEntry s h fun e => match e.st with
    | .queued => { e with st := .running (after s 0) }
    | _ => e

/-- Runs the effect of an opcode at time t, unless its TENANT or STAGED flag does not suit it (R45, R57). -/
def opcode (t : Ltc) (h : CmdHdr) (sc : Scope) (stagedOk : Bool) (body : State → State) (s : State) :
    Host.Outcome State Fault Refusal :=
  let s := adv t s
  if !h.scopeOk sc then .next (refuseCmd h Status.BAD_PARAM s)
  else if h.staged && !stagedOk then .next (refuseCmd h Status.BAD_PARAM s)
  else .next (body s)

/-! ### Counters of clusters (R416, R417) -/

/-- One occurrence of an event of a cluster, caused by a tenant's descriptor where `tenant` is below 1024. -/
def countEv (cluster event tenant n : Nat) (s : State) : State :=
  mapCounters (fun k c =>
    if (k / 16 = cluster) && c.event.toNat = event && !c.stopped && (c.tenant = 0xFFF || c.tenant.toNat = tenant)
    then { c with value := c.value + BitVec.ofNat 64 n } else c) s

/-- An occurrence counted for a die (events 0x200..0x2FF), by every cluster of it that selects the event. -/
def countDie (die event n : Nat) (s : State) : State :=
  mapCounters (fun k c =>
    if (k / 128 = die) && c.event.toNat = event && !c.stopped then { c with value := c.value + BitVec.ofNat 64 n } else c) s

/-- An occurrence counted for the part (events 0x300..0x3FF). -/
def countPart (event n : Nat) (s : State) : State :=
  mapCounters (fun _ c =>
    if c.event.toNat = event && !c.stopped then { c with value := c.value + BitVec.ofNat 64 n } else c) s

end Sys2Proof.Machine
end

