-- ==== Sys2Proof/Machine/OpTable.lean ====
section
/-! DEFINITION. The opcode table of R57: marks, scope, parameter length, and the objects a command names (R51). -/

namespace Sys2Proof.Machine

/-- One opcode (R57): U, L, S marks, loader command (R355), scope, and the length of its parameters. -/
structure OpInfo where
  u : Bool := false
  l : Bool := false
  s : Bool := false
  loader : Bool := false
  scope : Scope := .platform
  len : List Byte → Nat

/-- A field of n bytes at an offset of the parameters (R44). -/
def parAt (p : List Byte) (off n : Nat) : Nat := leNat ((p.drop off).take n)

/-- A constant parameter length. -/
def fixed (n : Nat) : List Byte → Nat := fun _ => n

/-- The opcode table (R57). -/
def opInfo (op : Nat) : Option OpInfo :=
  match op with
  | 0x0000 => some { u := true, loader := true, len := fixed 0 }
  | 0x0001 => some { u := true, loader := true, len := fixed 0 }
  | 0x0002 => some { u := true, loader := true, len := fixed 1572 }
  | 0x0003 => some { loader := true, len := fixed 4 }
  | 0x0004 => some { len := fixed 2 }
  | 0x0005 => some { u := true, len := fixed 0 }
  | 0x0006 => some { loader := true, len := fixed 4 }
  | 0x0007 => some { len := fun p => 2 + 2 * parAt p 0 2 }
  | 0x0100 => some { len := fixed 7 }
  | 0x0101 => some { len := fun p => 7 + parAt p 4 1 * parAt p 5 2 }
  | 0x0102 => some { len := fixed 21 }
  | 0x0103 => some { l := true, len := fixed 23 }
  | 0x0110 => some { len := fixed 2 }
  | 0x0111 => some { l := true, len := fixed 8 }
  | 0x0112 => some { len := fixed 2 }
  | 0x0113 => some { len := fixed 2 }
  | 0x0200 => some { scope := .either, len := fixed 16 }
  | 0x0201 => some { l := true, scope := .either, len := fixed 2 }
  | 0x0202 => some { scope := .either, len := fixed 2 }
  | 0x0203 => some { l := true, scope := .tenant, len := fixed 13 }
  | 0x0204 => some { len := fixed 1 }
  | 0x0205 => some { l := true, scope := .tenant, len := fixed 12 }
  | 0x0300 => some { scope := .tenant, len := fixed 64 }
  | 0x0301 => some { l := true, scope := .tenant, len := fixed 0 }
  | 0x0302 => some { scope := .tenant, len := fixed 1634 }
  | 0x0303 => some { scope := .either, len := fixed 2 }
  | 0x0304 => some { scope := .tenant, len := fixed 0 }
  | 0x0305 => some { s := true, scope := .tenant, len := fixed 64 }
  | 0x0400 => some { l := true, len := fixed 2 }
  | 0x0401 => some { s := true, len := fun p => 6 + 4 * parAt p 4 2 }
  | 0x0402 => some { s := true, len := fixed 2 }
  | 0x0403 => some { len := fixed 2 }
  | 0x0404 => some { len := fixed 3 }
  | 0x0500 => some { scope := .tenant, len := fixed 64 }
  | 0x0501 => some { l := true, scope := .either, len := fixed 2 }
  | 0x0502 => some { scope := .tenant, len := fixed 10 }
  | 0x0503 => some { l := true, scope := .either, len := fixed 2 }
  | 0x0504 => some { scope := .tenant, len := fixed 4 }
  | 0x0505 => some { len := fixed 64 }
  | 0x0506 => some { s := true, len := fun p => 5 + 16 * parAt p 3 2 }
  | 0x0600 => some { scope := .either, len := fixed 4 }
  | 0x0601 => some { len := fixed 16 }
  | 0x0602 => some { len := fixed 2 }
  | 0x0603 => some { scope := .either, len := fixed 4 }
  | 0x0700 => some { loader := true, len := fixed 0 }
  | 0x0701 => some { len := fixed 1 }
  | 0x0702 => some { len := fixed 6 }
  | 0x0703 => some { l := true, len := fixed 0 }
  | 0x0704 => some { len := fixed 5 }
  | 0x0800 => some { loader := true, len := fixed 8 }
  | 0x0801 => some { loader := true, len := fun p => max 8 (min 4104 p.length) }
  | 0x0802 => some { l := true, loader := true, len := fixed 0 }
  | 0x0803 => some { l := true, loader := true, len := fixed 1 }
  | 0x0900 => some { u := true, loader := true, len := fixed 0 }
  | 0x0901 => some { u := true, l := true, loader := true, len := fixed 32 }
  | 0x0902 => some { len := fun p => if p.length = 6456 then 6456 else 3088 }
  | 0x0A00 => some { len := fixed 4 }
  | 0x0A01 => some { len := fixed 14 }
  | 0x0A02 => some { len := fixed 4 }
  | 0x0A03 => some { len := fixed 6 }
  | 0x0F00 => some { loader := true, len := fixed 1 }
  | _ => none

/-- A command's opcode is marked L. -/
def longCmd (h : CmdHdr) : Bool := match opInfo h.opcode.toNat with | some i => i.l | none => false

/-- The parameters after the path of a path-routed command (R45). -/
def ownParams (h : CmdHdr) (p : List Byte) : List Byte := if h.flags.getLsbD 3 then p.drop 16 else p

/-- The objects a command names (R51): 1 tenant, 2 ingot, 3 key slot, 4 sequence context, 5 ring, 6 fabric port, 7 the mode
state, each with its number. -/
def cmdObjects (h : CmdHdr) (params : List Byte) : List (Nat × Nat) :=
  let p := ownParams h params
  let t := if h.tenant.toNat < 1024 then [(1, h.tenant.toNat)] else []
  let first2 := parAt p 0 2
  let ports := (setBits 16 first2).map fun i => (6, i)
  t ++ (match h.opcode.toNat with
    | 0x0110 | 0x0111 | 0x0112 | 0x0113 => [(7, 0)]
    | 0x0200 | 0x0201 | 0x0202 => [(2, first2)]
    | 0x0302 | 0x0303 | 0x0A00 | 0x0A03 => [(3, first2)]
    | 0x0400 | 0x0403 => ports
    | 0x0404 => [(6, parAt p 0 1)]
    | 0x0501 => [(5, first2)]
    | 0x0502 | 0x0503 => [(4, first2)]
    | _ => [])

/-- The fault-service set of R121. -/
def faultService (a : Nat) : Bool :=
  (0x38040 ≤ a && a < 0x38050) || (0x38080 ≤ a && a < 0x38090) || (0x40000 ≤ a && a < 0xC0000) ||
  (0x38100 ≤ a && a < 0x38110) || (0x38008 ≤ a && a < 0x38010) || (0x39000 ≤ a && a < 0x3A000) ||
  (0x20020 ≤ a && a < 0x20030)

/-- A command whose every address lies in the fault-service set (R121). -/
def isFaultService (h : CmdHdr) (params : List Byte) : Bool :=
  let p := ownParams h params
  let a := parAt p 0 4
  let w := parAt p 4 1
  match h.opcode.toNat with
  | 0x0100 | 0x0101 => (List.range (parAt p 5 2)).all fun i => faultService (a + w * i)
  | 0x0103 => faultService a
  | _ => false

/-- Commands the management hardware of the fabric dies executes, with or without an Anvil (R121, R402). -/
def isHardware (s : State) (h : CmdHdr) (params : List Byte) : Bool :=
  h.opcode = 0x0005 || (h.opcode = 0x0004 && s.ctl.partId.isNone) || isFaultService h params

/-- Some Anvil or the management hardware can begin a command now (R355, R357, R402). -/
def executable (s : State) (h : CmdHdr) (params : List Byte) : Bool :=
  isHardware s h params ||
  (match s.anv.token with
   | some _ => holderLive s
   | none => holderLive s && (match opInfo h.opcode.toNat with | some i => i.loader | none => false))

end Sys2Proof.Machine
end

