-- ==== Sys2Proof/Machine/Command.lean ====
section
/-! DEFINITION. Kaferlink frames (R37-R40), command packets and the journal (R41-R52), replies and events (R48, R55). -/

namespace Sys2Proof.Machine

/-! ### Frames -/

/-- How far a frame number lies behind another, modulo 2^16. -/
def behind (newer older : BitVec 16) : Nat := (newer - older).toNat

/-- A replay-buffer frame is covered by an ACK (R39): it lies at or before the acknowledged FSEQ. -/
def coveredBy (l : KLink) (ack : BitVec 16) (f : TxFrame) : Bool :=
  decide (behind l.lastSent ack ≤ behind l.lastSent f.fseq) && decide (behind l.lastSent ack ≤ l.unacked.length)

/-- What a packet's acknowledged end does: a reply's journal entry is freed; a final reply of a relayed command is acknowledged to
its target (R51). -/
def packetDelivered (p : KPort) (fseq : BitVec 16) (s : State) (k : KPacket) : State :=
  match k with
  | .reply _ =>
    { s with ctl := { s.ctl with journal := s.ctl.journal.filter fun e => e.sentOn ≠ some (p, fseq) } }
  | .relayed (.reply r _) =>
    if r.status.toNat = Status.IN_PROGRESS then s else sendReplyAck r.source r.session r.seq s
  | _ => s

/-- The packets that end in an acknowledged frame are delivered. -/
def packetAcked (p : KPort) (f : TxFrame) (s : State) : State := f.ends.foldl (packetDelivered p f.fseq) s

/-- An ACK frees the frames it covers, lets waiting packets go, and resets the count of resends and the time-out (R39, R40). -/
def takeAck (p : KPort) (ack : BitVec 16) (s : State) : State :=
  let l := klink s p
  let gone := l.unacked.filter (coveredBy l ack)
  if gone.isEmpty then s
  else
    let s := setKlink s p { l with
      unacked := l.unacked.filter (fun f => !coveredBy l ack f), resends := 0, ackAt := after s 0 }
    let s := gone.foldl (fun s f => packetAcked p f s) s
    kDrain 512 p s

/-- The port retrains after eight replays of one frame, sending training frames, and raises a LINK_STATE event (R39). -/
def kaferRetrain (p : KPort) (s : State) : State :=
  let s := wr s (Fld.KAFER_LINK_STATUS_STATE p.num) 1
  let s := setKlink s p { klink s p with resends := 0 }
  linkStateEvent true p.num 2 1 0 (emitAll [.retrain p, .frame p (bareFrame (klink s p) 4 0)] s)

/-- The unacknowledged frames from an FSEQ on. -/
def framesAfter (l : KLink) (f : BitVec 16) : List TxFrame :=
  l.unacked.filter fun x => decide (behind l.lastSent x.fseq ≤ behind l.lastSent f)

/-- The frames from an FSEQ on are sent again; the eighth time of the same oldest frame the port retrains (R39). -/
def resendFrom (p : KPort) (f : BitVec 16) (s : State) : State :=
  let l := klink s p
  let again := framesAfter l f
  if again.isEmpty then s
  else
    let s := emitAll (again.map fun x => .frame p (dataFrame l x)) s
    let s := bump s (Fld.KAFER_LINK_STATUS_REPLAYS p.num)
    let s := setKlink s p { klink s p with resends := l.resends + 1, ackAt := after s 0 }
    if 8 ≤ l.resends + 1 then kaferRetrain p s else s

/-- A replay request naming the first FSEQ the receiver lacks (R39). -/
def askReplay (p : KPort) (s : State) : State :=
  let l := klink s p
  emit (.frame p (bareFrame l 3 (l.lastGood + 1))) (setKlink s p { l with discarding := true })

/-- A data frame is accepted in order: the packets that end in it are read from the payload stream (R38). A packet not yet
whole goes on at the start of the payload; otherwise the first begins at FIRST_MARK. -/
def acceptFrame (p : KPort) (f : Frame) (s : State) : State :=
  let l := klink s p
  let stream :=
    if !l.rx.isEmpty then l.rx ++ f.payload
    else if f.firstMark = 0x7FF then []
    else f.payload.drop f.firstMark.toNat
  let (cmds, rest) := takePackets stream.length stream
  setKlink s p { l with
    lastGood := f.fseq, discarding := false, rx := rest, cmds := l.cmds ++ cmds.map fun c => (f.fseq, c) }

/-- A frame arrives (R37, R39): one with a codeword that cannot be corrected or a wrong CRC-32 is discarded with every later
one and a replay is requested; an ACK frees frames; data frames are accepted in order. Idle and training frames carry an ACK
alone, and so do those of an unassigned FTYPE, which the manual gives no effect (log entry 6). -/
def frameIn (p : KPort) (f : Frame) (good : Bool) (s : State) : State :=
  if !portUp s p then s
  else if !good || f.crc ≠ frameSum f then askReplay p s
  else
    let s := takeAck p f.ack s
    let l := klink s p
    match f.ftype.toNat with
    | 1 =>
      if f.fseq = l.lastGood + 1 then acceptFrame p f s
      else if l.discarding then s
      else if behind f.fseq l.lastGood < 2 ^ 15 && f.fseq ≠ l.lastGood then askReplay p s
      else s
    | 3 => resendFrom p f.replayFrom s
    | _ => s

/-- KAFERLINK_FRAME (R39). -/
def execKaferlinkFrame (t : Ltc) (p : KPort) (f : Frame) (good : Bool) (s : State) : Host.Outcome State Fault Refusal :=
  .next (frameIn p f good (adv t s))

/-- REPLAY_REQUEST (R39): the sender resends from the named FSEQ. -/
def execReplayRequest (t : Ltc) (p : KPort) (replayFrom ack : BitVec 16) (s : State) : Host.Outcome State Fault Refusal :=
  let s := adv t s
  .next (if portUp s p then resendFrom p replayFrom (takeAck p ack s) else s)

/-- ACK_TIMEOUT (R39): no advancing ACK for 40 µs; the sender resends from the oldest unacknowledged frame. -/
def execAckTimeout (t : Ltc) (p : KPort) (s : State) : Host.Outcome State Fault Refusal :=
  let s := adv t s
  let l := klink s p
  .next (match l.unacked with
    | [] => s
    | f :: _ => if portUp s p && decide (l.ackAt.toNat + us 40 ≤ now s) then resendFrom p f.fseq s else s)

/-! ### Taking a command packet -/

/-- The reserved bits and unassigned encodings of a command header (R13, R44, R45). -/
def headerRsv (h : CmdHdr) : Bool :=
  h.rsv ≠ 0 || bitsOf h.flags.toNat 4 12 ≠ 0 || (1024 ≤ h.tenant.toNat && h.tenant.toNat < 0xFFF)

/-- PARAM_LEN suits the opcode: the parameters packed, padded to a multiple of 8, behind the path if there is one (R44). -/
def lengthOk (h : CmdHdr) (i : OpInfo) (params : List Byte) : Bool :=
  let p := ownParams h params
  let path := if h.pathRouted then 16 else 0
  h.paramLen.toNat % 8 = 0 && h.paramLen.toNat ≤ 8192 && h.paramLen.toNat = params.length &&
    params.length = path + (i.len p + 7) / 8 * 8

/-- The padding of the parameters is zero (R44, R13). -/
def paddingZero (h : CmdHdr) (i : OpInfo) (params : List Byte) : Bool :=
  let p := ownParams h params
  (p.drop (i.len p)).all fun b => b = 0

/-- The flags a command may carry (R45, R44). DESIGN CHOICE (log entry 56): a MODE_GEN without STAGED is answered `BAD_PARAM`; R44
says only that the field is 0 then. -/
def flagsOk (h : CmdHdr) (i : OpInfo) : Bool :=
  let grp := h.opcode.toNat / 256
  (!h.staged || i.s) && (!h.pathRouted || grp = 0 || grp = 9) && (h.staged || h.modeGen = 0)

/-- What the format of a command earns it before it is journaled, or 0 (R44, R45, R57, R58; the order is log entry 7). -/
def formatStatus (h : CmdHdr) (params : List Byte) : Nat :=
  match opInfo h.opcode.toNat with
  | none => Status.BAD_OPCODE
  | some i =>
    if headerRsv h then Status.RSV_NONZERO
    else if !lengthOk h i params then Status.BAD_LENGTH
    else if !paddingZero h i params then Status.RSV_NONZERO
    else if !flagsOk h i then Status.BAD_PARAM
    else if !h.scopeOk i.scope then Status.BAD_PARAM
    else 0

/-- An opcode marked U, or `RESET` sent with SESSION 0 after tamper (R46, R348). -/
def openTo0 (s : State) (h : CmdHdr) : Bool :=
  (match opInfo h.opcode.toNat with | some i => i.u | none => false) || (s.sec.tampered && h.opcode = 0x0F00)

/-- A reply that has no journal entry leaves on the way its command came; in the gap it waits (R36, R51, R360). -/
def answerNow (src : CmdSource) (r : Reply) (s : State) : State :=
  match src with
  | .kafer p => kSend s p (.reply r)
  | .relayed part =>
    if inGap s then { s with ctl := { s.ctl with heldReplies := s.ctl.heldReplies ++ [(src, r)] } }
    else sendMgmt 2 part (replyPacket r) s
  | .path port back =>
    if inGap s then { s with ctl := { s.ctl with heldReplies := s.ctl.heldReplies ++ [(src, r)] } }
    else sendOnPath 5 port back (replyPacket r) s

/-- A command is refused as it arrives. -/
def refuseNow (src : CmdSource) (h : CmdHdr) (status : Nat) (s : State) : State :=
  answerNow src (mkReply s h status []) s

/-- The session of a session ID. -/
def sessionOf (s : State) (id : BitVec 32) : Option Session := s.ctl.sessions.vals.find? fun x => x.id = id

/-- The distance d = (H − SEQ) mod 2^32 of R47; none while nothing has been accepted. -/
def seqDist (x : Session) (seq : BitVec 32) : Option Nat := x.high.map fun h => (h - seq).toNat

/-- An accepted SEQ is recorded; it becomes H when it lies ahead of it, and records that leave the window are dropped
(R47). -/
def acceptSeq (seq : BitVec 32) (x : Session) : Session :=
  let ahead := match seqDist x seq with
    | none => true
    | some d => decide (2 ^ 31 ≤ d)
  if ahead then
    { x with high := some seq,
             recs := (x.recs.keep fun k _ => decide ((seq - BitVec.ofNat 32 k).toNat < 1024)).put seq.toNat none }
  else { x with recs := x.recs.put seq.toNat none }

/-- A new command enters the journal, or is answered `BUSY` when 512 entries are in use (R47, R51). -/
def journalCmd (src : CmdSource) (h : CmdHdr) (params : List Byte) (s : State) : State :=
  if 512 ≤ s.ctl.journal.length then
    refuseNow src h Status.BUSY (bump s Fld.CTRL_JOURNAL_STATUS_BUSY_COUNT)
  else
    let s := mapSessions (fun x => if x.id = h.session && h.session ≠ 0 then acceptSeq h.seq x else x) s
    { s with ctl := { s.ctl with
        journal := s.ctl.journal ++ [{ h := h, params := params, src := src, accepted := after s 0 }] } }

/-- The reply of a journal entry as it was formed, or `IN_PROGRESS` while the command has not completed (R47). -/
def resendEntry (src : CmdSource) (e : JEntry) (s : State) : State :=
  match e.reply with
  | some r => answerNow src r s
  | none => refuseNow src e.h Status.IN_PROGRESS s

/-- Deduplication within the session, then the journal (R47). A SEQ whose record has no final STATUS and whose command has no
journal entry any more is answered `IN_PROGRESS` with RESENT. DESIGN CHOICE (log entry 56): the manual does not say. -/
def dedup (src : CmdSource) (h : CmdHdr) (params : List Byte) (x : Session) (s : State) : State :=
  match s.ctl.journal.find? fun e => e.h.session = h.session && e.h.seq = h.seq with
  | some e => resendEntry src e s
  | none =>
    let d := (seqDist x h.seq).getD (2 ^ 31)
    match x.recs.find h.seq.toNat with
    | some st =>
      if d < 1024 then
        let st := match st with | some v => v.toNat | none => Status.IN_PROGRESS
        answerNow src { mkReply s h st [] with resent := true } s
      else if d < 2 ^ 31 then refuseNow src h Status.SEQ_REPLAYED s
      else journalCmd src h params s
    | none =>
      if 1024 ≤ d && d < 2 ^ 31 then refuseNow src h Status.SEQ_REPLAYED s else journalCmd src h params s

/-- A command with SESSION 0: the opcodes marked U, and after tamper `RESET`, are open to it (R46, R348). -/
def takeUnsigned (src : CmdSource) (h : CmdHdr) (params : List Byte) (s : State) : State :=
  let st := formatStatus h params
  if st = Status.BAD_OPCODE then refuseNow src h st s
  else if !openTo0 s h then refuseNow src h Status.AUTH_FAIL s
  else if st ≠ 0 then refuseNow src h st s
  else journalCmd src h params s

/-- A command for this part: session, integrity tag, format, deduplication (R44-R47). After tamper a session's command runs only
where it is marked U (R348). -/
def takeOwn (src : CmdSource) (h : CmdHdr) (params : List Byte) (tagOk : Bool) (s : State) : State :=
  let st := formatStatus h params
  if h.session = 0 then takeUnsigned src h params s
  else
    match sessionOf s h.session with
    | none => refuseNow src h Status.NO_SESSION s
    | some x =>
      if !tagOk || (s.sec.tampered && !(opInfo h.opcode.toNat).any OpInfo.u) then refuseNow src h Status.AUTH_FAIL s
      else if st ≠ 0 then refuseNow src h st s
      else dedup src h params x s

/-- The path of a command (R45): its hop count, and the bits behind its last hop. -/
def pathCount (params : List Byte) : Nat := bitsOf (leNat (params.take 16)) 0 5
def pathRsv (params : List Byte) : Nat := leNat (params.take 16) / 2 ^ (5 * (pathCount params + 1))

/-- A path starts with a hop count 1..24 and port numbers 0..15 (R45). -/
def pathOk (params : List Byte) : Bool :=
  let p := leNat (params.take 16)
  let n := pathCount params
  1 ≤ n && n ≤ 24 && (List.range n).all fun k => bitsOf p (5 * (k + 1)) 5 < 16

/-- The first port of a path (R45). -/
def pathPort (params : List Byte) : Nat := bitsOf (leNat (params.take 16)) 5 5

/-- The HOPS field of the cells that carry a command along its path: the hop that leaves this part is used and holds the mark at
which the answer is ejected here; none follows the last (R283). -/
def pathHops (params : List Byte) : BitVec 120 :=
  let p := leNat (params.take 16)
  BitVec.ofNat 120 (packBits ((List.range 24).map fun k =>
    (5, if k = 0 || decide (pathCount params ≤ k) then 0x1F else bitsOf p (5 * (k + 1)) 5)))

/-- A command packet as it is carried. -/
def cmdPacket (h : CmdHdr) (body : List Byte) : List Byte := leBytes 32 (cmdHeader h) ++ body

/-- A command for relay is forwarded unchanged in management cells, along the route table or its own path, and its 2 ms timer
starts; a 1,025th is refused `BUSY` (R41, R42). -/
def forwardRelay (src : CmdSource) (h : CmdHdr) (params body : List Byte) (s : State) : State :=
  if 1024 ≤ s.ctl.relayed.length then
    refuseNow src h Status.BUSY (bump s Fld.CTRL_JOURNAL_STATUS_BUSY_COUNT)
  else
    let s := { s with ctl := { s.ctl with relayed := s.ctl.relayed ++ [⟨h, src, after s (us 2000)⟩] } }
    if h.pathRouted then sendOnPath 4 (BitVec.ofNat 4 (pathPort params)) (pathHops params) (cmdPacket h body) s
    else sendMgmt 1 h.target (cmdPacket h body) s

/-- A command packet that ended in a frame of a port is taken; the port's ACK goes on (R40). -/
def takenFrom (src : CmdSource) (h : CmdHdr) (body : List Byte) (s : State) : State :=
  match src with
  | .kafer p =>
    let l := klink s p
    match l.cmds with
    | [] => s
    | c :: r => if c.2 = cmdPacket h body then setKlink s p { l with cmds := r } else s
  | _ => s

/-- A command packet arrives (R44): version, path or target, then as its own (R41, R45). -/
def takeCommand (src : CmdSource) (h : CmdHdr) (params body : List Byte) (tagOk : Bool) (s : State) : State :=
  if h.version ≠ 1 then refuseNow src h Status.BAD_VERSION s
  else
    match src with
    | .kafer _ =>
      if h.pathRouted && (h.opcode.toNat / 256 = 0 || h.opcode.toNat / 256 = 9) then
        if !pathOk params then refuseNow src h Status.BAD_PARAM s
        else if pathRsv params ≠ 0 then refuseNow src h Status.RSV_NONZERO s
        else if !fabUp s (pathPort params) then refuseNow src h Status.NO_TARGET s
        else forwardRelay src h params body s
      else if h.target = sourceId s then takeOwn src h params tagOk s
      else if s.ctl.relayList.contains h.target then forwardRelay src h params body s
      else refuseNow src h Status.NO_TARGET s
    | .relayed _ =>
      if h.target = sourceId s then takeOwn src h params tagOk s else refuseNow src h Status.NO_TARGET s
    | .path _ _ => takeOwn src h params tagOk s

/-- The port a command arrives on accepts commands while the Anvil behind it is not OFF (R36, R355). -/
def portServes (s : State) : CmdSource → Bool
  | .kafer .a => portUp s .a && s.anv.a.state ≠ 0
  | .kafer .b => portUp s .b && s.anv.b.state ≠ 0
  | _ => true

/-- COMMAND_RECEIVE (R44). -/
def execCommandReceive (t : Ltc) (src : CmdSource) (h : CmdHdr) (params body : List Byte) (tagOk : Bool) (s : State) :
    Host.Outcome State Fault Refusal :=
  let s := adv t s
  .next (if portServes s src then takeCommand src h params body tagOk (takenFrom src h body s) else s)

/-! ### Beginning a command -/

/-- A journal entry runs. -/
def JEntry.running (e : JEntry) : Bool := match e.st with | .running _ => true | _ => false

/-- A journal entry waits. -/
def JEntry.isQueued (e : JEntry) : Bool := e.st = .queued

/-- Two commands name one object (R51). -/
def sharesObject (a b : List (Nat × Nat)) : Bool := a.any fun x => b.contains x

/-- The objects that unfinished long commands hold (R51). -/
def heldObjects (s : State) : List (Nat × Nat) :=
  ((s.ctl.journal.filter fun e => e.running && longCmd e.h).map fun e => cmdObjects e.h e.params).flatten

/-- Hardware's short commands, the Anvil's short commands and the long commands begin each in journal order (R51, R121). -/
def cmdClass (s : State) (e : JEntry) : Bool × Bool :=
  (longCmd e.h && !isFaultService e.h e.params, isHardware s e.h e.params)

/-- A waiting entry waits for more than the objects it names: for a command that runs, room among the 64 long commands, the
Anvil, or a fence (R45, R51). -/
def mustWait (s : State) (before : List JEntry) (e : JEntry) : Bool :=
  let shortRuns := s.ctl.journal.any fun x => x.running && !longCmd x.h && (cmdClass s x = cmdClass s e)
  let longs := (s.ctl.journal.filter fun x => x.running && (cmdClass s x).1).length
  !executable s e.h e.params ||
    (if (cmdClass s e).1 then decide (64 ≤ longs) else !longCmd e.h && shortRuns) ||
    (e.h.fence && before.any fun x => x.h.session = e.h.session && x.st ≠ .replied)

/-- The first entry in journal order that may begin. An entry that waits for an object lets later ones of other objects run
ahead; one that waits for anything else lets none of its class (R51). -/
def nextToBegin (s : State) : List JEntry → List JEntry → List (Nat × Nat) → List (Bool × Bool) → Option JEntry
  | [], _, _, _ => none
  | e :: r, before, heldNow, shut =>
    if e.isQueued then
      if shut.contains (cmdClass s e) then nextToBegin s r (before ++ [e]) (heldNow ++ cmdObjects e.h e.params) shut
      else if mustWait s before e then
        nextToBegin s r (before ++ [e]) (heldNow ++ cmdObjects e.h e.params) (cmdClass s e :: shut)
      else if sharesObject (cmdObjects e.h e.params) heldNow then
        nextToBegin s r (before ++ [e]) (heldNow ++ cmdObjects e.h e.params) shut
      else some e
    else nextToBegin s r (before ++ [e]) heldNow shut

/-- The entry that begins next. -/
def nextCommand (s : State) : Option JEntry := nextToBegin s s.ctl.journal [] (heldObjects s) []

/-- A command begins: its deadline is checked, and with DROP_LATE it may expire (R50); else it runs (R51). -/
def beginCommand (e : JEntry) (s : State) : State :=
  let late := cmdLate s e.h
  if late && e.h.dropLate then
    finish e.h Status.DEADLINE_EXPIRED [] s
  else
    let s := updJournal (fun x => decide (x = e)) (fun x => { x with st := .running (after s 0) }) s
    if late then cmdDeadlineMiss e.h e.src s else s

/-- A takeover that has begun a command has ended its gap: SWITCH_OVER is sent with the gap's length; its EVENT_LTC is the
moment at which the token was taken (R359, R360, R430). -/
def endGap (s : State) : State :=
  match s.anv.takeover, s.anv.token with
  | some (old, beat, taken), some new =>
    let gap := now s - beat.toNat
    let s := { s with anv := { s.anv with takeover := none } }
    let s := wr s Fld.ANV_SWITCH_LAST_GAP_NS (min 0xFFFF gap)
    raiseEventAt (taken.toNat % 2 ^ 48) 5 0xFFF 8
      (packBits [(8, old.num), (8, new.num), (16, 0), (32, min (2 ^ 32 - 1) gap)]) s
  | _, _ => s

/-- COMMAND_BEGIN (R51). -/
def execCommandBegin (t : Ltc) (s : State) : Host.Outcome State Fault Refusal :=
  let s := adv t s
  .next (match nextCommand s with
    | none => s
    | some e => endGap (beginCommand e s))

/-! ### Timers of commands and replies -/

/-- The entry of a (SESSION, SEQ). -/
def entryBy (s : State) (session seq : BitVec 32) : Option JEntry :=
  s.ctl.journal.find? fun e => e.h.session = session && e.h.seq = seq

/-- IN_PROGRESS (R49): a running long command answers every 1 ms. -/
def inProgress (session seq : BitVec 32) (s : State) : State :=
  match entryBy s session seq with
  | none => s
  | some e =>
    match e.st with
    | .running began =>
      if longCmd e.h && decide (began.toNat + us 1000 * (e.interims + 1) ≤ now s) then
        let s := updEntry s e.h fun x => { x with interims := x.interims + 1 }
        answerNow e.src { mkReply s e.h Status.IN_PROGRESS [] with reexec := e.reexec } s
      else s
    | _ => s

/-- IN_PROGRESS. -/
def execInProgress (t : Ltc) (session seq : BitVec 32) (s : State) : Host.Outcome State Fault Refusal :=
  .next (inProgress session seq (adv t s))

/-- A reply waits at a port for room in its replay buffer. -/
def waitsAtPort (s : State) (r : Reply) : Bool := (s.ctl.kA.waiting ++ s.ctl.kB.waiting).any fun x => x.2 = .reply r

/-- An unsent final reply is sent if a port can take it (R36). -/
def retryReply (e : JEntry) (s : State) : State :=
  match e.reply with
  | some r => if !e.unsent || waitsAtPort s r then s else sendReply s e.src e.readyAt r
  | none => s

/-- A packet is the reply to a (SESSION, SEQ). -/
def KPacket.answers (session seq : BitVec 32) : KPacket → Bool
  | .reply r => r.session = session && r.seq = seq
  | .relayed (.reply r _) => r.session = session && r.seq = seq
  | _ => false

/-- The packets that wait at a port and satisfy a test leave on the other one. -/
def moveWaiting (p : KPort) (test : Ltc × KPacket → Bool) (s : State) : State :=
  let l := klink s p
  (l.waiting.filter test).foldl (fun s x => kSend s p.other x.2)
    (setKlink s p { l with waiting := l.waiting.filter fun x => !test x })

/-- The replies to a (SESSION, SEQ) that have waited 1 ms for a port that is not up leave on the other one (R36). -/
def fallBack (session seq : BitVec 32) (p : KPort) (s : State) : State :=
  if portUp s p || !portUp s p.other then s
  else moveWaiting p (fun x => x.2.answers session seq && decide (x.1.toNat + us 1000 ≤ now s)) s

/-- REPLY_PORT_FALLBACK (R36): a reply that waited 1 ms for its port leaves on the other Kaferlink port. -/
def execReplyPortFallback (t : Ltc) (session seq : BitVec 32) (s : State) : Host.Outcome State Fault Refusal :=
  let s := adv t s
  let s := match entryBy s session seq with
    | none => s
    | some e => retryReply e s
  .next (fallBack session seq .b (fallBack session seq .a s))

/-- A relayed command outstanding, by target, SESSION and SEQ; the target of a path-routed one is not known by its ID (R45). -/
def relayOf (s : State) (target : BitVec 12) (session seq : BitVec 32) : Option RelayEntry :=
  s.ctl.relayed.find? fun x =>
    x.h.session = session && x.h.seq = seq && (x.h.pathRouted || x.h.target = target)

/-- What the reply of a relayed command does to its entry (R42). -/
def relayNext (r : Reply) (x : RelayEntry) (s : State) : List RelayEntry :=
  let rest := s.ctl.relayed.filter fun y => y ≠ x
  if r.status.toNat = Status.IN_PROGRESS then rest ++ [{ x with due := after s (us 2000) }] else rest

/-- A reply of a relayed command (R41, R42): an interim one restarts the timer, a final one ends the relay, a late one is
discarded and counted; it goes on with RELAYED set on the port its command arrived on, under the port rule of R36. -/
def relayReply (r : Reply) (tag : BitVec 128) (s : State) : State :=
  match relayOf s r.source r.session r.seq with
  | none => bump s (Fld.KAFER_LINK_STATUS_RELAY_LATE_DROP 0)
  | some x =>
    let s := { s with ctl := { s.ctl with relayed := relayNext r x s } }
    match x.port with
    | .kafer p => kSend s p (.relayed (.reply r tag))
    | _ => s

/-- An event of a relayed part goes on: on port A, or on port B while A alone is not up (R55; the port is log entry 6). -/
def relayEvent (packet : List Byte) (s : State) : State :=
  kSend s (if portUp s .a || !portUp s .b then .a else .b) (.relayed (.event packet))

/-- RELAY_REPLY (R41, R55). -/
def execRelayReply (t : Ltc) (m : RelayMsg) (s : State) : Host.Outcome State Fault Refusal :=
  let s := adv t s
  .next (match m with
    | .reply r tag => relayReply r tag s
    | .event packet => relayEvent packet s)

/-- RELAY_TIMEOUT (R42): the timer expires, the outcome is unknown, the command is forgotten. -/
def execRelayTimeout (t : Ltc) (target : BitVec 12) (session seq : BitVec 32) (s : State) : Host.Outcome State Fault Refusal :=
  let s := adv t s
  .next (match relayOf s target session seq with
    | none => s
    | some x =>
      if x.due.toNat ≤ now s then
        let s := { s with ctl := { s.ctl with relayed := s.ctl.relayed.filter fun y => y ≠ x } }
        answerNow x.port (mkReply s x.h Status.RELAY_TIMEOUT []) s
      else s)

/-- A relayed command's entry is freed (R51). -/
def freeRelayed (session seq : BitVec 32) (s : State) : State :=
  { s with ctl := { s.ctl with journal := s.ctl.journal.filter fun e =>
      !(e.h.session = session && e.h.seq = seq && e.st = .replied && e.sentRelay) } }

/-- REPLY_ACK (R51). -/
def execReplyAck (t : Ltc) (session seq : BitVec 32) (s : State) : Host.Outcome State Fault Refusal :=
  .next (freeRelayed session seq (adv t s))

/-- REPLY_ACK_TIMEOUT (R51): freed 10 ms after the final reply was sent. -/
def execReplyAckTimeout (t : Ltc) (session seq : BitVec 32) (s : State) : Host.Outcome State Fault Refusal :=
  let s := adv t s
  .next (match entryBy s session seq with
    | none => s
    | some e => if e.sentAt.toNat + us 10000 ≤ now s then freeRelayed session seq s else s)

/-- An unacknowledged event whose repetition is due is sent again with REPEAT = 1; one not yet sent is tried, on the other
port once it has waited 1 ms (R36, R55). -/
def eventRepeat (eventSeq : BitVec 32) (s : State) : State :=
  match s.ctl.events.find? fun e => e.seq = eventSeq with
  | none => s
  | some e =>
    let overdue := passed48 s ((e.ltc.toNat + us 1000) % 2 ^ 48)
    if e.sent && decide (now s < e.due.toNat) then s else sendEvent e overdue s

/-- EVENT_REPEAT (R55). -/
def execEventRepeat (t : Ltc) (eventSeq : BitVec 32) (s : State) : Host.Outcome State Fault Refusal :=
  .next (eventRepeat eventSeq (adv t s))

/-! ### Kaferlink ports up and down (R36) -/

/-- A reply held while neither port was up leaves on the first to come up (R36). -/
def takeOver1 (p : KPort) (e : JEntry) (s : State) : State :=
  match e.reply, e.src with
  | some r, .kafer q =>
    if !e.unsent || waitsAtPort s r || portUp s q || portUp s p.other || inGap s then s else kSend s p (.reply r)
  | _, _ => s

/-- What waited for a port to come up leaves (R36, R55): replies and events of its own; and, while the other port is not up,
those that waited for that one. -/
def releaseHeld (p : KPort) (s : State) : State :=
  let alone := !portUp s p.other
  let s := kDrain 512 p s
  let s := s.ctl.journal.foldl (fun s e => takeOver1 p e s) s
  let s := s.ctl.journal.foldl (fun s e => retryReply e s) s
  let s := if alone then moveWaiting p.other (fun _ => true) s else s
  flushOn alone s

/-- KAFERLINK_LINK_UP (R36, R39): the port comes up, unacknowledged frames are sent again, and what was held leaves. -/
def execKaferlinkLinkUp (t : Ltc) (p : KPort) (s : State) : Host.Outcome State Fault Refusal :=
  let s := adv t s
  let old := rd s (Fld.KAFER_LINK_STATUS_STATE p.num)
  .next (if old = 2 then s
    else
      let s := wr (wr s (Fld.KAFER_LINK_STATUS_STATE p.num) 2) (Fld.KAFER_LINK_STATUS_SIGNAL p.num) 1
      let s := linkStateEvent true p.num old 2 0 s
      let l := klink s p
      let s := setKlink s p { l with ackAt := after s 0 }
      releaseHeld p (emitAll (l.unacked.map fun x => .frame p (dataFrame l x)) s))

/-- KAFERLINK_LINK_LOSS (R36): the port goes down; replies wait for the other port. -/
def execKaferlinkLinkLoss (t : Ltc) (p : KPort) (s : State) : Host.Outcome State Fault Refusal :=
  let s := adv t s
  let old := rd s (Fld.KAFER_LINK_STATUS_STATE p.num)
  .next (if old = 0 then s
    else
      let s := wr (wr s (Fld.KAFER_LINK_STATUS_STATE p.num) 0) (Fld.KAFER_LINK_STATUS_SIGNAL p.num) 0
      linkStateEvent true p.num old 0 0 s)

end Sys2Proof.Machine
end

