-- ==== Sys2Proof/Machine/Bch.lean ====
section
/-! DEFINITION. The double-error-correcting BCH code over GF(2^7) that guards every stored word (R241-R243). -/

namespace Sys2Proof.Machine

/-- Multiplication by α in GF(2^7), whose polynomial is x^7 + x^3 + 1 (R241). -/
def gfDouble (a : Nat) : Nat := if bitAt a 6 then (2 * a) ^^^ 0x89 else 2 * a

/-- The product of two elements, over the low n bits of the second. -/
def gfMulBits : Nat → Nat → Nat → Nat
  | 0, _, _ => 0
  | n + 1, a, b => (if b % 2 = 1 then a else 0) ^^^ gfMulBits n (gfDouble a) (b / 2)

/-- The product of two elements of GF(2^7). -/
def gfMul (a b : Nat) : Nat := gfMulBits 7 a b

/-- The cube of an element. -/
def gfCube (a : Nat) : Nat := gfMul a (gfMul a a)

/-- (i, α^i) for n positions from position i with power x. -/
def alphasFrom : Nat → Nat → Nat → List (Nat × Nat)
  | 0, _, _ => []
  | n + 1, i, x => (i, x) :: alphasFrom n (i + 1) (gfDouble x)

/-- The powers of α at positions 0..126. -/
def alphas : List (Nat × Nat) := alphasFrom 127 0 1

/-- The syndromes S1 and S3 of a bit pattern over positions 0..126 (R241). -/
def syndromes (c : Nat) : Nat × Nat :=
  alphas.foldl (fun acc p => if bitAt c p.1 then (acc.1 ^^^ p.2, acc.2 ^^^ gfCube p.2) else acc) (0, 0)

/-- The position whose power of α is x. -/
def positionOf (x : Nat) : Option Nat := (alphas.find? fun p => p.2 = x).map (·.1)

/-- Two positions whose powers have the given syndromes. -/
def locateTwo (s1 s3 : Nat) : Option (List Nat) :=
  alphas.findSome? fun p =>
    let y := s1 ^^^ p.2
    if y ≠ 0 && (gfCube p.2 ^^^ gfCube y) = s3 then
      match positionOf y with
      | some j => if p.1 < j then some [p.1, j] else none
      | none => none
    else none

/-- The error positions a decoder locates; none when no one or two positions give the syndromes. -/
def locate (s1 s3 : Nat) : Option (List Nat) :=
  if s1 = 0 && s3 = 0 then some []
  else if s1 ≠ 0 && gfCube s1 = s3 then (positionOf s1).map fun p => [p]
  else if s1 = 0 then none
  else locateTwo s1 s3

/-- What a decoder makes of a word (R243), numbered as ECC_TEST_STATUS.OUTCOME (R258). -/
inductive Outcome where
  | clean
  | single
  | double
  | poison
  | uncorrectable
  deriving DecidableEq, Repr

/-- The number of an outcome. -/
def Outcome.num : Outcome → Nat
  | .clean => 0
  | .single => 1
  | .double => 2
  | .poison => 3
  | .uncorrectable => 4

/-- A decoder's result: the outcome and the positions located. -/
structure Decoded where
  outcome : Outcome
  pos : List Nat
  deriving DecidableEq, Repr

/-- The virtual position of poison (R241). -/
def poisonPos : Nat := 126

/-- Classifies located positions where positions 0..used − 1 are stored (R243). -/
def classify (used : Nat) (ps : List Nat) : Outcome :=
  match ps with
  | [] => .clean
  | [p] => if p < used then .single else if p = poisonPos then .poison else .uncorrectable
  | [p, q] =>
    if p < used && q < used then .double
    else if p < used && q = poisonPos then .poison
    else .uncorrectable
  | _ => .uncorrectable

/-- The decoder (R243). The syndromes of a stored word are those of the pattern by which it differs from a codeword. -/
def decodeWord (used e : Nat) : Decoded :=
  if e = 0 then ⟨.clean, []⟩
  else
    match locate (syndromes e).1 (syndromes e).2 with
    | none => ⟨.uncorrectable, []⟩
    | some ps => ⟨classify used ps, ps⟩

/-- One step of the remainder by the generator of degree 14, x^14 + x^9 + x^8 + x^6 + x^5 + x^4 + x^2 + x + 1. -/
def bchStep (r : Nat) (b : Bool) : Nat :=
  let top := bitAt r 13 != b
  let r2 := 2 * r % 2 ^ 14
  if top then r2 ^^^ 0x377 else r2

/-- The check bits of data and metadata: x holds data bits 0..63 and metadata bits 64..65 (R241). -/
def checkBits (x : Nat) : Nat :=
  (List.range 66).reverse.foldl (fun r i => bchStep r (bitAt x i)) 0

/-- The codeword of data and metadata: check bits 0..13, then data, then metadata (R241). -/
def codeword (x : Nat) : Nat := checkBits x + 2 ^ 14 * x

/-- The pattern of poison over data that is right: the check bits of a word whose position 126 also held 1 (R242). -/
def poisonPattern : Nat := 0x21BB

/-- The pattern with the located used positions put right (R243). -/
def correctPattern (used e : Nat) (ps : List Nat) : Nat :=
  ps.foldl (fun e p => if p < used then e ^^^ 2 ^ p else e) e

/-- The pattern of a word written as poison over its data as read (R242, R244): the wrong data bits stay. -/
def poisonOver (e : Nat) : Nat :=
  let x := e / 2 ^ 14
  codeword x ^^^ poisonPattern

/-- The pattern of a word marked poisoned or not. -/
def patternOf (poisoned : Bool) : Nat := if poisoned then poisonPattern else 0

end Sys2Proof.Machine
end

