-- ==== Sys2Proof/Machine/Operands.lean ====
section
/-! DEFINITION. Operand forms: hall addresses (R99), the interleave of local and far addresses (R68-R73), ingots and the
granules they cover (R101, R128), page-table entries (R109), and SRAM locations (R431). -/

namespace Sys2Proof.Machine

/-- 1 GiB and 2 MiB. -/
def gib : Nat := 2 ^ 30
def mib2 : Nat := 2 ^ 21

/-! ### Local addresses (R68-R70) -/

/-- Granules of stack memory: 768, or 384 on the TR-6. -/
def granules (s : State) : Nat := 384 * dies s

/-- Bytes of stack memory (R68). -/
def stackBytes (s : State) : Nat := granules s * gib

/-- The bit position g of a grain code, where it interleaves (R68). -/
def grainBit (code : Nat) : Option Nat :=
  match code with
  | 1 => some 12
  | 2 => some 16
  | 3 => some 21
  | _ => none

/-- The grain in force. -/
def grain (s : State) : Nat := rd s Fld.MEM_CONFIG_GRAIN

/-- Home die and die-local address of a local address (R68). -/
def homeOf (s : State) (la : Nat) : Nat × Nat :=
  match s.variant with
  | .tr6 => (0, la)
  | .tr12 =>
    match grainBit (grain s) with
    | some g =>
      ((bitsOf la g 1 + parity 10 (bitsOf la 30 10)) % 2, la / 2 ^ (g + 1) * 2 ^ g + la % 2 ^ g)
    | none => if la < 384 * gib then (0, la) else (1, la - 384 * gib)

/-- Where a local address lies (R69, R70). -/
structure Place where
  die : Nat
  stack : Nat
  pc : Nat
  pco : Nat
  deriving DecidableEq, Repr

/-- The stack, pseudo-channel and offset of a local address (R69). -/
def placeOf (s : State) (la : Nat) : Place :=
  let d := homeOf s la
  let k := d.2 / 256
  let q := k / 192
  let p := (k + 7 * q) % 192
  { die := d.1, stack := 6 * d.1 + p / 32, pc := p % 32, pco := q * 256 + d.2 % 256 }

/-- The pseudo-channel number 0..383 of a place (R410). -/
def Place.unit (p : Place) : Nat := 32 * p.stack + p.pc

/-- Bank group, bank and row of an offset in a pseudo-channel (R70), banks numbered group × 4 + bank. -/
def bankOf (pco : Nat) : Nat :=
  (bitsOf pco 10 4 ^^^ bitsOf pco 16 4) * 4 + (bitsOf pco 14 2 ^^^ bitsOf pco 20 2)

/-- The row of an offset in a pseudo-channel. -/
def rowOf (pco : Nat) : Nat := bitsOf pco 16 15

/-- The refresh segment of an offset (R80). -/
def segmentOf (pco : Nat) : Nat := bitsOf pco 28 3

/-! ### Far addresses (R71-R74) -/

/-- Populated channels, bytes of a DIMM and of the far tier. -/
def farChannels (s : State) : Nat := rd s Fld.MEM_CONFIG_FAR_CHANNELS
def dimmBytes (s : State) : Nat := rd s Fld.MEM_CONFIG_FAR_DIMM_GIB * gib
def farBytes (s : State) : Nat := farChannels s * dimmBytes s

/-- Far frames; the last is reserved (R74). -/
def farFrames (s : State) : Nat := farBytes s / mib2

/-- The DDR channel of a far address (R73). -/
def farChannelOf (s : State) (fa : Nat) : Nat :=
  let n := farChannels s
  let k := fa / 256
  let i := (k + 5 * (k / n)) % n
  if n = 6 then (if i < 3 then i else i + 3) else i

/-- The offset within its channel of a far address (R73). -/
def farOffsetOf (s : State) (fa : Nat) : Nat := fa / 256 / farChannels s * 256 + fa % 256

/-- The refresh segment of a far address (R80). -/
def farSegmentOf (s : State) (fa : Nat) : Nat := fa / max 1 (farBytes s / 8)

/-- A DDR channel is on F1 (R71). -/
def farOnF1 (ch : Nat) : Bool := decide (6 ≤ ch)

/-! ### The directory reserve and ingots (R101-R103, R128) -/

/-- First granule and granules of the reserve as XLT_CONFIG shows them (R128). -/
def reserveShown (s : State) : Nat × Nat :=
  match s.variant with
  | .tr6 => (376, 8)
  | .tr12 => if (grainBit (grain s)).isSome then (752, 16) else (376, 8)

/-- A granule belongs to the directory reserve (R128). -/
def inReserve (s : State) (g : Nat) : Bool :=
  match s.variant with
  | .tr6 => decide (376 ≤ g ∧ g < 384)
  | .tr12 =>
    if (grainBit (grain s)).isSome then decide (752 ≤ g ∧ g < 768)
    else decide ((376 ≤ g ∧ g < 384) ∨ (760 ≤ g ∧ g < 768))

/-- An ingot covers a granule. -/
def Ingot.covers (i : Ingot) (g : Nat) : Bool :=
  decide (i.base.toNat ≤ g ∧ g < i.base.toNat + i.count.toNat)

/-- The ingot that covers a granule, being released or not. -/
def ingotAt (s : State) (g : Nat) : Option Ingot := s.mem.ingots.vals.find? (·.covers g)

/-- The tenant whose share of a divided resource a stack line counts against (R351): that of its ingot, or of the page promoted into its
frame; 1024 for a line of no tenant (log entry 58). -/
def lineTenant (s : State) (ln : Nat) : Nat :=
  match s.mem.promoted.find (64 * ln / 2 ^ 21) with
  | some t => t.toNat
  | none =>
    match ingotAt s (64 * ln / 2 ^ 30) with
    | some i => if i.kind.toNat ≤ 1 then i.tenant.toNat else 1024
    | none => 1024

/-- A sector region of MEM_SECTOR_REGION n is in use: VALID and no CONFLICT (R81, R98). -/
def regionLive (s : State) (n : Nat) : Bool :=
  rdb s (Fld.MEM_SECTOR_REGION_VALID n) && !rdb s (Fld.MEM_SECTOR_REGION_CONFLICT n)

/-- The tier, first byte and size in GiB of a sector region. -/
def regionTier (s : State) (n : Nat) : Nat := rd s (Fld.MEM_SECTOR_REGION_TIER n)
def regionBase (s : State) (n : Nat) : Nat := rd s (Fld.MEM_SECTOR_REGION_BASE_GIB n)
def regionSize (s : State) (n : Nat) : Nat := rd s (Fld.MEM_SECTOR_REGION_SIZE_GIB n)

/-- A live sector region covers a granule of a tier. -/
def regionCovers (s : State) (tier g n : Nat) : Bool :=
  regionLive s n && regionTier s n = tier && decide (regionBase s n ≤ g ∧ g < regionBase s n + regionSize s n)

/-- Some live sector region covers a granule of a tier. -/
def inRegion (s : State) (tier g : Nat) : Bool := (List.range 8).any (regionCovers s tier g)

/-- What the check of R103 finds at a local address. -/
inductive Owner where
  | tenantData (t : Nat)
  | sharedRead (writer : Nat)
  | platform
  | promoted (t : Nat)
  | releasing
  | none
  deriving DecidableEq, Repr

/-- The owner of a granule by its ingot. -/
def Ingot.owner (i : Ingot) : Owner :=
  if i.releasing.isSome then .releasing
  else if i.kind = 0 then .tenantData i.tenant.toNat
  else if i.kind = 1 then .sharedRead i.tenant.toNat
  else .platform

/-- Who owns the memory at a local address, for the check of R103. -/
def ownerOf (s : State) (la : Nat) : Owner :=
  if stackBytes s ≤ la then .none
  else
    match s.mem.promoted.find (la / mib2) with
    | some t => .promoted t.toNat
    | none =>
      match ingotAt s (la / gib) with
      | some i => i.owner
      | none => .none

/-- The check of R103: tenant t may read (or write) at an owner's memory. -/
def Owner.allows (o : Owner) (t : Nat) (write : Bool) : Bool :=
  match o with
  | .tenantData u => t = u
  | .sharedRead u => !write || t = u
  | .promoted u => t = u
  | _ => false

/-- R103 at a local address. -/
def accessAllowed (s : State) (t la : Nat) (write : Bool) : Bool := (ownerOf s la).allows t write

/-- A local address lies in a KIND 2 ingot (R101, R107). -/
def inPlatform (s : State) (la : Nat) : Bool := ownerOf s la = .platform

/-! ### Page-table entries (R109) -/

/-- The fields of a page-table entry. -/
structure Pte where
  v : Bool
  w : Bool
  leaf : Bool
  huge32 : Bool
  tier : Nat
  rsv : Bool
  node : Nat
  addr : Nat
  deriving DecidableEq, Repr

/-- An entry unpacked; ADDR becomes a byte address. -/
def pteOf (x : Nat) : Pte :=
  { v := bitAt x 0, w := bitAt x 1, leaf := bitAt x 2, huge32 := bitAt x 3, tier := bitsOf x 4 3, rsv := bitAt x 7,
    node := bitsOf x 8 12, addr := bitsOf x 20 44 * 4096 }

/-- An entry with another tier and address, its other bits kept (R90, R91). -/
def ptePlace (x tier addr : Nat) : Nat := putBits (putBits x 4 3 tier) 20 44 (addr / 4096)

/-! ### Hall addresses (R99, R100) -/

/-- The node address and node of a hall address. -/
def hallAddr (h : Nat) : Nat := bitsOf h 0 44
def hallNode (h : Nat) : Nat := bitsOf h 44 12

/-- The doorbell window of the node address space (R100). -/
def inDoorbells (a : Nat) : Bool := decide (2 ^ 43 ≤ a ∧ a < 2 ^ 43 + 2 ^ 24)

/-! ### SRAM locations (R236, R246, R431) -/

/-- An SRAM location: byte offset, structure, die, tile (R431). -/
def sramLoc (offset struct die tile : Nat) : Nat := packBits [(32, offset), (4, struct), (2, die), (8, tile)]

/-- The parts of an SRAM location. -/
def sramOffset (l : Nat) : Nat := bitsOf l 0 32
def sramStruct (l : Nat) : Nat := bitsOf l 32 4
def sramDie (l : Nat) : Nat := bitsOf l 36 2
def sramTile (l : Nat) : Nat := bitsOf l 38 8

/-- The secure region is the lowest 4 MiB of a die's scratch (R236). -/
def secureBytes : Nat := 0x400000

/-- The reporting region of an SRAM location (R246). -/
def sramRegion (l : Nat) : Nat :=
  match sramStruct l with
  | 0 => 128 * sramDie l + sramTile l
  | 1 => if sramOffset l < secureBytes then 258 + sramDie l else 256 + sramDie l
  | 2 => 260 + sramDie l
  | 3 => 260 + sramDie l
  | 4 => 260 + sramDie l
  | _ => 286 + (sramDie l - 2)

end Sys2Proof.Machine
end

