-- ==== Sys2Proof/Machine/Layout.lean ====
section
/-! DEFINITION. What the memory of the part's own structures holds: the directory in its reserve (R129), the bitmap and tag bits
of the reserved far frame (R74, R333), sector bitmaps and page maps (R81, R82), and the shared-scratch words of sequence contexts,
access counters and fault queues (R94, R118, R187, R236). The tables of State are these structures; their words are computed
from the tables (log entry 43). -/

namespace Sys2Proof.Machine

/-- The arrays that hold encoded words. -/
inductive Arr where
  | stack
  | far
  | sram
  deriving DecidableEq, Repr

/-- Key of a run of sectors in the tables: tier and sector. -/
def secKey (tier sector : Nat) : Nat := 2 ^ 40 * tier + sector

/-- A number of n bits whose bit i is p i. -/
def maskOf (n : Nat) (p : Nat → Bool) : Nat := (List.range n).foldl (fun x i => x + b2n (p i) * 2 ^ i) 0

/-! ### Key generations of items (R336, R337) -/

/-- Item numbers of far frames and compressed units in a sweep. -/
def farItem (frame : Nat) : Nat := 2 ^ 24 + frame
def unitItem (tier sector : Nat) : Nat := 2 ^ 40 + 2 ^ 38 * tier + sector

/-- An item is still tagged with the old generation. -/
def Sweep.isOld (w : Sweep) (item : Nat) : Bool := !(w.fresh.any fun r => decide (r.1 ≤ item ∧ item < r.2))

/-- The generation an item of a tenant is tagged with. -/
def itemGen (s : State) (t item : Nat) : Nat :=
  match s.sec.tenants.find t with
  | none => 0
  | some x =>
    match x.sweep with
    | some w => if w.isOld item then w.gen.toNat else x.keyGen.toNat
    | none => x.keyGen.toNat

/-! ### The reserved far frame (R74, R333) -/

/-- The reserved far frame of a far tier in use. -/
def inReservedFrame (s : State) (fa : Nat) : Bool :=
  rd s Fld.MEM_CONFIG_FAR_STATE = 2 && fa / mib2 + 1 = farFrames s

/-- A far frame is allocated: it holds a page, or lies in a sector region (log entry 24). -/
def farFrameUsed (s : State) (f : Nat) : Bool := (s.mem.farUsed.find f).isSome || inRegion s 1 (f / 512)

/-- The tag bit of a far frame: the low bit of its generation. -/
def farTag (s : State) (f : Nat) : Bool :=
  match s.mem.farUsed.find f with
  | some x => bitAt (itemGen s x.1.toNat (farItem f)) 0
  | none => false

/-- The word at an offset of the reserved far frame: the bitmap, one bit per frame, and the tag bits. -/
def reservedWord (s : State) (o : Nat) : Option Nat :=
  if o < 0x60000 then some (maskOf 64 fun i => farFrameUsed s (8 * o + i))
  else if 0x80000 ≤ o && o < 0xE0000 then some (maskOf 64 fun i => farTag s (8 * (o - 0x80000) + i))
  else none

/-! ### Sector regions (R81, R82) -/

/-- A byte of a sector region's bitmap (R81). -/
def inBitmap (s : State) (tier la : Nat) : Bool :=
  (List.range 8).any fun n =>
    regionCovers s tier (la / gib) n && decide (la - regionBase s n * gib < regionSize s n * 2 ^ 18)

/-- A sector is in use: a bitmap's own, or one of a run. -/
def sectorUsed (s : State) (tier sector : Nat) : Bool :=
  inBitmap s tier (512 * sector) ||
    s.mem.runs.any fun e => decide (e.1 ≤ secKey tier sector ∧ secKey tier sector < e.1 + e.2)

/-- The word of a sector bitmap at an address: one bit for each 512-byte sector of its region. -/
def bitmapWord (s : State) (tier la : Nat) : Nat :=
  match (List.range 8).find? (regionCovers s tier (la / gib)) with
  | none => 0
  | some n =>
    let base := regionBase s n * gib
    maskOf 64 fun i => sectorUsed s tier (base / 512 + 8 * (la - base) + i)

/-- A page-map entry (R82). -/
def unitWord (u : UnitEntry) : Nat :=
  packBits [(4, u.sectors), (2, u.codec), (2, 0), (38, u.sector), (1, u.tier), (1, 0), (16, u.gen.toNat)]

/-- The page map whose 8 sectors hold an address, with its first sector. -/
def mapAt (s : State) (tier la : Nat) : Option (Nat × PageMap) :=
  s.mem.maps.find? fun e => decide (e.1 ≤ secKey tier (la / 512) ∧ secKey tier (la / 512) < e.1 + 8)

/-- The word of a sector region at an address, where it belongs to the bitmap or to a page map. -/
def regionWord (s : State) (tier la : Nat) : Option Nat :=
  if !inRegion s tier (la / gib) then none
  else if inBitmap s tier la then some (bitmapWord s tier la)
  else
    match mapAt s tier la with
    | some (k, m) => some (match m.units[(la - 512 * (k - secKey tier 0)) / 8]? with | some u => unitWord u | none => 0)
    | none => none

/-! ### The directory reserve (R128, R129, R401) -/

/-- Phase B7 has written the directory reserve. -/
def reserveWritten (s : State) : Bool := bitAt (rd s Fld.RST_STATUS_PHASES) 6

/-- The 256 bits of a directory entry of line number n of its die. -/
def dirBits (n : Nat) (e : DirEntry) : Nat :=
  packBits [(2, if e.owned then 2 else 1), (1, b2n e.coarse), (4, if e.coarse then 0 else e.ptrs.length), (1, 0), (33, n), (23, 0),
    (112, packBits (e.ptrs.map fun a => (14, a.toNat))), (16, 0), (64, e.groups.toNat)]

/-- The slot of the directory at an address of the reserve: die × 2^28 + 16 × set + way. -/
def slotAt (s : State) (la : Nat) : Nat :=
  let h := homeOf s la
  h.1 * 2 ^ 28 + (h.2 - 376 * gib) / 32

/-- The word of the directory at an address of the reserve. -/
def dirWord (s : State) (la : Nat) : Nat :=
  match s.coh.stored.find (slotAt s la) with
  | none => 0
  | some (ln, e) => bitsOf (dirBits ((homeOf s (64 * ln)).2 / 64) e) (64 * ((homeOf s la).2 % 32 / 8)) 64

/-! ### Words and lines -/

/-- The word of stack or far memory at an address, where it belongs to one of the part's structures. -/
def ownWord (s : State) (a : Arr) (addr : Nat) : Option Nat :=
  match a with
  | .stack =>
    if inReserve s (addr / gib) then (if reserveWritten s then some (dirWord s addr) else none) else regionWord s 0 addr
  | .far => if inReservedFrame s addr then reservedWord s (addr % mib2) else regionWord s 1 addr
  | .sram => none

/-- The 528 bits of a line of one of the part's structures: its metadata bits are 0 (log entry 43). -/
def ownLine (s : State) (a : Arr) (ln : Nat) : Option Nat :=
  if (ownWord s a (64 * ln)).isNone then none
  else some ((List.range 8).foldl (fun x i => x + ((ownWord s a (64 * ln + 8 * i)).getD 0) * 2 ^ (64 * i)) 0)

/-- A line is held under the platform key from the start: one of the part's structures, or the reserved far frame (R333, R401). -/
def ownKeyed (s : State) (a : Arr) (ln : Nat) : Bool :=
  (ownWord s a (64 * ln)).isSome || (a = .far && inReservedFrame s (64 * ln))

/-! ### Shared scratch (R94, R118, R187, R236) -/

/-- The die and index of the access counter of a 2 MiB page: on the die that homes its first byte (R94). -/
def hotPlace (s : State) (page : Nat) : Nat × Nat :=
  let h := homeOf s (page * mib2)
  if s.variant = .tr12 && (grain s = 1 || grain s = 2) then (h.1, page / 1024 * 512 + page % 512) else (h.1, h.2 / mib2)

/-- The page whose access counter is entry i of a die. -/
def hotPageAt (s : State) (die i : Nat) : Option Nat :=
  [i, i + 196608, 2 * i, 2 * i + 1, i / 512 * 1024 + i % 512, i / 512 * 1024 + 512 + i % 512].find? fun p =>
    decide (hotPlace s p = (die, i))

/-- An access-counter entry from its fields (R94). -/
def hotEntry (count stamp : Nat) (reported multi : Bool) (src : Nat) : Nat :=
  packBits [(16, count), (4, stamp), (1, b2n reported), (1, b2n multi), (10, 0), (12, src)]

/-- The epoch number. -/
def hotEpochNo (s : State) : Nat := rd s Fld.MEM_HOT_STATUS_EPOCH

/-- The access counter of a page: one no cell has touched has been halved at every boundary (R94, R95). -/
def hotAtPage (s : State) (page : Nat) : Nat :=
  match s.mem.hot.find page with
  | some e => e.toNat
  | none => hotEntry 0 (hotEpochNo s) false false 0

/-- The word of a die's shared scratch at an offset, where it belongs to a structure whose layout the manual gives. -/
def scratchWord (s : State) (die o : Nat) : Option Nat :=
  if 0x400000 ≤ o && o < 0x500000 then
    (s.cru.ctxs.find (1024 * die + (o - 0x400000) / 1024)).map fun c => bitsOf c.desc.toNat (8 * (o % 1024)) 64
  else if 0x500000 ≤ o && o < 0x680000 then
    some (match hotPageAt s die ((o - 0x500000) / 8) with | some p => hotAtPage s p | none => 0)
  else if 0x680000 ≤ o && o < 0x6C0000 then
    ((s.xlt.fq.find die).bind fun q => q.slots.find ((o - 0x680000) / 64)).map fun e => bitsOf e.toNat (8 * (o % 64)) 64
  else none

/-- The 64 data bits of an SRAM word. -/
def sramWord (s : State) (loc : Nat) : Option Nat := if sramStruct loc = 1 then scratchWord s (sramDie loc) (sramOffset loc) else none

end Sys2Proof.Machine
end

