-- ==== Sys2Proof/Machine/Store.lean ====
section
/-! DEFINITION. Stored lines and words: encryption by key (R333), decoding with correction and write-back (R243, R244, R334),
leaky buckets (R247), masked writes (R67) and raw access (R249). -/

namespace Sys2Proof.Machine

/-- The store of an array. -/
def storeOf (s : State) : Arr → Store
  | .stack => s.mem.stack
  | .far => s.mem.far
  | .sram => s.mem.sram

/-- Replaces the store of an array. -/
def setStore (a : Arr) (st : Store) (s : State) : State :=
  match a with
  | .stack => { s with mem := { s.mem with stack := st } }
  | .far => { s with mem := { s.mem with far := st } }
  | .sram => { s with mem := { s.mem with sram := st } }

/-! ### Bytes and words of a store -/

/-- One byte of an array. -/
def Store.byte (st : Store) (a : Nat) : Byte := Tab.get 0 st.bytes a

/-- One byte written. -/
def Store.putByte (st : Store) (a : Nat) (b : Byte) : Store := { st with bytes := Tab.set 0 st.bytes a b }

/-- n bytes from an address, as a little-endian number (R5). -/
def Store.num (st : Store) (a : Nat) : Nat → Nat
  | 0 => 0
  | n + 1 => (st.byte a).toNat + 256 * st.num (a + 1) n

/-- n low bytes of x written from an address. -/
def Store.putNum (st : Store) (a : Nat) : Nat → Nat → Store
  | 0, _ => st
  | n + 1, x => (st.putByte a (BitVec.ofNat 8 x)).putNum (a + 1) n (x / 256)

/-- The metadata bits of word w. -/
def Store.metaOf (st : Store) (w : Nat) : Nat := (Tab.get 0 st.metas w).toNat

/-- The pattern of word w. -/
def Store.errOf (st : Store) (w : Nat) : Nat := (Tab.get 0 st.errs w).toNat

/-- The tag of a line. -/
def Store.tagOf (st : Store) (ln : Nat) : Nat := Tab.get 0 st.tags ln

/-- Word w gets data, metadata and a pattern. -/
def Store.putWord (st : Store) (w data md err : Nat) : Store :=
  let st := st.putNum (8 * w) 8 data
  { st with metas := Tab.set 0 st.metas w (BitVec.ofNat 2 md), errs := Tab.set 0 st.errs w (BitVec.ofNat 80 err) }

/-- The metadata bits of n words from word w. -/
def Store.metaNum (st : Store) (w : Nat) : Nat → Nat
  | 0 => 0
  | n + 1 => st.metaOf w + 4 * st.metaNum (w + 1) n

/-- The 528 bits of a line: 64 data bytes, then 16 metadata bits in word order (R333). -/
def Store.lineBits (st : Store) (ln : Nat) : Nat := st.num (64 * ln) 64 + 2 ^ 512 * st.metaNum (8 * ln) 8

/-- Word i of 528 bits: its data and its metadata. -/
def wordData (x i : Nat) : Nat := bitsOf x (64 * i) 64
def wordMeta (x i : Nat) : Nat := bitsOf x (512 + 2 * i) 2

/-- A line gets 528 bits, eight patterns and a tag. -/
def Store.putLine (st : Store) (ln x : Nat) (pats : List Nat) (tag : Nat) : Store :=
  let st := (List.range 8).foldl (fun st i => st.putWord (8 * ln + i) (wordData x i) (wordMeta x i) (pats.getD i 0)) st
  { st with tags := Tab.set 0 st.tags ln tag }

/-- Raw zeros with valid check bits over the lines lo..hi − 1: nothing is listed (R80, R105). -/
def Store.zero (st : Store) (lo hi : Nat) : Store :=
  { bytes := Tab.keep st.bytes fun a _ => !(decide (64 * lo ≤ a ∧ a < 64 * hi))
    metas := st.metas.keep fun w _ => !(decide (8 * lo ≤ w ∧ w < 8 * hi))
    errs := st.errs.keep fun w _ => !(decide (8 * lo ≤ w ∧ w < 8 * hi))
    tags := st.tags.keep fun l _ => !(decide (lo ≤ l ∧ l < hi)) }

/-- The canonical form of a store: addresses rise strictly, and nothing listed equals what an unlisted place reads as. -/
def Store.wf (st : Store) : Bool :=
  Tab.canonical 0 st.bytes && Tab.canonical 0 st.metas && Tab.canonical 0 st.errs && Tab.canonical 0 st.tags

/-- The canonical form of the memory arrays. -/
def Memory.wf (m : Mem) : Bool := m.stack.wf && m.far.wf && m.sram.wf

/-! ### Keys (R333, R335, R337) -/

/-- The key a line is read or written under. -/
inductive KeyRes where
  | raw
  | key (n : Nat)
  | lost
  deriving DecidableEq, Repr

/-- Line i of an item is still under the old key: not behind the sweep's pointer (R337). -/
def Tenant.oldAt (t : Tenant) (item i : Nat) : Option Sweep :=
  match t.sweep with
  | none => none
  | some w => if w.isOld item && decide (w.ptrs.get 0 item ≤ i) then some w else none

/-- The key of line i of an item of a tenant, unless it is lost. -/
def Tenant.keyAt (t : Tenant) (item i : Nat) : KeyRes :=
  match t.oldAt item i with
  | some w => if w.oldLost then .lost else .key w.key
  | none => if t.keyLost then .lost else .key t.key

/-- A tenant's key for line i of an item; lost once it is lost or the part was tampered with (R335, R348). -/
def tenantKey (s : State) (t item i : Nat) : KeyRes :=
  if s.sec.tampered then .lost
  else
    match s.sec.tenants.find t with
    | none => .lost
    | some te => te.keyAt item i

/-- The platform key. -/
def platformKey (s : State) : KeyRes := if s.sec.tampered then .lost else .key s.sec.platformKey

/-- The tag of a line: the key it was last written under, the platform key for the lines of the part's own structures. -/
def heldTag (s : State) (a : Arr) (ln : Nat) : Nat :=
  if ownKeyed s a ln then s.sec.platformKey + 1 else (storeOf s a).tagOf ln

/-- The key under which a line was last written, which its mover presents again. -/
def heldKey (s : State) (a : Arr) (ln : Nat) : KeyRes :=
  match heldTag s a ln with
  | 0 => .raw
  | n + 1 => if s.sec.tampered then .lost else .key n

/-- The key of a line of stack memory (R333). -/
def stackKey (s : State) (ln : Nat) : KeyRes :=
  let la := 64 * ln
  let frame := la / mib2
  let i := la % mib2 / 64
  match s.mem.promoted.find frame with
  | some t => tenantKey s t.toNat frame i
  | none =>
    match ingotAt s (la / gib) with
    | some g => if g.kind = 2 then platformKey s else tenantKey s g.tenant.toNat frame i
    | none =>
      if inReserve s (la / gib) then platformKey s
      else if inRegion s 0 (la / gib) then (if ownKeyed s .stack ln then platformKey s else heldKey s .stack ln)
      else .raw

/-- The key of a line of the far tier (R333). -/
def farKey (s : State) (ln : Nat) : KeyRes :=
  let fa := 64 * ln
  if fa / mib2 + 1 = farFrames s || ownKeyed s .far ln then platformKey s else heldKey s .far ln

/-- The key of a line of an array; SRAM is not encrypted. -/
def keyOf (s : State) (a : Arr) (ln : Nat) : KeyRes :=
  match a with
  | .stack => stackKey s ln
  | .far => farKey s ln
  | .sram => .raw

/-! ### Lost segments (R80) -/

/-- A granule of stack memory meets a segment of a die (R80). -/
def granuleInSegment (s : State) (die seg g : Nat) : Bool :=
  match s.variant with
  | .tr6 => die = 0 && g / 48 = seg
  | .tr12 =>
    if (grainBit (grain s)).isSome then g / 96 = seg else g / 384 = die && g % 384 / 48 = seg

/-- A far frame lies in a segment of the far tier. -/
def farFrameInSegment (s : State) (seg f : Nat) : Bool := farSegmentOf s (f * mib2) = seg

/-- A stack granule holds something that must be kept: a mapped ingot, the reserve, a sector region, a landing or promoted
frame (R80). -/
def granuleHolds (s : State) (g : Nat) : Bool :=
  (ingotAt s g).isSome || inReserve s g || inRegion s 0 g || s.mem.landing.any (fun f => f.toNat / 512 = g) ||
    s.mem.promoted.keys.any (fun f => f / 512 = g)

/-- Segment bit b of MEM_REFRESH_CTRL (0..7 C0, 8..15 C1, 16..23 far tier) holds data (R80). -/
def segmentHolds (s : State) (b : Nat) : Bool :=
  if b < 16 then (List.range (granules s)).any fun g => granuleInSegment s (b / 8) (b % 8) g && granuleHolds s g
  else
    let seg := b - 16
    farFrameInSegment s seg (farFrames s - 1) || s.mem.farUsed.keys.any (farFrameInSegment s seg) ||
      (List.range (farBytes s / gib)).any (fun g => inRegion s 1 g && farSegmentOf s (g * gib) = seg)

/-- The mask bits of MEM_REFRESH_CTRL as written. -/
def refreshMask (s : State) : Nat := bitsOf (regGet s Reg.MEM_REFRESH_CTRL.base) 16 24

/-- MEM_REFRESH_CTRL.PASR_IGNORED: mask bits set whose segment holds data (R80). -/
def pasrIgnored (s : State) : Nat :=
  (List.range 24).foldl (fun x b => x + b2n (bitAt (refreshMask s) b && segmentHolds s b) * 2 ^ b) 0

/-- The number of the loss that took a stack line's contents, when nothing zeroed its granule since. -/
def lossOf (s : State) (a : Arr) (ln : Nat) : Option Nat :=
  let (k, g) := match a with
    | .stack => let p := placeOf s (64 * ln); (8 * p.unit + segmentOf p.pco, 64 * ln / gib)
    | .far => (8 * (384 + farChannelOf s (64 * ln)) + farSegmentOf s (64 * ln), 2 ^ 20 + 64 * ln / mib2)
    | .sram => (2 ^ 20, 2 ^ 40)
  match s.mem.lost.find k with
  | none => none
  | some n => if s.mem.zeroed.get 0 g < n then some n else none

/-- The bits a line holds. -/
def heldBits (s : State) (a : Arr) (ln : Nat) : Nat :=
  match lossOf s a ln with
  | some n => Config.lostLine ln n % 2 ^ 528
  | none => (ownLine s a ln).getD ((storeOf s a).lineBits ln)

/-- The pattern by which word i of a line differs from a right codeword: free in a segment that was lost. -/
def errHeld (s : State) (a : Arr) (ln i : Nat) : Nat :=
  match lossOf s a ln with
  | some n => bitsOf (Config.lostLine ln n) (528 + 80 * i) (if a = .sram then 78 else 80)
  | none => (storeOf s a).errOf (8 * ln + i)

/-- The stored bits of a line before encoding: ciphertext where it was written under a key. -/
def storedBits (s : State) (a : Arr) (ln : Nat) : Nat :=
  match heldTag s a ln with
  | 0 => heldBits s a ln
  | n + 1 => Config.cipherLine n ln (heldBits s a ln) % 2 ^ 528

/-! ### Locations and reports (R246, R247, R410-R412, R431) -/

/-- Reporting region of a word of an array (byte address, or SRAM location) (R246). -/
def regionOf (s : State) (a : Arr) (addr : Nat) : Nat :=
  match a with
  | .stack => 262 + (placeOf s addr).stack
  | .far => 274 + farChannelOf s addr
  | .sram => sramRegion addr

/-- ADDR_KIND of an array's addresses (R409). -/
def addrKind : Arr → Nat
  | .stack => 1
  | .far => 2
  | .sram => 6

/-- The words an array's decoder may find in error: 80 positions, or 78 in SRAM (R241). -/
def usedBits : Arr → Nat
  | .sram => 78
  | _ => 80

/-- The bucket capacity of a region's class; 0 acts as 1 (R247, R258). -/
def bucketCap (s : State) (g : Nat) : Nat :=
  max 1 (if 262 ≤ g && g ≤ 273 then rd s Fld.ECC_BUCKET_CTRL_CAP_STACK
    else if 274 ≤ g && g ≤ 285 then rd s Fld.ECC_BUCKET_CTRL_CAP_DDR
    else rd s Fld.ECC_BUCKET_CTRL_CAP_SRAM)

/-- A corrected word enters its region's bucket; at CAP one corrected-error record is sent (R247). -/
def countCorrected (a : Arr) (addr : Nat) (double : Bool) (s : State) : State :=
  let g := regionOf s a addr
  let s := bump s (if double then Fld.ECC_REGION_DOUBLE g else Fld.ECC_REGION_SINGLE g)
  let n := s.ecc.since.get (0, 0) g
  let n := if double then (n.1, n.2 + 1) else (n.1 + 1, n.2)
  let level := min 0xFFFF (rd s (Fld.ECC_REGION_LEVEL g) + if double then 4 else 1)
  let cap := bucketCap s g
  if level < cap then
    wr { s with ecc := { s.ecc with since := s.ecc.since.set (0, 0) g n } } (Fld.ECC_REGION_LEVEL g) level
  else
    let s := { s with ecc := { s.ecc with since := s.ecc.since.del g } }
    raiseFault { cls := 4, code := 1, sev := 0, kind := 2, index := g, akind := addrKind a, addr := addr,
                 detail := packBits [(32, n.1.toNat), (32, n.2.toNat), (16, level)] }
      (wr s (Fld.ECC_REGION_LEVEL g) (cap / 2))

/-- A word lies in a part-internal structure (R245): the directory reserve, or SRAM other than tile stores and the test area. -/
def isInternal (s : State) (a : Arr) (addr : Nat) : Bool :=
  match a with
  | .stack => inReserve s (addr / gib)
  | .far => false
  | .sram => sramStruct addr ≠ 0 && !(sramStruct addr = 1 && decide (0x6C0000 ≤ sramOffset addr ∧ sramOffset addr < 0x6C1000))

/-- A word of SRAM lies in a sequence context (R236). -/
def inSeqctx (addr : Nat) : Bool :=
  sramStruct addr = 1 && decide (0x400000 ≤ sramOffset addr ∧ sramOffset addr < 0x500000)

/-- LOC_KIND and LOC_INDEX of a memory record (R410, R411). -/
def memLoc (s : State) (a : Arr) (addr : Nat) : Nat × Nat :=
  match a with
  | .stack => if isInternal s a addr then (2, regionOf s a addr) else (3, (placeOf s addr).unit)
  | .far => (4, farChannelOf s addr)
  | .sram => if inSeqctx addr then (11, 1024 * sramDie addr + (sramOffset addr - 0x400000) / 1024) else (2, regionOf s a addr)

/-- The DETAIL of memory records 1 and 3 (R412). -/
def memDetail (check : Nat) (pos : List Nat) : Nat :=
  packBits [(14, check), (2, 0), (7, pos.getD 0 0x7F), (1, 0), (7, pos.getD 1 0x7F)]

/-- An uncorrectable word is counted and recorded (R243, R245, R246). -/
def countUncorrectable (a : Arr) (addr check : Nat) (pos : List Nat) (s : State) : State :=
  let loc := memLoc s a addr
  raiseFault { cls := 3, code := if isInternal s a addr then 3 else 1, sev := 2, kind := loc.1, index := loc.2,
               akind := addrKind a, addr := addr, detail := memDetail check pos }
    (bump s (Fld.ECC_REGION_UNCORR (regionOf s a addr)))

/-- What reading a word does besides giving its value (R243, R247). -/
def noteDecoded (a : Arr) (addr check : Nat) (d : Decoded) (s : State) : State :=
  match d.outcome with
  | .single => countCorrected a addr false s
  | .double => countCorrected a addr true s
  | .uncorrectable => countUncorrectable a addr check d.pos s
  | _ => s

/-! ### Reading and writing lines -/

/-- The eight decodings of a line. -/
def decodeLine (s : State) (a : Arr) (ln : Nat) : List Decoded :=
  (List.range 8).map fun i => decodeWord (usedBits a) (errHeld s a ln i)

/-- Some word of a decoded line is uncorrectable. -/
def anyBad (ds : List Decoded) : Bool := ds.any fun d => d.outcome = .uncorrectable

/-- The pattern of word i once its line was read: corrected; poison over an uncorrectable word, and over every word of an
encrypted line that holds one (R244, R334). -/
def patternAfter (used : Nat) (whole : Bool) (e : Nat) (d : Decoded) : Nat :=
  if whole || d.outcome = .uncorrectable then poisonOver (correctPattern used e (if d.outcome = .uncorrectable then [] else d.pos))
  else correctPattern used e d.pos

/-- The data and metadata bits by which corrected words still differ from what was written. -/
def residual (pats : List Nat) : Nat :=
  (List.range 8).foldl (fun x i =>
    x + bitsOf (pats.getD i 0) 14 64 * 2 ^ (64 * i) + bitsOf (pats.getD i 0) 78 2 * 2 ^ (512 + 2 * i)) 0

/-- The 528 bits a reader under a key receives (R333, R334). -/
def plainBits (s : State) (a : Arr) (ln : Nat) (k : KeyRes) (resid : Nat) : Nat :=
  match k with
  | .raw => storedBits s a ln ^^^ resid
  | .key n =>
    if heldTag s a ln = n + 1 && resid = 0 then heldBits s a ln
    else Config.decipherLine n ln (storedBits s a ln ^^^ resid) % 2 ^ 528
  | .lost => 0

/-- A line from its 528 bits and poison marks. -/
def lineOfBits (x : Nat) (poison : Nat) : Line :=
  { data := BitVec.ofNat 512 x, meta2 := BitVec.ofNat 16 (x / 2 ^ 512), poison := BitVec.ofNat 8 poison }

/-- The 528 bits of a line. -/
def bitsOfLine (l : Line) : Nat := l.data.toNat + 2 ^ 512 * l.meta2.toNat

/-- The address of word i of a line in reports. -/
def wordAddr (ln i : Nat) : Nat := 64 * ln + 8 * i

/-- Stack lines read and written on a die are counted (R417: events 0x210 and 0x211). -/
def countLine (a : Arr) (ln event : Nat) (s : State) : State :=
  match a with
  | .stack => countDie (homeOf s (64 * ln)).1 event 1 s
  | _ => s

/-- A line is read under a key: the line, the uncorrectable words met, and the state with counts and write-backs. -/
def readUnder (a : Arr) (ln : Nat) (k : KeyRes) (s : State) : Line × List Nat × State :=
  let s := countLine a ln 0x210 s
  if k = .lost then (lineOfBits 0 0xFF, [], s)
  else
    let used := usedBits a
    let ds := decodeLine s a ln
    let whole := anyBad ds && k ≠ .raw
    let st := storeOf s a
    let pats := (List.range 8).map fun i =>
      patternAfter used whole (errHeld s a ln i) (ds.getD i ⟨.clean, []⟩)
    let x := plainBits s a ln k (residual pats)
    let bad := (List.range 8).filter fun i => (ds.getD i ⟨.clean, []⟩).outcome = .uncorrectable
    let marks := maskOf 8 fun i =>
      whole || (ds.getD i ⟨.clean, []⟩).outcome = .poison || (ds.getD i ⟨.clean, []⟩).outcome = .uncorrectable
    let check (i : Nat) : Nat :=
      let b := storedBits s a ln
      bitsOf (codeword (wordData b i + 2 ^ 64 * wordMeta b i) ^^^ errHeld s a ln i) 0 14
    let s := (List.range 8).foldl (fun s i => noteDecoded a (wordAddr ln i) (check i) (ds.getD i ⟨.clean, []⟩) s) s
    let errs := (List.range 8).foldl (fun t i => Tab.set 0 t (8 * ln + i) (BitVec.ofNat 80 (pats.getD i 0))) st.errs
    (lineOfBits x marks, bad.map (wordAddr ln), setStore a { storeOf s a with errs := errs } s)

/-- Words of mask m from a line over those of another. -/
def mergeWords (m : Nat) (new old : Line) : Line :=
  let x := bitsOfLine new
  let y := bitsOfLine old
  let pick := (List.range 8).foldl (fun z i =>
    let w := if bitAt m i then x else y
    z + wordData w i * 2 ^ (64 * i) + wordMeta w i * 2 ^ (512 + 2 * i)) 0
  lineOfBits pick (maskOf 8 fun i => if bitAt m i then bitAt new.poison.toNat i else bitAt old.poison.toNat i)

/-- The patterns of a line's poison marks. -/
def marksToPatterns (l : Line) : List Nat := (List.range 8).map fun i => patternOf (bitAt l.poison.toNat i)

/-- A line is written whole under a key; writes under a lost key are discarded (R335). -/
def writeWhole (a : Arr) (ln : Nat) (k : KeyRes) (l : Line) (s : State) : State :=
  let s := countLine a ln 0x211 s
  match k with
  | .lost => s
  | .raw => setStore a ((storeOf s a).putLine ln (bitsOfLine l) (marksToPatterns l) 0) s
  | .key n => setStore a ((storeOf s a).putLine ln (bitsOfLine l) (marksToPatterns l) (n + 1)) s

/-- The masked words of a raw line are written; the others are left unchanged (R67). -/
def writeRawWords (a : Arr) (ln m : Nat) (l : Line) (s : State) : State :=
  let s := countLine a ln 0x211 s
  let x := bitsOfLine l
  let st := (List.range 8).foldl (fun st i =>
    if bitAt m i then st.putWord (8 * ln + i) (wordData x i) (wordMeta x i) (patternOf (bitAt l.poison.toNat i)) else st)
    (storeOf s a)
  setStore a st s

/-- The words of mask m are written under a key. A write that covers part of an encrypted line is merged with the line's
plaintext and written whole (R67, R333). -/
def writeUnder (a : Arr) (ln : Nat) (k : KeyRes) (m : Nat) (l : Line) (s : State) : State :=
  if m % 256 = 255 then writeWhole a ln k l s
  else if k = .raw && (storeOf s a).tagOf ln = 0 then writeRawWords a ln m l s
  else
    let r := readUnder a ln k s
    writeWhole a ln k (mergeWords m l r.1) r.2.2

/-- A line read under the key its memory has. -/
def readLine (a : Arr) (ln : Nat) (s : State) : Line × State :=
  let r := readUnder a ln (keyOf s a ln) s
  (r.1, r.2.2)

/-- Words of a line written under the key its memory has. -/
def writeLine (a : Arr) (ln m : Nat) (l : Line) (s : State) : State := writeUnder a ln (keyOf s a ln) m l s

/-- One 64-bit word: value, poison mark, state. -/
def readWord (a : Arr) (addr : Nat) (s : State) : Nat × Bool × State :=
  let r := readLine a (addr / 64) s
  let i := addr % 64 / 8
  (bitsOf r.1.data.toNat (64 * i) 64, bitAt r.1.poison.toNat i, r.2)

/-- A line whose word i holds x, with metadata 0. -/
def lineOfWord (i x : Nat) : Line := { data := BitVec.ofNat 512 (x % 2 ^ 64 * 2 ^ (64 * i)), meta2 := 0, poison := 0 }

/-- One 64-bit word written with metadata 0. -/
def writeWord (a : Arr) (addr x : Nat) (s : State) : State :=
  writeLine a (addr / 64) (2 ^ (addr % 64 / 8)) (lineOfWord (addr % 64 / 8) x) s

/-! ### SRAM words (R239, R243) -/

/-- The data of an SRAM word. -/
def sramData (s : State) (loc : Nat) : Nat := (sramWord s loc).getD (s.mem.sram.num loc 8)

/-- One SRAM word read: value, poison mark, whether it was uncorrectable, state. -/
def readSram (loc : Nat) (s : State) : Nat × Bool × Bool × State :=
  let st := s.mem.sram
  let w := loc / 8
  let e := st.errOf w
  let d := decodeWord 78 e
  let data := sramData s loc
  let e' := patternAfter 78 false e d
  let check := bitsOf (codeword data ^^^ e) 0 14
  let s := noteDecoded .sram loc check d s
  let st := { s.mem.sram with errs := Tab.set 0 s.mem.sram.errs w (BitVec.ofNat 80 e') }
  let s := setStore .sram st s
  (data ^^^ bitsOf e' 14 64, d.outcome = .poison || d.outcome = .uncorrectable, d.outcome = .uncorrectable, s)

/-! ### Ports and byte lanes (R237-R239) -/

/-- The writes of SRAM that are performed in this ECLK cycle, or tried again in a later one. -/
def liveWrites (s : State) : List SramWrite := s.ecc.writes.filter fun w => decide (eclk (after s 0) ≤ w.cycle)

/-- How a write meets another port's write of the same word in one cycle: the write of the lower-numbered port is performed, and a
retry goes ahead of any new write (R238). -/
def losesTo (w x : SramWrite) : Bool := x.loc = w.loc && x.port ≠ w.port && x.cycle = w.cycle && (x.retry || decide (x.port < w.port))
def winsOver (w x : SramWrite) : Bool := x.loc = w.loc && x.port ≠ w.port && x.cycle = w.cycle && !losesTo w x

/-- A port writes bytes of a word (R238). What collides is counted, and the loser is performed in the next cycle; the mask left is
that of the bytes no later write of this cycle's decides. -/
def portWrite (loc port mask : Nat) (s : State) : Nat × State :=
  let w : SramWrite := { loc := loc, port := port, mask := mask, cycle := eclk (after s 0) }
  let ws := liveWrites s
  let put (l : List SramWrite) (s : State) : State := { s with ecc := { s.ecc with writes := l } }
  if ws.any (losesTo w) then
    (mask, bump (put (ws ++ [{ w with cycle := w.cycle + 1, retry := true }]) s) Fld.ECC_STATUS_SRAM_COLLISIONS)
  else if ws.any (winsOver w) then
    let later := ws.map fun x => if winsOver w x then { x with cycle := x.cycle + 1, retry := true } else x
    let decided := (ws.filter (winsOver w)).foldl (fun m x => m ||| x.mask) 0
    (mask &&& (255 ^^^ decided), bump (put (later ++ [w]) s) Fld.ECC_STATUS_SRAM_COLLISIONS)
  else (mask, put (ws ++ [w]) s)

/-- The bytes of word i that n bytes from an offset cover. -/
def laneMask (o n i : Nat) : Nat := maskOf 8 fun b => decide (o ≤ 8 * i + b ∧ 8 * i + b < o + n)

/-- A word of SRAM is written under a mask of bytes with the value its structure has now: a part of a word is merged with what the
word held, and stays poison where that was poison or uncorrectable (R239). The uncorrectable word comes back. -/
def laneWrite (loc mask : Nat) (s : State) : List Nat × State :=
  let bad := s.mem.sram.errOf (loc / 8)
  let put (p : Bool) (s : State) : State :=
    { s with mem := { s.mem with sram := { s.mem.sram with
        errs := Tab.set 0 s.mem.sram.errs (loc / 8) (BitVec.ofNat 80 (patternOf p)) } } }
  if bad = 0 then ([], s)
  else if mask = 255 then ([], put false s)
  else
    let r := readSram loc s
    (if r.2.2.1 then [loc] else [], put r.2.1 r.2.2.2)

/-- The words that n bytes from an offset reach: byte lanes rotate, so an access may begin at any byte and go on in the next row
(R239). -/
def laneWords (o n : Nat) : List Nat := if n = 0 then [] else (List.range ((o + n - 1) / 8 - o / 8 + 1)).map (o / 8 + ·)

/-- n bytes of a die's shared scratch are written through a port; the words found uncorrectable come back. -/
def scratchWrite (die o n port : Nat) (s : State) : List Nat × State :=
  (laneWords o n).foldl (fun r i =>
    let loc := sramLoc (8 * i) 1 die 0
    let p := portWrite loc port (laneMask o n i) r.2
    let w := laneWrite loc (laneMask o n i) p.2
    (r.1 ++ w.1, w.2)) ([], s)

/-- n bytes of a die's shared scratch are read: its words are decoded (R243); the uncorrectable ones come back. -/
def scratchRead (die o n : Nat) (s : State) : List Nat × State :=
  ((laneWords o n).filter fun i => s.mem.sram.errOf (sramLoc (8 * i) 1 die 0 / 8) ≠ 0).foldl (fun r i =>
    let w := readSram (sramLoc (8 * i) 1 die 0) r.2
    (if w.2.2.1 then r.1 ++ [sramLoc (8 * i) 1 die 0] else r.1, w.2.2.2)) ([], s)

/-- The ports of the shared scratch: the fabric ingress, the CSR path, and those of the clusters (R237). -/
def ingressPort : Nat := 10
def csrPort : Nat := 11
def clusterPort (cluster : Nat) : Nat := 2 + cluster

/-! ### Whole words -/

/-- A word is written again with valid check bits (R245). -/
def cleanWord (loc : Nat) (s : State) : State :=
  { s with mem := { s.mem with sram := { s.mem.sram with errs := Tab.del s.mem.sram.errs (loc / 8) } } }

/-! ### Retention (R240) -/

/-- The first clock edge after a wake request comes within 20 ns, or 2 µs where the island is retained (R240, R394). -/
def wakeNs (s : State) (n : Nat) : Nat := if s.ecc.retained.get false n then us 2 else 20

/-- A wake request is asserted until the first clock edge. -/
def requestWake (n : Nat) (s : State) : State :=
  if (s.ecc.wakes.find n).isSome then s
  else { s with ecc := { s.ecc with wakes := s.ecc.wakes.put n (after s (wakeNs s n)) } }

/-- The macro group of a tile's store, by its engine; the store is retained. -/
def tileGroup (e : Eng) : Nat := e.toNat % 256
def tileAsleep (s : State) (e : Eng) : Bool := e.group = 0 && s.ecc.retained.get false (tileGroup e)

/-- An engine works, or, where it is a tile whose store is retained, asks for its wake and waits (R240). -/
def awake (e : Eng) (work : State → State) (s : State) : State := if tileAsleep s e then requestWake (tileGroup e) s else work s

/-- One SRAM word written. -/
def writeSram (loc x : Nat) (poisoned : Bool) (s : State) : State :=
  setStore .sram (s.mem.sram.putWord (loc / 8) x 0 (patternOf poisoned)) s

/-! ### Zeroing (R80, R105) -/

/-- Zeros with valid check bits over a granule of the stacks. -/
def zeroGranule (g : Nat) (s : State) : State :=
  let s := setStore .stack (s.mem.stack.zero (g * 2 ^ 24) ((g + 1) * 2 ^ 24)) s
  { s with mem := { s.mem with tick := s.mem.tick + 1, zeroed := s.mem.zeroed.put g (s.mem.tick + 1) } }

/-- Zeros with valid check bits over a frame of 2 MiB of the stacks. -/
def zeroFrame (f : Nat) (s : State) : State :=
  setStore .stack (s.mem.stack.zero (f * 2 ^ 15) ((f + 1) * 2 ^ 15)) s

/-- Zeros over a far frame. -/
def zeroFarFrame (f : Nat) (s : State) : State :=
  let s := setStore .far (s.mem.far.zero (f * 2 ^ 15) ((f + 1) * 2 ^ 15)) s
  { s with mem := { s.mem with tick := s.mem.tick + 1, zeroed := s.mem.zeroed.put (2 ^ 20 + f) (s.mem.tick + 1) } }

end Sys2Proof.Machine
end

