-- ==== Sys2Proof/Machine/Ecc.lean ====
section
/-! DEFINITION. Leaky buckets, check-bit test mode, Anneal, scrub laps and Tinning (R247-R258). -/

namespace Sys2Proof.Machine

/-- The leak period in ns: LEAK_LOG2 above 24 acts as 24 (R247, R258). -/
def leakNs (s : State) : Nat := us (2 ^ min 24 (rd s Fld.ECC_BUCKET_CTRL_LEAK_LOG2))

/-- A leak tick: every region's level falls by one, to 0 at least. -/
def leakBuckets (s : State) : State :=
  (List.range 288).foldl (fun s g => wr s (Fld.ECC_REGION_LEVEL g) (rd s (Fld.ECC_REGION_LEVEL g) - 1)) s

/-- BUCKET_LEAK (R247): a tick, once the leak period since the last has passed. -/
def execBucketLeak (t : Ltc) (s : State) : Host.Outcome State Fault Refusal :=
  let s := adv t s
  let due := s.ecc.leakAt.toNat + leakNs s
  .next (if due ≤ now s then leakBuckets { s with ecc := { s.ecc with leakAt := BitVec.ofNat 64 due } } else s)

/-! ### Check-bit test mode (R249) -/

/-- A tile of a die is disabled or retired (R151, R252). -/
def tileEnabled (s : State) (die tile : Nat) : Bool :=
  bitAt (rd s (Fld.ENG_ENABLE_ENABLE (4 * die + tile / 64))) (tile % 64) &&
    !(s.ecc.retired.get false (128 * die + tile))

/-- The target is a word of SRAM; it alone names a die (R249, R258). -/
def sramTarget (s : State) : Bool :=
  let t := rd s Fld.ECC_TEST_CTRL_TARGET
  t = 0 || t = 1 || t = 4

/-- A target of test mode: an array and the address of its word. -/
def testTarget (s : State) (tileIdle : Bool) : Option (Arr × Nat) :=
  let a := rd s Fld.ECC_TEST_CTRL_ADDR
  let die := rd s Fld.ECC_TEST_CTRL_DIE
  let tile := rd s Fld.ECC_TEST_CTRL_TILE
  let target := rd s Fld.ECC_TEST_CTRL_TARGET
  if !rdb s Fld.ECC_TEST_CTRL_ENABLE || a % 8 ≠ 0 || (sramTarget s && decide (dies s ≤ die)) then none
  else
    match target with
    | 0 => if a ≤ 0xFF8 then some (.sram, sramLoc (0x6C0000 + a) 1 die 0) else none
    | 1 => if a < 2 ^ 21 && decide (tile < 128) && tileIdle && !tileEnabled s die tile
           then some (.sram, sramLoc a 0 die tile) else none
    | 2 => if inPlatform s a then some (.stack, a) else none
    | 3 => if 0x1F0000 ≤ a && a ≤ 0x1FFFF8 && rd s Fld.MEM_CONFIG_FAR_STATE = 2
           then some (.far, (farFrames s - 1) * mib2 + a) else none
    | 4 => if a < secureBytes && s.fuses.lc = 0 then some (.sram, sramLoc a 1 die 0) else none
    | _ => none

/-- The codeword a word would hold without its pattern. -/
def rightCodeword (s : State) (a : Arr) (addr : Nat) : Nat :=
  match a with
  | .sram => codeword (sramData s addr)
  | _ =>
    let b := storedBits s a (addr / 64)
    let i := addr % 64 / 8
    codeword (wordData b i + 2 ^ 64 * wordMeta b i)

/-- The stored codeword of a word. -/
def storedWord (s : State) (a : Arr) (addr : Nat) : Nat := rightCodeword s a addr ^^^ (storeOf s a).errOf (addr / 8)

/-- A stored codeword replaced by another, not encoded (R249). -/
def putRaw (a : Arr) (addr cw : Nat) (s : State) : State :=
  let st := storeOf s a
  let e := rightCodeword s a addr ^^^ cw
  setStore a { st with errs := Tab.set 0 st.errs (addr / 8) (BitVec.ofNat 80 e) } s

/-- An operation was refused (R249). -/
def testError (s : State) : State :=
  wr (wr s Fld.ECC_TEST_STATUS_DONE 0) Fld.ECC_TEST_STATUS_ERROR 1

/-- An operation completed. -/
def testDone (s : State) : State :=
  wr (wr s Fld.ECC_TEST_STATUS_DONE 1) Fld.ECC_TEST_STATUS_ERROR 0

/-- The metadata bits ECC_TEST_CHECK shows or gives; SRAM has none. -/
def testMeta (a : Arr) (m : Nat) : Nat := if a = .sram then 0 else m

/-- Write raw (R249). -/
def testWriteRaw (idle : Bool) (s : State) : State :=
  match testTarget s idle with
  | none => testError s
  | some (a, addr) =>
    let cw := rd s Fld.ECC_TEST_CHECK_CHECK + 2 ^ 14 * rd s Fld.ECC_TEST_DATA_DATA +
      2 ^ 78 * testMeta a (rd s Fld.ECC_TEST_CHECK_META)
    testDone (putRaw a addr cw s)

/-- Read raw (R249). -/
def testReadRaw (idle : Bool) (s : State) : State :=
  match testTarget s idle with
  | none => testError s
  | some (a, addr) =>
    let cw := storedWord s a addr
    let s := wr s Fld.ECC_TEST_DATA_DATA (bitsOf cw 14 64)
    let s := wr s Fld.ECC_TEST_CHECK_CHECK (bitsOf cw 0 14)
    testDone (wr s Fld.ECC_TEST_CHECK_META (testMeta a (bitsOf cw 78 2)))

/-- Read decoded (R249): the corrected data, the outcome and the located positions; nothing is written back or counted. -/
def testReadDecoded (idle : Bool) (s : State) : State :=
  match testTarget s idle with
  | none => testError s
  | some (a, addr) =>
    let d := decodeWord (usedBits a) ((storeOf s a).errOf (addr / 8))
    let fix := if d.outcome = .uncorrectable then [] else d.pos
    let cw := correctPattern (usedBits a) (storedWord s a addr) fix
    let s := wr s Fld.ECC_TEST_DATA_DATA (bitsOf cw 14 64)
    let s := wr s Fld.ECC_TEST_STATUS_OUTCOME d.outcome.num
    let s := wr s Fld.ECC_TEST_STATUS_POS0 (d.pos.getD 0 0x7F)
    testDone (wr s Fld.ECC_TEST_STATUS_POS1 (d.pos.getD 1 0x7F))

/-- The 4 KiB region an address lies in is held by test mode (R249). -/
def testHolds (s : State) (a : Arr) (addr : Nat) : Bool :=
  match testTarget s true with
  | none => false
  | some (b, x) => b = a && addr / 4096 = x / 4096

/-! ### Anneal (R251, R252) -/

/-- The spares of a macro in use: those the fuse map switched in, and those of soft repairs (R250-R252). -/
def sparesUsed (s : State) (key : Nat) : Nat × Nat :=
  let u := s.ecc.spares.get (0, 0) key
  if bitAt (rd s Fld.RST_STATUS_PHASES) 1 then
    let m := s.fuses.spares.get ([], []) key
    (u.1 + m.1.length, u.2 + m.2.length)
  else u

/-- Anneal's macro groups: 0..255 the tile stores by region, 256 + 8 × die + j the scratch groups, 272 and 273 the secure
regions. The SRAM location of offset 0 of a group. -/
def groupBase (g : Nat) : Nat :=
  if g < 256 then sramLoc 0 0 (g / 128) (g % 128)
  else if g < 272 then sramLoc (secureBytes + (g - 256) % 8 * 0x380000) 1 ((g - 256) / 8) 0
  else sramLoc 0 1 (g - 272) 0

/-- 4 KiB regions of a macro group (R251). -/
def groupRegions (g : Nat) : Nat := if g < 256 then 512 else if g < 272 then 896 else 1024

/-- The die of a macro group. -/
def groupDie (g : Nat) : Nat := if g < 256 then g / 128 else if g < 272 then (g - 256) / 8 else g - 272

/-- The reporting region of a macro group. -/
def groupRegion (g : Nat) : Nat := sramRegion (groupBase g)

/-- A REPLACE_REQUEST whose REGION is that of the last exhausted macro (R425). -/
def requestReplacement (cause : Nat) (s : State) : State := replaceRequest cause s.ecc.exhausted.toNat s

/-- A tile store without spares: the tile is retired (R252). -/
def retireTile (g : Nat) (s : State) : State :=
  if g < 256 && !(s.ecc.retired.get false g) then
    let s := { s with ecc := { s.ecc with retired := s.ecc.retired.put g true } }
    let s := bump (bump s Fld.ECC_STATUS_TILES_RETIRED) Fld.FLT_DEGRADED_TILES_RETIRED
    let eng := packBits [(4, g % 16), (3, g % 128 / 16), (1, g / 128), (3, 0)]
    raiseFault { cls := 6, code := 5, sev := 3, kind := 1, index := eng } s
  else s

/-- Failures that found no spare: counted, the tile retired, the replacement requested (R252). -/
def sparesExhausted (g n : Nat) (s : State) : State :=
  if n = 0 then s
  else
    let s := bumpBy s Fld.ECC_ANNEAL_STATUS_SPARES_EXHAUSTED n
    let s := { s with ecc := { s.ecc with exhausted := BitVec.ofNat 16 (groupRegion g) } }
    requestReplacement 1 (retireTile g s)

/-- ANNEAL_PERIOD_US in ns; values below 10 act as 10 (R251, R258). -/
def annealNs (s : State) : Nat := us (max 10 (rd s Fld.ECC_ANNEAL_CTRL_PERIOD_US))

/-- Anneal runs on a group: it is enabled, its period has passed, the group exists, is not retained, not held by test mode, nor a
secure region that Tinning wipes (R240, R249, R251, R256). -/
def annealRuns (s : State) (g : Nat) : Bool :=
  rdb s Fld.ECC_ANNEAL_CTRL_ENABLE &&
    (match s.ecc.annealed.find g with | some t => decide (t.toNat + annealNs s ≤ now s) | none => true) && decide (g < 274) && decide (groupDie g < dies s) &&
    !(s.ecc.retained.get false g) &&
    !(testHolds s .sram (groupBase g + 4096 * s.ecc.annealAt.get 0 g)) &&
    !(decide (272 ≤ g) && rd s Fld.ECC_TIN_STATUS_STATE = 1)

/-! ### Scrubbing (R253, R254) -/

/-- The scrub class of a reporting region (R246, R254). -/
def scrubClass (g : Nat) : Nat :=
  if g < 256 then 0 else if g < 258 then 1 else if g < 260 then 2 else if g < 262 then 3
  else if g < 274 then 4 else if g < 286 then 5 else 6

/-- Scrubbers of a region: a stack has 32, a die's scratch 8, the coherence arrays of a die and the arrays of a fabric die one for
each of their three structures, every other region one. -/
def scrubbersOf (g : Nat) : Nat :=
  if 262 ≤ g && g < 274 then 32 else if g = 256 || g = 257 then 8
  else if g = 260 || g = 261 || g = 286 || g = 287 then 3 else 1

/-- The longest most recent lap among the regions of some classes: (duration, region), the lowest region among equals. -/
def longestLap (s : State) (classes : Nat) : Nat × Nat :=
  s.ecc.laps.foldl (fun best e =>
    if bitAt classes (scrubClass e.1) && decide (best.1 < e.2.toNat) then (e.2.toNat, e.1) else best) (0, 0)

/-- A lap of a region ends (R254). -/
def lapEnds (g : Nat) (s : State) : State :=
  let d := (now s - (s.ecc.lapStart.get 0 g).toNat) / 1000
  let s := { s with ecc := { s.ecc with
    laps := s.ecc.laps.put g (BitVec.ofNat 48 d)
    lapStart := s.ecc.lapStart.set 0 g (after s 0)
    lapDone := s.ecc.lapDone.set [] g [] } }
  let c := scrubClass g
  let l := longestLap s (2 ^ c)
  wr (wr s (Fld.ECC_SCRUB_LAP_LAP_US c) l.1) (Fld.ECC_SCRUB_LAP_REGION c) l.2

/-- A scrubber visited its last word. -/
def scrubberDone (g id : Nat) (s : State) : State :=
  let done := s.ecc.lapDone.get [] g
  let done := if done.contains id then done else done ++ [id]
  if done.length < scrubbersOf g then { s with ecc := { s.ecc with lapDone := s.ecc.lapDone.set [] g done } }
  else lapEnds g s

/-- The scrubber, the address within its unit and the last such address of a scrub read. -/
structure ScrubAt where
  arr : Arr
  addr : Nat
  id : Nat
  pos : Nat
  last : Option Nat
  deriving DecidableEq, Repr

/-- What a scrub read visits. -/
def scrubAt (s : State) : ScrubUnit → ScrubAt
  | .stack ln =>
    let p := placeOf s (64 * ln.toNat)
    ⟨.stack, 64 * ln.toNat, p.unit, p.pco / 64, some (2 ^ 25 - 1)⟩
  | .ddr ln =>
    let a := 64 * ln.toNat
    ⟨.far, a, 384 + farChannelOf s a, farOffsetOf s a / 128, some (dimmBytes s / 128 - 1)⟩
  | .sram w =>
    let l := w.toNat
    let o := sramOffset l
    match sramStruct l with
    | 0 => ⟨.sram, l, 400 + sramRegion l, o / 8, some (2 ^ 18 - 1)⟩
    | 1 =>
      if o < secureBytes then ⟨.sram, l, 700 + sramDie l, o / 8, some (2 ^ 19 - 1)⟩
      else ⟨.sram, l, 710 + 8 * sramDie l + (o - secureBytes) / 0x380000, (o - secureBytes) % 0x380000 / 8, some (0x70000 - 1)⟩
    | k => ⟨.sram, l, 730 + 4 * k + sramDie l, o / 8, none⟩

/-- A refresh mask bit of a segment of a unit that the part follows (R80). -/
def maskedSegment (s : State) (a : Arr) (addr : Nat) : Bool :=
  let bit := match a with
    | .stack => let p := placeOf s addr; 8 * p.die + segmentOf p.pco
    | .far => 16 + farSegmentOf s addr
    | .sram => 24
  decide (bit < 24) && bitAt (refreshMask s) bit && !(segmentHolds s bit)

/-- The macro group an SRAM scrubber serves. -/
def scrubGroup (id : Nat) : Nat :=
  if id < 700 then id - 400 else if id < 710 then 272 + (id - 700) else if id < 730 then 256 + (id - 710) else 1000

/-- The word is the scrubber's next in address order; in an array whose size the manual does not give, a lower address than that
begins the array again (R253). -/
def inScrubOrder (s : State) (x : ScrubAt) : Bool :=
  match x.last with
  | some _ => x.pos = s.ecc.scrubAt.get 0 x.id
  | none => true

/-- A scrubber can go on: its class is enabled, its unit is neither in self-refresh nor retained, it has not ended its part of the
lap, and the word is its next (R253, R254). -/
def scrubRuns (s : State) (x : ScrubAt) : Bool :=
  let g := regionOf s x.arr x.addr
  rdb s (Fld.ECC_SCRUB_LAP_ENABLED (scrubClass g)) &&
    ((s.mem.units.get {} x.id).sr.isNone || x.arr = .sram) &&
    !(x.arr = .sram && s.ecc.retained.get false (scrubGroup x.id)) && inScrubOrder s x &&
    !((s.ecc.lapDone.get [] g).contains x.id)

/-- The words of a masked segment, and those test mode holds, are skipped (R249, R253). -/
def scrubSkips (s : State) (x : ScrubAt) : Bool := maskedSegment s x.arr x.addr || testHolds s x.arr x.addr

/-- Words of a scrubber that a refresh segment of its unit holds: an eighth of them (R80). -/
def segmentWords (x : ScrubAt) : Nat := match x.last with | some l => (l + 1) / 8 | none => 1

/-- Where a scrubber goes on: the word after the one read, or after what is skipped. -/
def scrubNext (s : State) (x : ScrubAt) : Nat :=
  if maskedSegment s x.arr x.addr then
    let n := max 1 (segmentWords x)
    (x.pos / n + 1) * n
  else x.pos + 1

/-- The key a scrub read needs is none: the code covers the ciphertext. A line written under a key is poisoned whole (R334). -/
def scrubKey (s : State) (a : Arr) (ln : Nat) : KeyRes :=
  match heldTag s a ln with
  | 0 => .raw
  | n + 1 => .key n

/-- The words a scrub read visits, decoded; the uncorrectable ones come back (R244, R253). -/
def scrubWords (x : ScrubAt) (s : State) : List Nat × State :=
  match x.arr with
  | .sram => let r := readSram x.addr s; (if r.2.2.1 then [x.addr] else [], r.2.2.2)
  | .stack => (readUnder .stack (x.addr / 64) (scrubKey s .stack (x.addr / 64)) s).2
  | .far =>
    let ln := x.addr / 128 * 2
    let r := readUnder .far ln (scrubKey s .far ln) s
    let q := readUnder .far (ln + 1) (scrubKey r.2.2 .far (ln + 1)) r.2.2
    (r.2.1 ++ q.2.1, q.2.2)

/-- A scrubber moves on; past its last word, or where it wraps, its part of the lap is done (R254). -/
def scrubAdvance (x : ScrubAt) (s : State) : State :=
  let next := scrubNext s x
  let wrapped := match x.last with
    | some l => decide (l < next)
    | none => decide (x.pos + 1 < s.ecc.scrubAt.get 0 x.id)
  let s := { s with ecc := { s.ecc with scrubAt := s.ecc.scrubAt.set 0 x.id (if wrapped && x.last.isSome then 0 else next) } }
  if wrapped then scrubberDone (regionOf s x.arr x.addr) x.id s else s

/-- SCRUB_CONTROL (R254). -/
def execScrubControl (t : Ltc) (h : CmdHdr) (enable : Byte) (mask : BitVec 32) (s : State) : Host.Outcome State Fault Refusal :=
  opcode t h .platform false (fun s =>
    if 128 ≤ mask.toNat then refuseCmd h Status.BAD_PARAM s
    else if 2 ≤ enable.toNat then refuseCmd h Status.RSV_NONZERO s
    else
      let s := (setBits 7 mask.toNat).foldl (fun s c => wr s (Fld.ECC_SCRUB_LAP_ENABLED c) enable.toNat) s
      let l := longestLap s mask.toNat
      okCmd h (leBytes 8 (packBits [(48, l.1), (9, l.2)])) s) s

/-! ### Tinning (R255, R256) -/

/-- Both secure regions hold zeros with valid check bits. -/
def wipeSecure (s : State) : State :=
  (List.range (dies s)).foldl (fun s d =>
    let lo := sramLoc 0 1 d 0
    setStore .sram (s.mem.sram.zero (lo / 64) ((lo + secureBytes) / 64)) s) s

/-- Tinning begins for a cause: PENDING set, the secure regions and their save buffers wiped (R255, R256). -/
def beginTinning (cause : Nat) (s : State) : State :=
  let s := wr s Fld.ECC_TIN_STATUS_STATE 1
  let s := wr s Fld.ECC_TIN_STATUS_PENDING 1
  let s := bump s Fld.ECC_TIN_STATUS_COUNT
  wipeSecure (wr s Fld.ECC_TIN_STATUS_LAST_CAUSE cause)

end Sys2Proof.Machine
end

