-- ==== Sys2Proof/Machine/Identity.lean ====
section
/-! DEFINITION. Identity, sessions, life cycle, attestation, job keys, consent, scan and tamper (R323-R330, R339-R348), with
the Tinning that tamper and life-cycle changes run (R255, R256). -/

namespace Sys2Proof.Machine

/-- NOP (R57). -/
def execNop (t : Ltc) (h : CmdHdr) (s : State) : Host.Outcome State Fault Refusal :=
  opcode t h .platform false (fun s => okCmd h [] s) s

/-- VARIANT as the Hallmark codes it (R326). -/
def variantCode (s : State) : Nat := match s.variant with | .tr12 => 1 | .tr6 => 2

/-- TOKEN: 0 Anvil A, 1 Anvil B, 0xFF none (R327). -/
def tokenCode (s : State) : Nat := match s.anv.token with | none => 0xFF | some d => d.num

/-- The version of the image the active Anvil runs. -/
def activeFw (s : State) : Nat := (anvil s (replyAnvil s)).fw.toNat

/-- IDENTIFY (R57). -/
def execIdentify (t : Ltc) (h : CmdHdr) (s : State) : Host.Outcome State Fault Refusal :=
  opcode t h .platform false (fun s =>
    okCmd h (leBytes 19 (packBits [(64, s.fuses.uid.toNat), (16, (sourceId s).toNat), (8, variantCode s), (8, s.fuses.lc.toNat),
      (32, activeFw s), (16, rd s Fld.CTRL_MODE_STATUS_APPLIED_GEN), (8, tokenCode s)])) s) s

/-! ### Sessions (R329, R330) -/

/-- The payload of a SESSION_OPEN reply; the session is keyed with the owner or the manufacturing secret (R323, R329). -/
def sessionPayload (s : State) (id slot node ct : Nat) : List Byte :=
  let secret := if s.fuses.lc = 1 || s.fuses.lc = 2 then s.fuses.secret else Config.makerSecret
  let kc := Config.digest 5 [slot, node, ct, s.fuses.uid.toNat, secret.toNat]
  let sig := Config.digest 6 [s.fuses.uid.toNat, slot, node, ct, id, kc]
  leBytes 4 id ++ leBytes 4 0 ++ leBytes 32 kc ++ leBytes 1280 sig

/-- Events that waited for a subscriber are sent, and those lost are reported (R55). -/
def subscriberOpened (s : State) : State := reportLost (flushEvents s)

/-- The way a command came. -/
def cmdSource (s : State) (h : CmdHdr) : CmdSource := match entryOf s h with | some e => e.src | none => .kafer .a

/-- SESSION_OPEN (R329). -/
def execSessionOpen (t : Ltc) (h : CmdHdr) (slot subscriber : Byte) (node : BitVec 16) (ct : BitVec 12544) (s : State) :
    Host.Outcome State Fault Refusal :=
  opcode t h .platform false (fun s =>
    if slot.toNat = 0 || decide (8 < slot.toNat) then refuseCmd h Status.BAD_PARAM s
    else if 2 ≤ subscriber.toNat then refuseCmd h Status.RSV_NONZERO s
    else if s.fuses.lc = 4 then refuseCmd h Status.AUTH_FAIL s
    else if (s.ctl.sessions.find slot.toNat).isSome then refuseCmd h Status.NO_RESOURCE s
    else
      let d := draw s
      let id := slot.toNat % 16 + 16 * (d.1 % 2 ^ 28)
      let x : Session := { id := BitVec.ofNat 32 id, subscriber := subscriber = 1, node := node, src := cmdSource s h }
      let s := { d.2 with ctl := { d.2.ctl with sessions := d.2.ctl.sessions.put slot.toNat x } }
      subscriberOpened (okCmd h (sessionPayload s id slot.toNat node.toNat ct.toNat) s)) s

/-- Every session is closed, its key cleared. -/
def closeSessions (s : State) : State := { s with ctl := { s.ctl with sessions := [] } }

/-- SESSION_CLOSE (R57, R330): the reply goes out under the session that carried the command. -/
def execSessionClose (t : Ltc) (h : CmdHdr) (id : BitVec 32) (s : State) : Host.Outcome State Fault Refusal :=
  opcode t h .platform false (fun s =>
    if s.ctl.sessions.vals.any (·.id = id) then
      let s := okCmd h [] s
      { s with ctl := { s.ctl with sessions := s.ctl.sessions.keep fun _ x => x.id ≠ id } }
    else refuseCmd h Status.NOT_FOUND s) s

/-! ### Hallmark and Assay (R326-R328) -/

/-- HALLMARK_READ (R326). -/
def execHallmarkRead (t : Ltc) (h : CmdHdr) (s : State) : Host.Outcome State Fault Refusal :=
  opcode t h .platform false (fun s =>
    let uid := s.fuses.uid.toNat
    okCmd h (leBytes 4696 (packBits [(32, 1), (64, uid), (8, variantCode s), (24, 0), (256, Config.digest 1 []),
      (14344, Config.digest 2 [uid]), (56, 0), (12544, Config.digest 3 [uid]), (10240, Config.digest 4 [uid])])) s) s

/-- The consent bits, tenant and job ID of a binding (R339). -/
def bindConsent (b : Nat) : Nat := bitsOf b 16 3
def bindTenant (b : Nat) : Nat := bitsOf b 0 10
def bindJob (b : Nat) : Nat := bitsOf b 32 64

/-- A slot holds a key: it was established and not lost. -/
def JobKey.valid (j : JobKey) : Bool := !j.lost

/-- Some slot of a tenant grants a consent bit. -/
def tenantGrants (s : State) (t bit : Nat) : Bool :=
  s.sec.jobs.vals.any fun j => j.valid && bindTenant j.binding.toNat = t && bitAt (bindConsent j.binding.toNat) bit

/-- A tenant's operations are being sampled (R346, R422). -/
def sampled (s : State) (t : Nat) : Bool :=
  s.tel.rateLog2 ≠ 0 && (s.tel.tenant = 0xFFF || s.tel.tenant.toNat = t) && tenantGrants s t 1

/-- A consent entry of a slot (R328). -/
def consentEntry (s : State) (slot : Nat) (j : JobKey) : List Byte :=
  let b := j.binding.toNat
  leBytes 16 (packBits [(13, slot), (3, 0), (10, bindTenant b), (6, 0), (3, bindConsent b), (5, 0), (1, b2n j.dbg.isSome),
    (1, b2n (sampled s (bindTenant b))), (1, b2n (decide (s.sec.scan.map (fun x => x.slot.toNat) = some slot))), (21, 0),
    (64, bindJob b)])

/-- The slots whose binding grants any consent, ascending. -/
def consentSlots (s : State) : Tab JobKey := s.sec.jobs.keep fun _ j => j.valid && bindConsent j.binding.toNat ≠ 0

/-- A tenant is in partition mode (R350): the ENABLE bit of its partition entry in force. -/
def isPartitioned (s : State) (t : Nat) : Bool :=
  match s.mode.applied.partitions.find t with
  | some e => bitAt e.toNat 10
  | none => false

/-- The Assay before its signature (R327). -/
def assayBody (s : State) (nonce : Nat) : List Byte :=
  let cs := consentSlots s
  leBytes 328 (packBits [(32, 1), (32, 0), (256, nonce), (64, s.fuses.uid.toNat), (8, s.fuses.lc.toNat), (8, variantCode s),
    (8, tokenCode s), (8, 0), (32, activeFw s), (16, rd s Fld.CTRL_MODE_STATUS_APPLIED_GEN), (16, cs.length),
    (48, now48 s), (16, 0), (512, (anvil s (replyAnvil s)).image.toNat), (512, Config.digest 8 []),
    (1024, maskOf 1024 (isPartitioned s)), (32, 0)]) ++ (cs.flatMap fun e => consentEntry s e.1 e.2)

/-- ASSAY_REQUEST (R327). -/
def execAssayRequest (t : Ltc) (h : CmdHdr) (nonce : BitVec 256) (s : State) : Host.Outcome State Fault Refusal :=
  opcode t h .platform false (fun s =>
    let body := assayBody s nonce.toNat
    okCmd h (body ++ leBytes 1280 (Config.digest 9 [leNat body])) s) s

/-! ### Life cycle (R323, R324) and Tinning -/

/-- The transitions of R324. -/
def lcAllowed (a b : Nat) : Bool :=
  (a = 0 && b = 1) || (a = 0 && b = 4) || (a = 1 && b = 2) || (a = 1 && b = 3) || (a = 2 && b = 3) || (a = 3 && b = 4)

/-- A debug handle is open. -/
def anyDebug (s : State) : Bool := s.sec.jobs.vals.any fun j => j.dbg.isSome

/-- A life-cycle change whose Tinning ended is recorded; the reply goes out under its session, then every session closes. -/
def recordLifecycle (p : LcPending) (s : State) : State :=
  let f := { s.fuses with lc := p.target }
  let f := if p.target = 1 then { f with owner := p.owner, secret := p.secret } else f
  closeSessions (okCmd p.h [] { s with fuses := f, sec := { s.sec with lcPending := none } })

/-- The SHAKE256-512 digest of a signer's key (R324). -/
def keyDigest (key : BitVec 14344) : BitVec 512 := BitVec.ofNat 512 (Config.digest 12 [key.toNat])

/-- The signer's key is the one that may authorise a transition from the current state: the owner's from PROVISIONED and DEPLOYED,
Juzor's issuing key otherwise (R324). -/
def signerOk (s : State) (signer : BitVec 14344) : Bool :=
  keyDigest signer = (if s.fuses.lc = 1 || s.fuses.lc = 2 then s.fuses.owner else s.fuses.romIssuer)

/-- LIFECYCLE_ADVANCE (R324): checks, then a full Tinning of its own (R255, R257). `sigOk` is the outcome of the check of SIG under the
signer's key. -/
def execLifecycleAdvance (t : Ltc) (h : CmdHdr) (target : Byte) (signer : BitVec 14344) (sigOk : Bool) (ownerKey : BitVec 14344)
    (ct : BitVec 12544) (s : State) : Host.Outcome State Fault Refusal :=
  opcode t h .platform false (fun s =>
    if 4 < target.toNat then refuseCmd h Status.RSV_NONZERO s
    else if !lcAllowed s.fuses.lc.toNat target.toNat || !sigOk || !signerOk s signer || !s.sec.tenants.isEmpty || !s.sec.jobs.isEmpty ||
        anyDebug s then
      refuseCmd h Status.NOT_PERMITTED s
    else
      let running := rd s Fld.ECC_TIN_STATUS_STATE = 1
      let p : LcPending := { h := h, target := BitVec.ofNat 3 target.toNat, owner := keyDigest ownerKey,
                             secret := BitVec.ofNat 256 (Config.digest 13 [ct.toNat, s.fuses.uid.toNat]), begun := !running }
      let s := beginLong h { s with sec := { s.sec with lcPending := some p } }
      if running then s else beginTinning 2 s) s

/-- TINNING (R256): a Tinning begins for a cause, unless the one its trigger began runs already. -/
def execTinning (t : Ltc) (cause : BitVec 2) (s : State) : Host.Outcome State Fault Refusal :=
  let s := adv t s
  .next (if rd s Fld.ECC_TIN_STATUS_STATE = 1 && rd s Fld.ECC_TIN_STATUS_LAST_CAUSE = cause.toNat then s
    else beginTinning cause.toNat s)

/-- A Tinning that fails: a FAULT event and a replacement request (R256, R425). -/
def tinningFailed (s : State) : State :=
  let d := draw s
  requestReplacement 4 (raiseFault { cls := 3, code := 5, sev := 3, kind := 7, index := d.1 % dies s } d.2)

/-- The life-cycle change that waits goes on when a Tinning ends. -/
def lifecycleGoesOn (s : State) : State :=
  match s.sec.lcPending with
  | none => s
  | some p =>
    if p.begun then recordLifecycle p s
    else beginTinning 2 { s with sec := { s.sec with lcPending := some { p with begun := true } } }

/-- TINNING_DONE (R256): every word reads clean and zero, those that did not having been written again, or some word failed three
more writes. -/
def execTinningDone (t : Ltc) (clean : Bool) (s : State) : Host.Outcome State Fault Refusal :=
  let s := adv t s
  .next (if rd s Fld.ECC_TIN_STATUS_STATE ≠ 1 then s
    else
      let s := wr (wr s Fld.ECC_TIN_STATUS_STATE (if clean then 2 else 3)) Fld.ECC_TIN_STATUS_PENDING 0
      lifecycleGoesOn (if clean then wipeSecure s else tinningFailed s))

/-! ### Tamper (R348) -/

/-- A debug handle that covers counters is open on a slot of a tenant (R345, R416). -/
def counterHandle (s : State) (t : Nat) : Bool :=
  s.sec.jobs.vals.any fun j => bindTenant j.binding.toNat = t && (match j.dbg with | some d => d.scope.getLsbD 2 | none => false)

/-- Events that count cycles or slots, whose values the model leaves free (log entry 46). -/
def eventTimed (e : Nat) : Bool := e = 1 || (0x030 ≤ e && e ≤ 0x032) || 0x400 ≤ e

/-- A counter's value as it is latched; one that stopped keeps its own. -/
def latchCounter (c : Counter) (s : State) : Nat × State :=
  if eventTimed c.event.toNat && !c.stopped then
    let d := draw s
    (d.1 % 2 ^ 64, d.2)
  else (c.value.toNat, s)

/-- A counter stops and keeps its value. -/
def stopCounter (s : State) (k : Nat) (c : Counter) : State :=
  let v := latchCounter c s
  { v.2 with tel := { v.2.tel with counters := v.2.tel.counters.put k { c with value := BitVec.ofNat 64 v.1, stopped := true } } }

/-- A tenant's counters stop once no such handle is left (R416). -/
def stopCounters (s : State) : State :=
  s.tel.counters.foldl (fun s e =>
    if !e.2.stopped && e.2.tenant ≠ 0xFFF && !counterHandle s e.2.tenant.toNat then stopCounter s e.1 e.2 else s) s

/-- A slot grants scan, and so does some slot of every other tenant (R347). -/
def slotGrantsScan (s : State) (slot : Nat) : Bool :=
  match s.sec.jobs.find slot with
  | none => false
  | some j =>
    j.valid && bitAt (bindConsent j.binding.toNat) 2 &&
      s.sec.tenants.keys.all fun t => t = bindTenant j.binding.toNat || tenantGrants s t 2

/-- Scan ends once a tenant exists and the bindings no longer grant it (R345). -/
def endScan (s : State) : State :=
  match s.sec.scan with
  | some x =>
    if s.sec.tenants.isEmpty || slotGrantsScan s x.slot.toNat then s else { s with sec := { s.sec with scan := none } }
  | none => s

/-- Every key is cleared: sessions, memory keys, job keys; sweeps stop (R338, R348). -/
def clearKeys (s : State) : State :=
  let s := closeSessions s
  endScan { s with sec := { s.sec with
    tenants := s.sec.tenants.mapVals fun _ x => { x with keyLost := true, sweep := none }
    jobs := s.sec.jobs.mapVals fun _ x => { x with lost := true } } }

/-- The TAMPER event goes out on both Kaferlink ports with SESSION 0, beside being held (R348, R55). -/
def sendTamper (source : Nat) (s : State) : State :=
  let p := packBits [(3, source), (61, 0), (64, s.fuses.uid.toNat)]
  let e : EventRec :=
    { seq := s.ctl.nextEvent, cls := 4, source := sourceId s, tenant := 0xFFF, ltc := BitVec.ofNat 48 (now48 s),
      gen := BitVec.ofNat 16 (rd s Fld.CTRL_MODE_STATUS_APPLIED_GEN), len := 16, payload := p }
  let s := kSend (kSend (emit (.tamperEvent e) s) .a (.event e false 0)) .b (.event e false 0)
  raiseEvent 4 0xFFF 16 p s

/-- A KCLK left 90..110 MHz: which of the two, and whether either is within again, is open (R348, R407). -/
def kclkOut (source : Nat) (s : State) : State :=
  if source = 2 then
    let d := draw s
    { d.2 with clk := { d.2.clk with kclkA := d.1 % 2 = 1, kclkB := d.1 / 2 % 2 = 1 } }
  else s

/-- The tamper response (R348). -/
def tamperNow (source : Nat) (s : State) : State :=
  let src := if s.sec.tampered then s.sec.source else BitVec.ofNat 3 source
  let s := clearKeys { s with sec := { s.sec with tampered := true, source := src } }
  sendTamper source (beginTinning 1 s)

/-- TAMPER (R348, R255). -/
def execTamper (t : Ltc) (source : BitVec 3) (s : State) : Host.Outcome State Fault Refusal :=
  .next (tamperNow source.toNat (kclkOut source.toNat (adv t s)))

/-! ### Job keys (R339-R344) -/

/-- The RSV bits of a binding are zero (R339). -/
def bindRsvOk (b : Nat) : Bool := bitsOf b 10 6 = 0 && bitsOf b 19 13 = 0 && bitsOf b 416 96 = 0

/-- A command that must write a key while Tinning runs is refused: the port of the secure region that Hecor uses is. The manual names
no status for it, which is a free value other than OK (R237, R256). -/
def keyWrite (h : CmdHdr) (s : State) (write : State → State) : State :=
  if rd s Fld.ECC_TIN_STATUS_STATE = 1 then
    let d := draw s
    refuseCmd h (d.1 % 0xFFFF + 1) d.2
  else write s

/-- A job key enters its slot; under it every stream of this part is numbered from 0 (R340, R342). -/
def installJobKey (slot : Nat) (binding : BitVec 512) (s : State) : State :=
  let other (k : Nat) : Bool := k % 16384 ≠ 8192 + slot
  { s with
    sec := { s.sec with jobs := s.sec.jobs.put slot { binding := binding } }
    fab := { s.fab with nextNum := s.fab.nextNum.keep fun k _ => other k, atoms := s.fab.atoms.keep fun k _ => other k } }

/-- JOBKEY_ESTABLISH (R340). `confirmOk` is the outcome of the key confirmation. -/
def execJobkeyEstablish (t : Ltc) (h : CmdHdr) (slot : BitVec 16) (binding : BitVec 512) (_ct : BitVec 12544) (confirmOk : Bool)
    (s : State) : Host.Outcome State Fault Refusal :=
  opcode t h .tenant false (fun s =>
    let b := binding.toNat
    if 8192 ≤ slot.toNat then refuseCmd h Status.BAD_PARAM s
    else if !bindRsvOk b then refuseCmd h Status.RSV_NONZERO s
    else if bindTenant b ≠ h.tenant.toNat || (s.sec.tenants.find (bindTenant b)).isNone then refuseCmd h Status.BAD_PARAM s
    else if ((s.sec.jobs.find slot.toNat).map JobKey.valid).getD false then refuseCmd h Status.IN_USE s
    else if bindConsent b ≠ 0 && decide (512 ≤ (consentSlots s).length) then refuseCmd h Status.IN_USE s
    else if !confirmOk then refuseCmd h Status.AUTH_FAIL s
    else keyWrite h s fun s =>
      okCmd h [] (installJobKey slot.toNat binding s)) s

/-- A slot is retired: key, peers and debug handle go (R344). -/
def retireSlot (slot : Nat) (s : State) : State :=
  endScan (stopCounters { s with sec := { s.sec with jobs := s.sec.jobs.del slot } })

/-- A command that names an object of a tenant may come from that tenant's scope or the platform's. -/
def ownedBy (h : CmdHdr) (t : Nat) : Bool := h.tenant = 0xFFF || h.tenant.toNat = t

/-- JOBKEY_RETIRE (R344). -/
def execJobkeyRetire (t : Ltc) (h : CmdHdr) (slot : BitVec 16) (s : State) : Host.Outcome State Fault Refusal :=
  opcode t h .either false (fun s =>
    match s.sec.jobs.find slot.toNat with
    | some j => if ownedBy h (bindTenant j.binding.toNat) then okCmd h [] (retireSlot slot.toNat s)
                else refuseCmd h Status.NOT_FOUND s
    | none => refuseCmd h Status.NOT_FOUND s) s

/-! ### Debug and scan (R345-R347) -/

/-- The scope bits a binding's consent covers (R345). -/
def scopeCovered (consent scope : Nat) : Bool :=
  bitAt consent 0 && ((!(bitAt scope 1) && !(bitAt scope 2)) || bitAt consent 1)

/-- DEBUG_OPEN (R345). -/
def execDebugOpen (t : Ltc) (h : CmdHdr) (slot scope : BitVec 16) (s : State) : Host.Outcome State Fault Refusal :=
  opcode t h .platform false (fun s =>
    if 8 ≤ scope.toNat then refuseCmd h Status.RSV_NONZERO s
    else
      match s.sec.jobs.find slot.toNat with
      | none => refuseCmd h Status.CONSENT_REQUIRED s
      | some j =>
        if !j.valid || !scopeCovered (bindConsent j.binding.toNat) scope.toNat then refuseCmd h Status.CONSENT_REQUIRED s
        else
          match j.dbg with
          | some d => okCmd h (leBytes 4 d.handle.toNat) s
          | none =>
            let d := draw s
            let handle := slot.toNat + 2 ^ 13 * (d.1 % 2 ^ 19)
            let j' := { j with dbg := some { handle := BitVec.ofNat 32 handle, scope := scope } }
            okCmd h (leBytes 4 handle) { d.2 with sec := { d.2.sec with jobs := d.2.sec.jobs.put slot.toNat j' } }) s

/-- The slot whose open debug handle is named (R345: bits 0..12 hold the slot). -/
def debugSlot (s : State) (handle : BitVec 32) : Option JobKey :=
  match s.sec.jobs.find (bitsOf handle.toNat 0 13) with
  | some j => if j.dbg.map (·.handle) = some handle then some j else none
  | none => none

/-- DEBUG_CLOSE (R57). -/
def execDebugClose (t : Ltc) (h : CmdHdr) (handle : BitVec 32) (s : State) : Host.Outcome State Fault Refusal :=
  opcode t h .platform false (fun s =>
    match debugSlot s handle with
    | none => refuseCmd h Status.NOT_FOUND s
    | some j =>
      let jobs := s.sec.jobs.put (bitsOf handle.toNat 0 13) { j with dbg := none }
      okCmd h [] (stopCounters { s with sec := { s.sec with jobs := jobs } })) s

/-- Scan is consented to (R323, R347). -/
def scanConsented (s : State) (slot : Nat) : Bool :=
  if s.sec.tenants.isEmpty then slot = 0xFFFF && s.fuses.lc ≠ 4 else slotGrantsScan s slot

/-- SCAN_ENABLE (R347). -/
def execScanEnable (t : Ltc) (h : CmdHdr) (slot : BitVec 16) (durationUs : BitVec 32) (s : State) :
    Host.Outcome State Fault Refusal :=
  opcode t h .platform false (fun s =>
    if scanConsented s slot.toNat then
      okCmd h [] { s with sec := { s.sec with scan := some { slot := slot, ends := after s (us durationUs.toNat) } } }
    else refuseCmd h Status.CONSENT_REQUIRED s) s

/-- SCAN_EXPIRY (R347): scan ends once its duration is over. -/
def execScanExpiry (t : Ltc) (s : State) : Host.Outcome State Fault Refusal :=
  let s := adv t s
  .next (match s.sec.scan with
    | some x => if x.ends.toNat ≤ now s then { s with sec := { s.sec with scan := none } } else s
    | none => s)

/-! ### Tenants (R331) -/

/-- The RSV bits of a tenant entry are zero (R331). -/
def tenantRsvOk (e : Nat) : Bool := bitsOf e 12 4 = 0 && bitsOf e 30 34 = 0 && bitsOf e 128 384 = 0

/-- A new key: its number, which no key had before, and the state after the draw. -/
def newKey (s : State) : Nat × State := (s.draws + 1, { s with draws := s.draws + 1 })

/-- TENANT_CREATE (R331, R323). -/
def execTenantCreate (t : Ltc) (h : CmdHdr) (e : BitVec 512) (s : State) : Host.Outcome State Fault Refusal :=
  opcode t h .tenant false (fun s =>
    let ten := bitsOf e.toNat 0 10
    if !tenantRsvOk e.toNat then refuseCmd h Status.RSV_NONZERO s
    else if ten ≠ h.tenant.toNat then refuseCmd h Status.BAD_PARAM s
    else if s.fuses.lc ≠ 1 && s.fuses.lc ≠ 2 then refuseCmd h Status.NO_RESOURCE s
    else if (s.sec.tenants.find ten).isSome then refuseCmd h Status.CONFLICT s
    else keyWrite h s fun s =>
      let k := newKey s
      okCmd h [] (endScan { k.2 with sec := { k.2.sec with tenants := k.2.sec.tenants.put ten { entry := e, key := k.1 } } })) s

end Sys2Proof.Machine
end

