-- ==== Sys2Proof/Machine/Link.lean ====
section
/-! DEFINITION. The fabric link layer (R287-R306): training, replay, acknowledgement, credit, retrain and width change. -/

namespace Sys2Proof.Machine

/-- The link state of a port. -/
def lport (s : State) (p : Nat) : LPort := s.link.get {} p

/-- Replaces the link state of a port; REPLAY_USED follows the replay buffer (R306). -/
def setLport (s : State) (p : Nat) (x : LPort) : State :=
  wr { s with link := s.link.set {} p x } (Fld.FAB_PORT_STATUS_REPLAY_USED p) x.replay.length

/-- A port's state (R290). -/
def portState (s : State) (p : Nat) : Nat := rd s (Fld.FAB_PORT_STATUS_STATE p)

/-- A port's lanes in use. -/
def portWidth (s : State) (p : Nat) : Nat := rd s (Fld.FAB_PORT_STATUS_WIDTH p)

/-- A change of state raises a LINK_STATE event, and entering FAILED a fault (R290, R411). WIDTH is 0 unless UP. -/
def setPortState (p new : Nat) (s : State) : State :=
  let old := portState s p
  if old = new then s
  else
    let s := wr s (Fld.FAB_PORT_STATUS_STATE p) new
    let s := if new = 2 then s else wr (wr s (Fld.FAB_PORT_STATUS_WIDTH p) 0) (Fld.FAB_PORT_STATUS_LANE_MASK p) 0
    let s := linkStateEvent false p old new (portWidth s p) s
    if new = 4 then raiseFault { cls := 7, code := 1, sev := 3, kind := 5, index := p } s else s

/-- The widest allowed width whose lanes all appear in a mask, with those lanes (R287, R291). -/
def widestIn (mask : Nat) : Option (Nat × Nat) :=
  let fits := fun (m : Nat) => mask &&& m = m
  ([(16, 0xFFFF), (8, 0x00FF), (8, 0xFF00), (4, 0x000F), (4, 0x00F0), (4, 0x0F00), (4, 0xF000)].find? fun x => fits x.2)

/-- The lanes of a given width that a mask has. -/
def lanesOfWidth (mask w : Nat) : Option Nat :=
  (([(16, 0xFFFF), (8, 0x00FF), (8, 0xFF00), (4, 0x000F), (4, 0x00F0), (4, 0x0F00), (4, 0xF000)].find? fun x =>
    x.1 = w && mask &&& x.2 = x.2).map Prod.snd)

/-- Signal on an aligned group of at least 4 lanes (R291). -/
def alignedSignal (mask : Nat) : Bool := (widestIn mask).isSome

/-- The slot that has begun: slots of 2 cycles of FCLK, 1.47 GHz (R16, R259). -/
def slotNo (s : State) : Nat := now s * 147 / 200

/-- The slots of a port that one cell takes: 16 / w at width w (R302). -/
def cellSlots (s : State) (p : Nat) : Nat := 16 / max 4 (portWidth s p)

/-- n cells are put on a port: it is free again once they have gone, each with AV = 1 or not (R297, R302). -/
def occupy (s : State) (p n : Nat) (av : Bool) (x : LPort) : LPort :=
  let from_ := max (slotNo s) x.freeAt
  { x with freeAt := from_ + n * cellSlots s p, avAt := if av then from_ + 1 else x.avAt }

/-- Unacknowledged cells are discarded and counted, and both directions start LSEQ at 0 again (R291, R299). -/
def dropUnacked (p : Nat) (s : State) : State :=
  let x := lport s p
  let s := bumpBy s (Fld.FAB_PORT_ERR2_LINK_DROPPED p) x.replay.length
  setLport s p { x with replay := [], next := 0, lack := 1023, win := 0, used := [], returned := [] }

/-- Training begins with nothing heard from the other end (R291). -/
def startTraining (p : Nat) (s : State) : State :=
  let x := lport s p
  let x := { x with lanes := none, seenPeer := false, sentSeen := false, peerSeen := false, req := none, change := none,
                    helloAt := slotNo s, failed := 0, unc := [] }
  setPortState p 1 (setLport s p x)

/-- A link-control message of this part (R294). -/
def linkMsgOf (s : State) (msg : Nat) : LinkMsg :=
  { msg := BitVec.ofNat 8 msg, reqNum := 0, uid := s.fuses.uid, partId := sourceId s, sink := false, seen := false,
    pool := 0, reserve := 0, laneMask := 0, width := 0 }

/-- The `HELLO` this part sends on a port: line rate, its lanes, SEEN once it has heard one (R291, R301). -/
def helloMsg (s : State) (p : Nat) : LinkMsg :=
  let x := lport s p
  { linkMsgOf s 1 with seen := x.seenPeer, laneMask := (x.lanes.getD x.signal) }

/-- A message as the payload of its cell (R294). -/
def msgBits (m : LinkMsg) : Nat :=
  packBits [(8, m.msg.toNat), (8, m.reqNum.toNat), (64, m.uid.toNat), (12, m.partId.toNat), (4, 0), (1, b2n m.sink),
    (1, b2n m.seen), (6, 0), (10, m.pool.toNat), (6, 0), (8, m.reserve.toNat), (16, m.laneMask.toNat), (5, m.width.toNat)]

/-- A cell whose header is 0 beyond the link word (R294). -/
def bareCell (payload : Nat) : Cell :=
  { hops := 0, hopPtr := 0, age := 0, dest := 0, src := 0, cls := 0, op := 0, repoch := 0, gen := 0, enc := false, owner := 0,
    sseq := 0, addr := 0, lines := 0, plines := 0, meta128 := 0, payload := BitVec.ofNat 4096 payload, check := 0 }

/-- The link-control cell of a message, with the CRC of R263 (R294). -/
def msgCell (m : LinkMsg) : Cell := withCrc (bareCell (msgBits m))

/-- The message of a link-control cell; none where it fails the CRC or its MSG is unassigned (R294). -/
def readMsg (c : Cell) : Option LinkMsg :=
  let p := c.payload.toNat
  let f (i n : Nat) : Nat := bitsOf p i n
  if c.check ≠ cellCrc c || f 0 8 = 0 || decide (4 < f 0 8) then none
  else
    some { msg := BitVec.ofNat 8 (f 0 8), reqNum := BitVec.ofNat 8 (f 8 8), uid := BitVec.ofNat 64 (f 16 64),
           partId := BitVec.ofNat 12 (f 80 12), sink := bitAt p 96, seen := bitAt p 97, pool := BitVec.ofNat 10 (f 104 10),
           reserve := BitVec.ofNat 8 (f 120 8), laneMask := BitVec.ofNat 16 (f 128 16), width := BitVec.ofNat 5 (f 144 5) }

/-- The message of a MSG code that a link-control cell carries. -/
def readMsgOf (code : Nat) (c : Cell) : Option LinkMsg := (readMsg c).filter fun m => m.msg.toNat = code

/-- The link word of a cell that is no data cell: LSEQ 0, no acknowledgement (R294). -/
def plainWord (kind : BitVec 2) : LinkWord :=
  { lseq := 0, lack := 0, sack := 0, kind := kind, retx := false, av := false, cclass := 7, credits := 0 }

/-- A message leaves on a port in a link-control cell (R294). -/
def sendMsg (p : Nat) (m : LinkMsg) (s : State) : State :=
  emit (.linkCell (BitVec.ofNat 4 p) (plainWord 2) (msgCell m)) (setLport s p (occupy s p 1 false (lport s p)))

/-- The neighbour's credit mode can be accepted (R301). -/
def sinkOk (s : State) (p : Nat) : Bool :=
  let x := lport s p
  !rdb s (Fld.FAB_PORT_STATUS_NEIGH_SINK p) ||
    (rdb s Fld.FAB_LINK_CTRL_ACCEPT_CREDIT && decide (2 ≤ x.reserve.toNat) &&
      decide (7 * x.reserve.toNat + 16 ≤ x.pool.toNat))

/-- The port enters UP once its lanes are known and a `HELLO` with SEEN = 1 has been sent and received, or FAILED where no
width or no sink mode suits (R291, R301). -/
def tryUp (p : Nat) (s : State) : State :=
  let x := lport s p
  if portState s p ≠ 1 || x.change.isSome then s
  else
    match x.lanes with
    | none => s
    | some l =>
      if !(x.seenPeer && x.sentSeen && x.peerSeen) then s
      else
        let mask := l.toNat &&& x.peerLanes.toNat
        match widestIn mask with
        | none => setPortState p 4 s
        | some (w, m) =>
          if !sinkOk s p then setPortState p 4 s
          else
            let x := { x with good := BitVec.ofNat 16 mask, next := 0, replay := [], lack := 1023, win := 0,
                              used := [], returned := [] }
            let s := setLport s p x
            let s := wr (wr s (Fld.FAB_PORT_STATUS_WIDTH p) w) (Fld.FAB_PORT_STATUS_LANE_MASK p) m
            setPortState p 2 s

/-- SIGNAL_DETECT (R291). -/
def execSignalDetect (t : Ltc) (port : BitVec 4) (lanes : BitVec 16) (s : State) : Host.Outcome State Fault Refusal :=
  let s := adv t s
  let p := port.toNat
  let s := setLport s p { lport s p with signal := lanes }
  .next (if portState s p = 0 && alignedSignal lanes.toNat then startTraining p s else s)

/-- TRAINING_COMPLETE (R291): the lanes this end receives well are known. -/
def execTrainingComplete (t : Ltc) (port : BitVec 4) (lanes : BitVec 16) (s : State) : Host.Outcome State Fault Refusal :=
  let s := adv t s
  let p := port.toNat
  .next (if portState s p = 1 then
      let s := setLport s p { lport s p with lanes := some lanes }
      if alignedSignal lanes.toNat then tryUp p s else setPortState p 4 s
    else s)

/-- A `HELLO` says what the neighbour is; during training, also what it receives and how it sinks (R291, R292). -/
def takeHello (p : Nat) (m : LinkMsg) (s : State) : State :=
  let s := wr s (Fld.FAB_PORT_STATUS_NEIGH_PART p) m.partId.toNat
  let s := wr s (Fld.FAB_PORT_UID_NEIGH_UID p) m.uid.toNat
  let s := wr s (Fld.FAB_PORT_STATUS_NEIGH_SINK p) (b2n m.sink)
  let x := lport s p
  let x := if portState s p = 1 then
      { x with seenPeer := true, peerSeen := x.peerSeen || m.seen, peerLanes := m.laneMask, pool := m.pool,
               reserve := m.reserve }
    else x
  tryUp p (setLport s p x)

/-- HELLO (R291, R292, R294). -/
def execHello (t : Ltc) (port : BitVec 4) (c : Cell) (s : State) : Host.Outcome State Fault Refusal :=
  let s := adv t s
  let p := port.toNat
  .next (match readMsgOf 1 c with
    | some m => if portState s p = 1 || portState s p = 2 then takeHello p m s else s
    | none => s)

/-- HELLO_TIMER (R291): during training a `HELLO` goes out every 64 slots. -/
def execHelloTimer (t : Ltc) (port : BitVec 4) (s : State) : Host.Outcome State Fault Refusal :=
  let s := adv t s
  let p := port.toNat
  .next (if portState s p = 1 && decide ((lport s p).helloAt ≤ slotNo s) then
      let m := helloMsg s p
      let s := sendMsg p m s
      tryUp p (setLport s p { lport s p with sentSeen := (lport s p).sentSeen || m.seen, helloAt := slotNo s + 64 })
    else s)

/-! ### Sending data cells (R295, R301) -/

/-- The acknowledgement fields this end sends (R297): LACK and the bits of LACK + 2.. -/
def linkWordOf (s : State) (p : Nat) (lseq : BitVec 10) (kind : BitVec 2) (retx : Bool) : LinkWord :=
  let x := lport s p
  { lseq := lseq, lack := x.lack, sack := BitVec.ofNat 32 (x.win.toNat / 2), kind := kind, retx := retx, av := true,
    cclass := 7, credits := 0 }

/-- Credit lets a cell of a class be sent (R301). -/
def creditOk (s : State) (p cls : Nat) : Bool :=
  let x := lport s p
  if !rdb s (Fld.FAB_PORT_STATUS_NEIGH_SINK p) then true
  else
    let res := x.reserve.toNat
    let shared := (x.used.map fun e => e.2 - res).foldl (· + ·) 0
    decide (x.used.get 0 cls < res) || decide (shared < x.pool.toNat - 7 * res)

/-- Nothing is on its way out of a port: it is free in one slot out of 16 / w (R302). -/
def slotFree (s : State) (p : Nat) : Bool := decide ((lport s p).freeAt ≤ slotNo s)

/-- A port can take a new cell of a class: UP, room in the replay buffer, credit (R290, R295, R301). -/
def canTake (s : State) (p cls : Nat) : Bool :=
  portState s p = 2 && decide ((lport s p).replay.length < 512) && creditOk s p cls && slotFree s p

/-- A port that is UP but has no replay room or credit is counted unavailable, once in a slot (R306 FULL_SLOTS). -/
def countFull (p cls : Nat) (s : State) : State :=
  let x := lport s p
  if portState s p = 2 && (decide (512 ≤ x.replay.length) || !creditOk s p cls) && x.fullAt ≠ some (slotNo s) then
    bump (setLport s p { x with fullAt := some (slotNo s) }) (Fld.FAB_PORT_ERR2_FULL_SLOTS p)
  else s

/-- In a slot in which a port sends nothing else it sends an idle cell, with AV = 1 where no cell with AV = 1 has left in the
15 slots before (R297). -/
def sendIdle (p : Nat) (s : State) : State :=
  if portState s p ≠ 2 || !slotFree s p then s
  else
    let x := lport s p
    let av := decide (x.avAt + 15 ≤ slotNo s)
    let w := if av then { linkWordOf s p 0 1 false with lseq := 0 } else plainWord 1
    emit (.linkCell (BitVec.ofNat 4 p) w (bareCell 0)) (setLport s p (occupy s p 1 av x))

/-- A new data cell leaves on a port under the next LSEQ and is held (R295). -/
def linkSend (p : Nat) (c : Cell) (s : State) : State :=
  let x := lport s p
  let cls := c.cls.toNat
  let used := if rdb s (Fld.FAB_PORT_STATUS_NEIGH_SINK p) then x.used.set 0 cls (x.used.get 0 cls + 1) else x.used
  let w := linkWordOf s p x.next 0 false
  let held : HeldCell := { lseq := x.next, cell := c, first := after s 0, latest := after s 0 }
  let s := setLport s p (occupy s p 1 true { x with next := x.next + 1, replay := x.replay ++ [held], used := used })
  emit (.linkCell (BitVec.ofNat 4 p) w c) s

/-- Held cells for which `pick` holds are sent again with RETX = 1 (R298, R299). -/
def linkResend (p : Nat) (pick : HeldCell → Bool) (gap : Bool) (s : State) : State :=
  let x := lport s p
  let again := x.replay.filter pick
  let s := again.foldl (fun s c => emit (.linkCell (BitVec.ofNat 4 p) (linkWordOf s p c.lseq 0 true) c.cell) s) s
  let s := bumpBy s (Fld.FAB_PORT_ERR_RETX_CELLS p) again.length
  let mark (c : HeldCell) : HeldCell :=
    if pick c then { c with latest := after s 0, h := if gap then some (x.next - 1) else c.h } else c
  let y := { x with replay := x.replay.map mark }
  setLport s p (if again.isEmpty then y else occupy s p again.length true y)

/-! ### Acknowledgements (R297, R298) -/

/-- An LSEQ is acknowledged by a link word: LACK covers it or its SACK bit is set. -/
def acked (w : LinkWord) (q : BitVec 10) : Bool :=
  decide ((w.lack - q).toNat < 512) ||
    (let d := (q - w.lack).toNat
     decide (2 ≤ d) && decide (d < 34) && bitAt w.sack.toNat (d - 2))

/-- Some SACK bit of a later LSEQ is set. -/
def laterMarked (w : LinkWord) (q : BitVec 10) : Bool :=
  (List.range 32).any fun i => bitAt w.sack.toNat i && decide ((q - w.lack).toNat < i + 2)

/-- An acknowledgement marks a cell later than the horizon h (R298). -/
def marksAfter (w : LinkWord) (h : BitVec 10) : Bool :=
  let later (q : BitVec 10) : Bool := decide (0 < (q - h).toNat) && decide ((q - h).toNat < 512)
  later w.lack || (List.range 32).any fun i => bitAt w.sack.toNat i && later (w.lack + 2 + BitVec.ofNat 10 i)

/-- The gap evidence of R298 retransmits a held cell. -/
def gapEvidence (w : LinkWord) (c : HeldCell) : Bool :=
  let d := (c.lseq - w.lack).toNat
  decide (1 ≤ d) && decide (d ≤ 33) && !acked w c.lseq && laterMarked w c.lseq &&
    (match c.h with | none => true | some h => marksAfter w h)

/-- Credits returned for a class, a cumulative count modulo 32 (R301). -/
def takeCredits (p : Nat) (w : LinkWord) (s : State) : State :=
  if w.cclass = 7 then s
  else
    let x := lport s p
    let c := w.cclass.toNat
    let back := (w.credits - x.returned.get 0 c).toNat
    setLport s p { x with used := x.used.set 0 c (x.used.get 0 c - back), returned := x.returned.set 0 c w.credits }

/-- The ACK fields of an arriving cell: covered cells are freed, gaps retransmitted (R297, R298). -/
def takeLinkAck (p : Nat) (w : LinkWord) (s : State) : State :=
  if !w.av then s
  else
    let x := lport s p
    let s := setLport s p { x with replay := x.replay.filter fun c => !acked w c.lseq }
    linkResend p (gapEvidence w) true s

/-- LACK advances over the set bits of the receive window (R296); fuel bounds the advance. -/
def advanceLack : Nat → LPort → LPort
  | 0, x => x
  | n + 1, x =>
    if x.win.getLsbD 0 then advanceLack n { x with lack := x.lack + 1, win := x.win >>> 1 } else x

/-- A good data cell: inside the window and new, it goes to the router; otherwise it is a duplicate (R296). -/
def takeData (p : Nat) (w : LinkWord) (c : Cell) (s : State) : State :=
  let x := lport s p
  let d := (w.lseq - x.lack - 1).toNat
  if d < 512 && !x.win.getLsbD d then
    let x := advanceLack 512 { x with win := x.win ||| (1 <<< d) }
    emit (.toRouter (BitVec.ofNat 4 p) c) (setLport s p x)
  else bump s (Fld.FAB_PORT_ERR_DUP_CELLS p)

/-- What the FEC decoder found is counted, uncorrectable codewords also for the last millisecond (R289, R302). -/
def countFec (p : Nat) (f : Fec) (s : State) : State :=
  let s := bumpBy (bumpBy s (Fld.FAB_PORT_ERR_CORR_SYMBOLS p) f.corrected.toNat) (Fld.FAB_PORT_ERR_UNCORR_CW p)
    f.uncorrectable.toNat
  if f.uncorrectable = 0 then s
  else
    let x := lport s p
    let recent := x.unc.filter fun e => decide (now s < e.1.toNat + us 1000)
    setLport s p { x with unc := recent ++ [(after s 0, f.uncorrectable.toNat)] }

/-- A port takes cells: UP, or within a width change (R302). -/
def receives (s : State) (p : Nat) : Bool := portState s p = 2 || (portState s p = 1 && (lport s p).change.isSome)

/-- LINK_DATA_CELL (R289, R294, R296). -/
def execLinkDataCell (t : Ltc) (port : BitVec 4) (fec : Fec) (w : LinkWord) (c : Cell) (s : State) :
    Host.Outcome State Fault Refusal :=
  let s := adv t s
  let p := port.toNat
  .next (if !receives s p then s
    else
      let s := countFec p fec s
      if fec.uncorrectable ≠ 0 || fec.overlaps || w.kind = 3 then s
      else
        let s := takeLinkAck p w (takeCredits p w s)
        if w.kind = 0 then takeData p w c s else s)

/-- REPLAY_TIMER (R299): the oldest unacknowledged cell has gone 2 µs since its latest sending. -/
def execReplayTimer (t : Ltc) (port : BitVec 4) (s : State) : Host.Outcome State Fault Refusal :=
  let s := adv t s
  let p := port.toNat
  .next (match (lport s p).replay with
    | [] => s
    | c :: _ =>
      if portState s p = 2 && decide (c.latest.toNat + us 2 ≤ now s) then
        linkResend p (fun _ => true) false (bump s (Fld.FAB_PORT_ERR2_TIMER_EXPIRIES p))
      else s)

/-! ### Retrain and width change (R302, R303) -/

/-- A request of this end goes out under a new number (R294). -/
def askLink (p : Nat) (width lanes : Nat) (auto : Bool) (s : State) : State :=
  let x := lport s p
  let n := x.reqNum + 1
  let r : LinkReq := ⟨n, BitVec.ofNat 5 width, BitVec.ofNat 16 lanes, auto⟩
  let m := { linkMsgOf s (if width = 0 then 2 else 3) with reqNum := n, laneMask := r.lanes, width := r.width }
  sendMsg p m (setLport s p { x with reqNum := n, req := some r, reqAt := slotNo s + 64 })

/-- A retrain of this end is asked for already. -/
def retrainAsked (s : State) (p : Nat) : Bool := match (lport s p).req with | some r => r.width = 0 | none => false

/-- A fast retrain of an UP port is asked for, unless one is (R291, R302). -/
def askRetrain (p : Nat) (s : State) : State :=
  if portState s p = 2 && !retrainAsked s p then askLink p 0 0 false s else s

/-- The retrain goes ahead: unacknowledged cells are discarded and training begins (R291, R299). -/
def goRetrain (p : Nat) (s : State) : State :=
  startTraining p (dropUnacked p (bump s (Fld.FAB_PORT_ERR2_RETRAINS p)))

/-- The width change goes ahead; LSEQ, replay buffer and window stay (R302). -/
def goWidth (p : Nat) (r : LinkReq) (s : State) : State :=
  let s := bump s (Fld.FAB_PORT_ERR2_RETRAINS p)
  setPortState p 1 (setLport s p { lport s p with req := none, change := some r })

/-- This end's own outstanding request goes ahead of the neighbour's: it has the higher UID (R303). -/
def ownWins (s : State) (p : Nat) (m : LinkMsg) : Bool :=
  (lport s p).req.isSome && decide (m.uid.toNat < s.fuses.uid.toNat)

/-- A request of the neighbour is acknowledged (R294). -/
def ackReq (p : Nat) (m : LinkMsg) (s : State) : State := sendMsg p { linkMsgOf s 4 with reqNum := m.reqNum } s

/-- A request of the neighbour for a retrain (R303). -/
def takeRetrainReq (p : Nat) (m : LinkMsg) (s : State) : State :=
  if ownWins s p m then s else goRetrain p (ackReq p m s)

/-- RETRAIN_REQ (R294, R303). -/
def execRetrainReq (t : Ltc) (port : BitVec 4) (c : Cell) (s : State) : Host.Outcome State Fault Refusal :=
  let s := adv t s
  let p := port.toNat
  .next (match readMsgOf 2 c with
    | some m => if receives s p then takeRetrainReq p m s else s
    | none => s)

/-- A request of the neighbour for a width change; one that names no allowed width goes no further (R302, R303, log entry 56). -/
def takeWidthReq (p : Nat) (m : LinkMsg) (s : State) : State :=
  if ownWins s p m || lanesOfWidth m.laneMask.toNat m.width.toNat ≠ some m.laneMask.toNat then s
  else goWidth p ⟨m.reqNum, m.width, m.laneMask, false⟩ (ackReq p m s)

/-- WIDTH_REQ (R294, R302, R303). -/
def execWidthReq (t : Ltc) (port : BitVec 4) (c : Cell) (s : State) : Host.Outcome State Fault Refusal :=
  let s := adv t s
  let p := port.toNat
  .next (match readMsgOf 3 c with
    | some m => if portState s p = 2 then takeWidthReq p m s else s
    | none => s)

/-- REQ_ACK (R294, R302): the request with the same REQ_NUM proceeds. -/
def execReqAck (t : Ltc) (port : BitVec 4) (c : Cell) (s : State) : Host.Outcome State Fault Refusal :=
  let s := adv t s
  let p := port.toNat
  .next (match readMsgOf 4 c, (lport s p).req with
    | some m, some r =>
      if r.num = m.reqNum && portState s p = 2 then (if r.width = 0 then goRetrain p s else goWidth p r s) else s
    | _, _ => s)

/-- The message of an outstanding request (R294). -/
def requestMsg (s : State) (r : LinkReq) : LinkMsg :=
  { linkMsgOf s (if r.width = 0 then 2 else 3) with reqNum := r.num, laneMask := r.lanes, width := r.width }

/-- LINK_CONTROL_RESEND (R294): an unanswered request is sent again every 64 slots. -/
def execLinkControlResend (t : Ltc) (port : BitVec 4) (s : State) : Host.Outcome State Fault Refusal :=
  let s := adv t s
  let p := port.toNat
  .next (match (lport s p).req with
    | some r =>
      if slotNo s < (lport s p).reqAt then s
      else sendMsg p (requestMsg s r) (setLport s p { lport s p with reqAt := slotNo s + 64 })
    | none => s)

/-- WIDTH_CHANGE_DONE (R302): both ends have restriped; a narrowing by AUTO_WIDTH is reported (R411). -/
def execWidthChangeDone (t : Ltc) (port : BitVec 4) (s : State) : Host.Outcome State Fault Refusal :=
  let s := adv t s
  let p := port.toNat
  .next (match (lport s p).change with
    | some r =>
      if portState s p = 1 then
        let s := setLport s p { lport s p with change := none }
        let s := wr (wr s (Fld.FAB_PORT_STATUS_WIDTH p) r.width.toNat) (Fld.FAB_PORT_STATUS_LANE_MASK p) r.lanes.toNat
        let s := setPortState p 2 s
        if r.auto then raiseFault { cls := 7, code := 2, sev := 1, kind := 5, index := p } s else s
      else s
    | none => s)

/-- UNACKED_LIMIT (R299): a cell is unacknowledged 16 µs after its first sending. -/
def execUnackedLimit (t : Ltc) (port : BitVec 4) (s : State) : Host.Outcome State Fault Refusal :=
  let s := adv t s
  let p := port.toNat
  .next (if (lport s p).replay.any fun c => decide (c.first.toNat + us 16 ≤ now s) then
      (if (lport s p).change.isSome then goRetrain p s else askRetrain p s)
    else s)

/-- SIGNAL_LOSS (R291, R304): 10 µs without signal; the port goes to ABSENT and its unacknowledged cells are discarded. -/
def execSignalLoss (t : Ltc) (port : BitVec 4) (s : State) : Host.Outcome State Fault Refusal :=
  let s := adv t s
  let p := port.toNat
  let s := setLport s p { lport s p with signal := 0 }
  .next (if portState s p = 1 || portState s p = 2 then
      setPortState p 0 (dropUnacked p (setLport s p { lport s p with req := none, change := none, lanes := none }))
    else s)

/-- LANE_FAILURE (R302): with AUTO_WIDTH the widest width without the lane is asked for. -/
def execLaneFailure (t : Ltc) (port : BitVec 4) (lane : BitVec 4) (s : State) : Host.Outcome State Fault Refusal :=
  let s := adv t s
  let p := port.toNat
  let x := lport s p
  let failed := putBit x.failed.toNat lane.toNat true
  let good := x.good.toNat &&& (0xFFFF - failed)
  let s := setLport s p { x with failed := BitVec.ofNat 16 failed }
  .next (if portState s p = 2 && rdb s Fld.FAB_LINK_CTRL_AUTO_WIDTH && bitAt (rd s (Fld.FAB_PORT_STATUS_LANE_MASK p)) lane.toNat
    then
      match widestIn good with
      | some (w, m) => askLink p w m true s
      | none => s
    else s)

/-- UNCORR_LIMIT (R302): more than UNCORR_LIMIT uncorrectable codewords in one millisecond; 0 means never. -/
def execUncorrLimit (t : Ltc) (port : BitVec 4) (s : State) : Host.Outcome State Fault Refusal :=
  let s := adv t s
  let p := port.toNat
  let recent := (lport s p).unc.filter fun e => decide (now s < e.1.toNat + us 1000)
  let limit := rd s Fld.FAB_LINK_CTRL_UNCORR_LIMIT
  .next (if limit ≠ 0 && decide (limit < (recent.map Prod.snd).foldl (· + ·) 0) then askRetrain p s else s)

/-! ### PORT_CONTROL (R293) and NEIGHBOURS (R292) -/

/-- PORT_DISABLE: action 0 of `PORT_CONTROL`; a command with an action that no row has is refused here (R293). -/
def execPortDisable (t : Ltc) (h : CmdHdr) (port action width : Byte) (s : State) : Host.Outcome State Fault Refusal :=
  opcode t h .platform false (fun s =>
    let p := port.toNat
    if 16 ≤ p || action ≠ 0 || width ≠ 0 then refuseCmd h Status.BAD_PARAM s
    else
      let s := dropUnacked p s
      let s := setLport s p { lport s p with req := none, change := none, lanes := none }
      okCmd h [] (setPortState p 3 s)) s

/-- PORT_ENABLE: action 1 of `PORT_CONTROL`. -/
def execPortEnable (t : Ltc) (h : CmdHdr) (port width : Byte) (s : State) : Host.Outcome State Fault Refusal :=
  opcode t h .platform false (fun s =>
    let p := port.toNat
    if 16 ≤ p || width ≠ 0 then refuseCmd h Status.BAD_PARAM s
    else if portState s p = 3 || portState s p = 4 then
      let s := if alignedSignal (lport s p).signal.toNat then startTraining p s else setPortState p 0 s
      okCmd h [] s
    else okCmd h [] s) s

/-- FAST_RETRAIN: action 2 of `PORT_CONTROL`, or started otherwise. -/
def execFastRetrain (t : Ltc) (h : Option CmdHdr) (port width : Byte) (s : State) : Host.Outcome State Fault Refusal :=
  match h with
  | none => .next (if port.toNat < 16 then askRetrain port.toNat (adv t s) else adv t s)
  | some h =>
    opcode t h .platform false (fun s =>
      let p := port.toNat
      if 16 ≤ p || width ≠ 0 || portState s p ≠ 2 then refuseCmd h Status.BAD_PARAM s
      else okCmd h [] (askRetrain p s)) s

/-- WIDTH_CHANGE: action 3 of `PORT_CONTROL`. -/
def execWidthChange (t : Ltc) (h : CmdHdr) (port width : Byte) (s : State) : Host.Outcome State Fault Refusal :=
  opcode t h .platform false (fun s =>
    let p := port.toNat
    if 16 ≤ p || portState s p ≠ 2 then refuseCmd h Status.BAD_PARAM s
    else
      match lanesOfWidth (lport s p).good.toNat width.toNat with
      | none => refuseCmd h Status.BAD_PARAM s
      | some m => okCmd h [] (askLink p width.toNat m false s)) s

/-- The 16-byte entry of a port in the reply to `NEIGHBOURS` (R292). -/
def neighbourEntry (s : State) (p : Nat) : List Byte :=
  let x := lport s p
  leBytes 16 (packBits [(3, portState s p), (5, if portState s p = 2 then portWidth s p else 0),
    (12, rd s (Fld.FAB_PORT_STATUS_NEIGH_PART p)), (1, rd s (Fld.FAB_PORT_STATUS_NEIGH_SINK p)), (11, 0),
    (64, rd s (Fld.FAB_PORT_UID_NEIGH_UID p)), (16, x.good.toNat)])

/-- NEIGHBOURS (R292). -/
def execNeighbours (t : Ltc) (h : CmdHdr) (s : State) : Host.Outcome State Fault Refusal :=
  opcode t h .platform false (fun s => okCmd h ((List.range 16).map (neighbourEntry s)).flatten s) s

/-- A fresh `HELLO` goes out on every UP port, without a retrain (R291). -/
def freshHellos (s : State) : State :=
  (List.range 16).foldl (fun s p =>
    if portState s p = 2 then sendMsg p { helloMsg s p with seen := true } s else s) s

end Sys2Proof.Machine
end

