-- ==== Sys2Proof/Machine/AnvilPair.lean ====
section
/-! DEFINITION. The Anvil pair: token, lease, takeover, Touchstone, firmware (R354-R368), and the commands that name the part,
its events and its relay list (R41, R55, R57, R402). -/

namespace Sys2Proof.Machine

/-! ### Part ID, events, relay list -/

/-- ASSIGN_PART_ID (R57, R402): part IDs run 0..4095 (R9). -/
def execAssignPartId (t : Ltc) (h : CmdHdr) (id : BitVec 16) (s : State) : Host.Outcome State Fault Refusal :=
  opcode t h .platform false (fun s =>
    if 0xFFF < id.toNat then refuseCmd h Status.BAD_PARAM s
    else if !s.mem.ingots.isEmpty then refuseCmd h Status.NOT_PERMITTED s
    else okCmd h [] (freshHellos { s with ctl := { s.ctl with partId := some (BitVec.ofNat 12 id.toNat) } })) s

/-- An EVENT_SEQ is covered by the highest one acknowledged. -/
def eventCovered (ack seq : BitVec 32) : Bool := decide ((ack - seq).toNat < 2 ^ 31)

/-- EVENT_ACK (R55). -/
def execEventAck (t : Ltc) (h : CmdHdr) (eventSeq : BitVec 32) (s : State) : Host.Outcome State Fault Refusal :=
  opcode t h .platform false (fun s =>
    let s := okCmd h [] s
    let s := { s with ctl := { s.ctl with events := s.ctl.events.filter fun e => !eventCovered eventSeq e.seq } }
    reportLost s) s

/-- RELAY_LIST_SET (R41). -/
def execRelayListSet (t : Ltc) (h : CmdHdr) (parts : List (BitVec 16)) (s : State) : Host.Outcome State Fault Refusal :=
  opcode t h .platform false (fun s =>
    if 63 < parts.length || parts.any (fun p => decide (0xFFF < p.toNat)) then refuseCmd h Status.BAD_PARAM s
    else okCmd h [] { s with ctl := { s.ctl with relayList := parts.map fun p => BitVec.ofNat 12 p.toNat } }) s

/-! ### States of an Anvil (R355, R356) -/

/-- What waited for an Anvil that can send leaves (R36, R55). -/
def resumeOutput (s : State) : State :=
  if inGap s then s
  else
    let go (p : KPort) (s : State) : State := if portUp s p then kDrain 512 p s else s
    let s := go .b (go .a s)
    let l := s.ctl.heldReplies
    flushEvents (l.foldl (fun s x => answerNow x.1 x.2 s) { s with ctl := { s.ctl with heldReplies := [] } })

/-- An Anvil can still take over from a holder that no longer runs (R358, R368). -/
def mayTakeOver (a : Anvil) : Bool := (a.state = 3 && a.healthy) || a.state = 2

/-- A token that names an Anvil which no longer runs is no one's when the other cannot take it over (R368, log entry 45). -/
def settleToken (s : State) : State :=
  match s.anv.token with
  | none => s
  | some d =>
    if (anvil s d).state = 4 || mayTakeOver (anvil s d.other) then s
    else resumeOutput { s with anv := { s.anv with token := none } }

/-- The `FW_ACTIVATE` of an Anvil that reached its new state is answered, and the staging area cleared (R366). -/
def endActivation (d : FDie) (ok : Bool) (s : State) : State :=
  match (anvil s d).activating with
  | none => s
  | some h =>
    let s := setAnvil d { anvil s d with activating := none } s
    finish h (if ok then Status.OK else Status.INTERNAL_ERROR) [] { s with anv := { s.anv with staging := {} } }

/-- An Anvil is forced into LOADER for a cause (R356); causes other than `RESET` are reported (R411). -/
def forceLoader (d : FDie) (cause : Nat) (s : State) : State :=
  let s := setAnvil d { anvil s d with
    state := 1, testing := false, fw := 0, image := 0, entry := 0, lastFault := BitVec.ofNat 4 cause } s
  let s := endActivation d false s
  settleToken (if cause = 5 then s else raiseFault { cls := 9, code := 3, sev := 1, kind := 10, index := d.num } s)

/-- The lease of a holder that begins now. -/
def newLease (s : State) : Ltc := after s (us 25)

/-- An Anvil becomes the holder: its lease begins and its passes stop (R357, R362). -/
def becomeHolder (d : FDie) (s : State) : State :=
  let s := setAnvil d { anvil s d with state := 4, testing := false, lastBeat := after s 0 } s
  { s with anv := { s.anv with token := some d, lease := newLease s } }

/-- An Anvil enters STANDBY: its watch of the two paths and its passes begin. -/
def becomeStandby (d : FDie) (s : State) : State :=
  let s := setAnvil d { anvil s d with state := 3, testing := true, lastBeat := after s 0, pathFailed := 0 } s
  { s with anv := { s.anv with sideband := after s 0, mailbox := after s 0 } }

/-! ### Heartbeats (R356, R357) -/

/-- HEARTBEAT (R357): the holder's. -/
def execHeartbeat (t : Ltc) (s : State) : Host.Outcome State Fault Refusal :=
  let s := adv t s
  .next (match s.anv.token with
    | none => s
    | some d =>
      if (anvil s d).state = 4 then
        let wasGap := inGap s
        let s := setAnvil d { anvil s d with lastBeat := after s 0 } s
        let s := { s with anv := { s.anv with lease := newLease s, beats := s.anv.beats + 1 } }
        if wasGap then resumeOutput s else s
      else s)

/-- HEARTBEAT_LOSS (R356). -/
def execHeartbeatLoss (t : Ltc) (a : FDie) (s : State) : Host.Outcome State Fault Refusal :=
  let s := adv t s
  let x := anvil s a
  .next (if (x.state = 3 || x.state = 4) && decide (x.lastBeat.toNat + us 25 ≤ now s) then forceLoader a 1 s else s)

/-- FENCED (R356): a former holder that believes itself ACTIVE writes the mailbox. -/
def execFenced (t : Ltc) (a : FDie) (s : State) : Host.Outcome State Fault Refusal :=
  let s := adv t s
  .next (if (anvil s a).state = 4 && s.anv.token ≠ some a then forceLoader a 2 s else s)

/-- ISRAM (R356): an Anvil that runs firmware meets an uncorrectable word of it. -/
def execIsram (t : Ltc) (a : FDie) (s : State) : Host.Outcome State Fault Refusal :=
  let s := adv t s
  .next (if 2 ≤ (anvil s a).state.toNat then forceLoader a 3 s else s)

/-! ### Takeover (R358, R359) -/

/-- A reply that waits is held across the switch-over (R48). -/
def KPacket.asHeld : KPacket → KPacket
  | .reply r => .reply { r with held := true }
  | k => k

/-- Replies with a journal entry that wait at a port are taken back for the new holder to send; the others that wait are held
over (R359). -/
def recallReplies (s : State) : State :=
  let mine (k : KPacket) : Bool := match k with
    | .reply r => s.ctl.journal.any fun e => e.reply = some r
    | _ => false
  let drop (l : KLink) : KLink :=
    { l with waiting := (l.waiting.filter fun x => !mine x.2).map fun x => (x.1, x.2.asHeld) }
  { s with ctl := { s.ctl with
    kA := drop s.ctl.kA, kB := drop s.ctl.kB
    heldReplies := s.ctl.heldReplies.map fun x => (x.1, { x.2 with held := true }) } }

/-- What the new holder does with a journal entry (R359). -/
def inheritEntry (e : JEntry) : JEntry :=
  match e.st with
  | .queued => { e with held := true }
  | .running _ => { e with st := .queued, held := true, reexec := true, interims := 0 }
  | .replied =>
    if e.unsent then { e with held := true, reply := e.reply.map fun r => { r with held := true } } else e

/-- The standby takes the token: the journal passes to it in order, held replies and events leave (R359). -/
def takeToken (d : FDie) (s : State) : State :=
  let beat := (anvil s d.other).lastBeat
  let s := bump (becomeHolder d s) Fld.ANV_SWITCH_SWITCHOVERS
  let s := mapJournal inheritEntry (recallReplies s)
  let s := { s with anv := { s.anv with takeover := some (d.other, beat, after s 0) } }
  let s := s.ctl.journal.foldl (fun s e => retryReply e s) s
  resumeOutput s

/-- A heartbeat path of the standby has failed: counted and marked once, and reported (R358). -/
def pathFault (d : FDie) (bit : Nat) (s : State) : State :=
  let a := anvil s d
  if bitAt a.pathFailed.toNat bit then s
  else
    let s := setAnvil d { a with pathFailed := BitVec.ofNat 8 (putBit a.pathFailed.toNat bit true) } s
    raiseFault { cls := 9, code := 2, sev := 1, kind := 10, index := d.num } (bump s Fld.ANV_SWITCH_PATH_FAULTS)

/-- The Anvil in STANDBY, if one is. -/
def standby (s : State) : Option FDie := if s.anv.a.state = 3 then some .f0 else if s.anv.b.state = 3 then some .f1 else none

/-- The lease has expired. -/
def leaseOver (s : State) : Bool := decide (s.anv.lease.toNat ≤ now s)

/-- One sample of the standby (R358): what it saw on each path since the sample before. -/
def sampleStandby (d : FDie) (mailboxSeen sidebandSeen : Bool) (s : State) : State :=
  let s := { s with anv := { s.anv with
    mailbox := if mailboxSeen then after s 0 else s.anv.mailbox
    sideband := if sidebandSeen then after s 0 else s.anv.sideband } }
  let mailSilent := decide (s.anv.mailbox.toNat + us 25 ≤ now s)
  let sideSilent := decide (s.anv.sideband.toNat + us 25 ≤ now s)
  if (anvil s d).healthy && leaseOver s && sideSilent then takeToken d s
  else if mailSilent && !sideSilent then pathFault d 2 s
  else if sideSilent && !mailSilent then pathFault d 3 s
  else if !mailSilent && !sideSilent then setAnvil d { anvil s d with pathFailed := 0 } s
  else s

/-- STANDBY_SAMPLE (R358). -/
def execStandbySample (t : Ltc) (mailboxSeen sidebandSeen : Bool) (s : State) : Host.Outcome State Fault Refusal :=
  let s := adv t s
  .next (match standby s with
    | none => s
    | some d => if s.anv.token = some d then s else sampleStandby d mailboxSeen sidebandSeen s)

/-! ### Touchstone (R362, R363) -/

/-- Tests 0, 1, 4, 6 and 7 passed. -/
def passHealthy (failed : Nat) : Bool := !(bitAt failed 0 || bitAt failed 1 || bitAt failed 4 || bitAt failed 6 || bitAt failed 7)

/-- A fatal test failed: 0, 1 or 6. -/
def passFatal (failed : Nat) : Bool := bitAt failed 0 || bitAt failed 1 || bitAt failed 6

/-- Any failure is reported with the FAILED bits (R362, R411, R412). -/
def reportPass (d : FDie) (failed : Nat) (s : State) : State :=
  if failed = 0 then s
  else raiseFault { cls := 9, code := 1, sev := if passFatal failed then 3 else 1, kind := 10, index := d.num, detail := failed } s

/-- What a pass leaves in the report. -/
def notePass (d : FDie) (failed : Nat) (s : State) : State :=
  let a := anvil s d
  setAnvil d { a with
    failed := BitVec.ofNat 8 failed, healthy := passHealthy failed, passes := BitVec.ofNat 32 (satInc (2 ^ 32 - 1) a.passes.toNat 1)
    lastPass := BitVec.ofNat 48 (now48 s) } s

/-- The end of the first pass of an image (R366). -/
def firstPass (d : FDie) (s : State) : State :=
  if !(anvil s d).healthy then forceLoader d 4 s
  else
    let s := if s.anv.token.isNone then resumeOutput (becomeHolder d s) else becomeStandby d s
    endActivation d true s

/-- TOUCHSTONE_PASS (R362). -/
def execTouchstonePass (t : Ltc) (a : FDie) (failed : BitVec 8) (s : State) : Host.Outcome State Fault Refusal :=
  let s := adv t s
  let st := (anvil s a).state
  .next (if st = 2 || st = 3 then
      let s := reportPass a failed.toNat (notePass a failed.toNat s)
      if st = 2 then firstPass a s
      else if passFatal failed.toNat then forceLoader a 4 s
      else settleToken s
    else s)

/-- An Anvil's entry of the health report (R363); the two path bits also show path faults. -/
def healthEntry (a : Anvil) : List Byte :=
  leBytes 32 (packBits [(3, a.state.toNat), (1, b2n a.healthy), (1, b2n a.testing), (3, 0),
    (8, a.failed.toNat ||| a.pathFailed.toNat), (32, a.passes.toNat), (48, a.lastPass.toNat), (32, a.fw.toNat),
    (4, a.lastFault.toNat)])

/-- HEALTH_READ (R363). -/
def execHealthRead (t : Ltc) (h : CmdHdr) (s : State) : Host.Outcome State Fault Refusal :=
  opcode t h .platform false (fun s => okCmd h (healthEntry s.anv.a ++ healthEntry s.anv.b) s) s

/-! ### Switch-back (R361) -/

/-- The token passes to the other Anvil; nothing is executed again. -/
def handOver (d : FDie) (s : State) : State :=
  bump (becomeHolder d.other (becomeStandby d s)) Fld.ANV_SWITCH_SWITCHBACKS

/-- ANVIL_SWITCH_BACK (R361): the new holder sends the final reply. -/
def execAnvilSwitchBack (t : Ltc) (h : CmdHdr) (s : State) : Host.Outcome State Fault Refusal :=
  opcode t h .platform false (fun s =>
    match s.anv.token with
    | none => refuseCmd h Status.NOT_PERMITTED s
    | some d =>
      let o := anvil s d.other
      if o.state = 3 && o.healthy then okCmd h [] (handOver d s) else refuseCmd h Status.NOT_PERMITTED s) s

/-! ### Firmware (R364-R366) -/

/-- 8 MiB. -/
def stagingBytes : Nat := 2 ^ 23

/-- FW_LOAD_BEGIN (R365). -/
def execFwLoadBegin (t : Ltc) (h : CmdHdr) (length version : BitVec 32) (s : State) : Host.Outcome State Fault Refusal :=
  opcode t h .platform false (fun s =>
    if length.toNat % 4096 ≠ 0 then refuseCmd h Status.BAD_PARAM s
    else if stagingBytes < length.toNat then refuseCmd h Status.NO_RESOURCE s
    else if version.toNat < s.fuses.minVersion.toNat || s.fuses.lc = 4 then refuseCmd h Status.NOT_PERMITTED s
    else okCmd h [] { s with anv := { s.anv with staging := { opened := true, length := length, version := version } } }) s

/-- Some of n bytes from an offset are on the part already. -/
def stagedOverlap (g : Staging) (off n : Nat) : Bool := g.bytes.keys.any fun k => decide (off ≤ k ∧ k < off + n)

/-- Bytes written from an offset of the staging area. -/
def stageBytes : Nat → List Byte → Tab Byte → Tab Byte
  | _, [], t => t
  | i, b :: r, t => stageBytes (i + 1) r (t.put i b)

/-- FW_LOAD_CHUNK (R365). -/
def execFwLoadChunk (t : Ltc) (h : CmdHdr) (offset : BitVec 32) (data : List Byte) (s : State) : Host.Outcome State Fault Refusal :=
  opcode t h .platform false (fun s =>
    let g := s.anv.staging
    let o := offset.toNat
    if o % 8 ≠ 0 || data.length % 8 ≠ 0 || decide (4096 < data.length) then refuseCmd h Status.BAD_PARAM s
    else if !g.opened || decide (g.length.toNat < o + data.length) || stagedOverlap g o data.length then
      refuseCmd h Status.FW_SEQUENCE s
    else okCmd h [] { s with anv := { s.anv with staging := { g with bytes := stageBytes o data g.bytes } } }) s

/-- The digest of the staged image. -/
def stagedDigest (g : Staging) : Nat := Config.digest 7 [g.length.toNat, leNat g.bytes.vals]

/-- The header an image begins with (R364). -/
structure ImageHeader where
  format : Nat
  version : Nat
  length : Nat
  entry : Nat
  bodyDigest : Nat
  signer : Nat
  sig : Nat
  signerKey : Nat
  rsv : Nat
  deriving DecidableEq, Repr

/-- The header in the first 4,096 bytes of a number. -/
def imageHeader (x : Nat) : ImageHeader :=
  { format := bitsOf x 0 32, version := bitsOf x 32 32, length := bitsOf x 64 32, entry := bitsOf x 96 32,
    bodyDigest := bitsOf x 128 512, signer := bitsOf x 640 256, sig := bitsOf x 896 10240, signerKey := bitsOf x 11136 14344,
    rsv := bitsOf x 25480 7288 }

/-- The staged image as a number, and its header. -/
def stagedImage (g : Staging) : Nat := leNat g.bytes.vals
def stagedHeader (g : Staging) : ImageHeader := imageHeader (stagedImage g)

/-- The checks of a whole image (R365): its form; SIGNER, the digest of the key that comes with it, against the Hecor ROM; the
signature over bytes 0..111, whose outcome is given; BODY_DIGEST over the rest; VERSION against the begun one. The header's RSV
bits are not looked at (R13). -/
def imageOk (s : State) (g : Staging) (sigOk : Bool) : Bool :=
  let x := stagedHeader g
  x.format = 1 && x.length = g.length.toNat && x.signer = s.fuses.romSigner.toNat &&
    x.signer = Config.digest 10 [x.signerKey] % 2 ^ 256 && sigOk &&
    x.bodyDigest = Config.digest 11 [x.length - 4096, stagedImage g / 2 ^ 32768] % 2 ^ 512 && x.version = g.version.toNat

/-- FW_LOAD_END (R365). `sigOk` is the outcome of the check of the image's Falcon signature. -/
def execFwLoadEnd (t : Ltc) (h : CmdHdr) (sigOk : Bool) (s : State) : Host.Outcome State Fault Refusal :=
  opcode t h .platform false (fun s =>
    let g := s.anv.staging
    if !g.opened || g.bytes.length ≠ g.length.toNat then refuseCmd h Status.FW_SEQUENCE s
    else if !imageOk s g sigOk then refuseCmd h Status.FW_VERIFY_FAIL { s with anv := { s.anv with staging := {} } }
    else okCmd h (leBytes 64 (stagedDigest g)) { s with anv := { s.anv with staging := { g with verified := true } } }) s

/-- The image is copied into an Anvil, whose first pass begins (R366). -/
def startImage (d : FDie) (h : CmdHdr) (s : State) : State :=
  let g := s.anv.staging
  let s := setAnvil d { anvil s d with
    state := 2, testing := true, fw := g.version, image := BitVec.ofNat 512 (stagedDigest g),
    entry := BitVec.ofNat 32 (stagedHeader g).entry, activating := some h } s
  settleToken (beginLong h s)

/-- FW_ACTIVATE (R365, R366). -/
def execFwActivate (t : Ltc) (h : CmdHdr) (which : Byte) (s : State) : Host.Outcome State Fault Refusal :=
  opcode t h .platform false (fun s =>
    let d : FDie := if which.toNat = 0 then .f0 else .f1
    if 1 < which.toNat then refuseCmd h Status.BAD_PARAM s
    else if s.anv.token = some d then refuseCmd h Status.NOT_PERMITTED s
    else if !s.anv.staging.verified || s.anv.a.activating.isSome || s.anv.b.activating.isSome then
      refuseCmd h Status.FW_SEQUENCE s
    else if (anvil s d).state = 0 then finish h Status.INTERNAL_ERROR [] { s with anv := { s.anv with staging := {} } }
    else startImage d h s) s

/-! ### Loader commands (R355) -/

/-- LOADER_COMMAND (R355): with no holder, an Anvil in LOADER begins the next loader command of the journal. -/
def execLoaderCommand (t : Ltc) (s : State) : Host.Outcome State Fault Refusal :=
  let s := adv t s
  .next (if (loaderAnvil s).isNone then s
    else
      match nextCommand s with
      | none => s
      | some e => beginCommand e s)

end Sys2Proof.Machine
end

