-- ==== Sys2Proof/Machine/Float.lean ====
section
/-! DEFINITION. Floating-point numbers held exactly, and their rounding (R140, R178 and the vector unit). -/

namespace Sys2Proof.Machine

/-- A decoded number: not a number, an infinity, or ±m × 2^e held exactly. -/
inductive FVal where
  | nan
  | inf (neg : Bool)
  | fin (neg : Bool) (m : Nat) (e : Int)
  deriving DecidableEq, Repr

/-- The width in bits of a number. -/
def bitLen (m : Nat) : Nat := if m = 0 then 0 else Nat.log2 m + 1

/-- The bias and lowest exponent of a format with eb exponent bits and mb mantissa bits. -/
def fbias (eb : Nat) : Int := ((2 ^ (eb - 1) : Nat) : Int) - 1
def fqmin (eb mb : Nat) : Int := 1 - fbias eb - mb

/-- A bit pattern read with subnormals kept; an all-ones exponent is an infinity or not a number where `special` holds. -/
def fdecode (eb mb : Nat) (special : Bool) (x : Nat) : FVal :=
  let neg := bitAt x (eb + mb)
  let ef := bitsOf x mb eb
  let mf := bitsOf x 0 mb
  if special && ef = 2 ^ eb - 1 then (if mf = 0 then .inf neg else .nan)
  else if ef = 0 then .fin neg mf (fqmin eb mb)
  else .fin neg (2 ^ mb + mf) (fqmin eb mb + ef - 1)

/-- m × 2^e rounded to nearest even at exponent q or above: the rounded significand and its exponent. -/
def froundAt (mb : Nat) (m : Nat) (e q : Int) : Nat × Int :=
  if q ≤ e then (m * 2 ^ (e - q).toNat, q)
  else
    let sh := (q - e).toNat
    let d := 2 ^ sh
    let a := m / d
    let r := m % d
    let a := if 2 * r > d || (2 * r = d && a % 2 = 1) then a + 1 else a
    if a = 2 ^ (mb + 1) then (2 ^ mb, q + 1) else (a, q)

/-- The significand and exponent of m × 2^e rounded to nearest even in a format. -/
def fround (eb mb : Nat) (m : Nat) (e : Int) : Nat × Int :=
  froundAt mb m e (max (fqmin eb mb) (e + bitLen m - (mb + 1)))

/-- The exponent field of a rounded number and the bits below its sign, before any limit is applied. -/
def fpackRaw (eb mb : Nat) (r : Nat × Int) : Nat × Nat :=
  if r.1 < 2 ^ mb then (0, r.1)
  else
    let ef := (r.2 - fqmin eb mb + 1).toNat
    (ef, ef * 2 ^ mb + (r.1 - 2 ^ mb))

/-- A number rounded to nearest even with infinities; nan becomes the pattern given. -/
def fencode (eb mb nanBits : Nat) (v : FVal) : Nat :=
  match v with
  | .nan => nanBits
  | .inf neg => (2 ^ eb - 1) * 2 ^ mb + b2n neg * 2 ^ (eb + mb)
  | .fin neg m e =>
    let p := fpackRaw eb mb (fround eb mb m e)
    let bits := if 2 ^ eb - 1 ≤ p.1 then (2 ^ eb - 1) * 2 ^ mb else p.2
    bits + b2n neg * 2 ^ (eb + mb)

/-- A signed integer significand over 2^e. -/
def fsigned (neg : Bool) (m : Nat) : Int := if neg then -(m : Int) else m

/-- An exact value from a signed significand; an exact zero has the sign given. -/
def fofInt (zeroNeg : Bool) (i : Int) (e : Int) : FVal :=
  if i = 0 then .fin zeroNeg 0 e else .fin (decide (i < 0)) i.natAbs e

/-- The exact sum. -/
def fadd (a b : FVal) : FVal :=
  match a, b with
  | .nan, _ => .nan
  | _, .nan => .nan
  | .inf x, .inf y => if x = y then .inf x else .nan
  | .inf x, _ => .inf x
  | _, .inf y => .inf y
  | .fin n1 m1 e1, .fin n2 m2 e2 =>
    let e := min e1 e2
    let i := fsigned n1 m1 * ((2 ^ (e1 - e).toNat : Nat) : Int) + fsigned n2 m2 * ((2 ^ (e2 - e).toNat : Nat) : Int)
    fofInt (n1 && n2 && m1 = 0 && m2 = 0) i e

/-- The negation. -/
def fneg : FVal → FVal
  | .nan => .nan
  | .inf n => .inf (!n)
  | .fin n m e => .fin (!n) m e

/-- The exact product. -/
def fmul (a b : FVal) : FVal :=
  match a, b with
  | .nan, _ => .nan
  | _, .nan => .nan
  | .inf x, .inf y => .inf (x != y)
  | .inf x, .fin n m _ => if m = 0 then .nan else .inf (x != n)
  | .fin n m _, .inf y => if m = 0 then .nan else .inf (n != y)
  | .fin n1 m1 e1, .fin n2 m2 e2 => .fin (n1 != n2) (m1 * m2) (e1 + e2)

/-- a below b in the order that puts −0 below +0; false where either is not a number. -/
def flt (a b : FVal) : Bool :=
  match a, b with
  | .nan, _ => false
  | _, .nan => false
  | .inf x, .inf y => x && !y
  | .inf x, _ => x
  | _, .inf y => !y
  | .fin n1 m1 e1, .fin n2 m2 e2 =>
    if m1 = 0 && m2 = 0 then n1 && !n2
    else
      let e := min e1 e2
      decide (fsigned n1 m1 * ((2 ^ (e1 - e).toNat : Nat) : Int) < fsigned n2 m2 * ((2 ^ (e2 - e).toNat : Nat) : Int))

/-- Not a number. -/
def FVal.isNan : FVal → Bool
  | .nan => true
  | _ => false

/-- FP32 and BF16 patterns read and written (a not-a-number result is the one pattern of R140 and R178). -/
def f32 (x : Nat) : FVal := fdecode 8 23 true x
def toF32 (v : FVal) : Nat := fencode 8 23 0x7FC00000 v
def bf16 (x : Nat) : FVal := fdecode 8 7 true x
def toBf16 (v : FVal) : Nat := fencode 8 7 0x7FC0 v

/-- FP32 addition, rounded to nearest even, subnormals kept, one not-a-number pattern (R140). -/
def f32Add (a b : Nat) : Nat := toF32 (fadd (f32 a) (f32 b))

/-- FP32 multiplication, rounded to nearest even. -/
def f32Mul (a b : Nat) : Nat := toF32 (fmul (f32 a) (f32 b))

end Sys2Proof.Machine
end

