-- ==== Sys2Proof/Machine/Coh.lean ====
section
/-! DEFINITION. Homes, the directory, engine line caches and atomics (R126-R148). -/

namespace Sys2Proof.Machine

/-! ### Lines and words -/

/-- Bytes of mask m from one word over another. -/
def mergeBytes (m new old : Nat) : Nat :=
  (List.range 8).foldl (fun x i => x + (if bitAt m i then bitsOf new (8 * i) 8 else bitsOf old (8 * i) 8) * 2 ^ (8 * i)) 0

/-- A masked write merged into a line word by word; `bad` marks the words of the line found uncorrectable, which a merge makes poison
(R147, R239). -/
def mergeLine (mask : Nat) (new old : Line) (bad : Nat := 0) : Line :=
  let word (i : Nat) : Nat × Nat × Bool :=
    let m := bitsOf mask (8 * i) 8
    let nw := (bitsOf new.data.toNat (64 * i) 64, bitsOf new.meta2.toNat (2 * i) 2, bitAt new.poison.toNat i)
    let ow := (bitsOf old.data.toNat (64 * i) 64, bitsOf old.meta2.toNat (2 * i) 2, bitAt old.poison.toNat i)
    if m = 0 || (m ≠ 255 && ow.2.2 && !bitAt bad i) then ow
    else if m = 255 then nw
    else (mergeBytes m nw.1 ow.1, ow.2.1, bitAt bad i)
  { data := BitVec.ofNat 512 ((List.range 8).foldl (fun x i => x + (word i).1 * 2 ^ (64 * i)) 0)
    meta2 := BitVec.ofNat 16 ((List.range 8).foldl (fun x i => x + (word i).2.1 * 2 ^ (2 * i)) 0)
    poison := BitVec.ofNat 8 (maskOf 8 fun i => (word i).2.2) }

/-- The words a byte mask touches. -/
def touchedWords (mask : Nat) : Nat := maskOf 8 fun i => bitsOf mask (8 * i) 8 ≠ 0

/-- An atomic of R140 on w bits: the new value. -/
def atomicNew (code w old operand cmp : Nat) : Nat :=
  let m := 2 ^ w
  match code with
  | 0 => (old + operand) % m
  | 1 => old &&& (operand % m)
  | 2 => old ||| (operand % m)
  | 3 => old ^^^ (operand % m)
  | 4 => if toSigned w operand < toSigned w old then operand % m else old
  | 5 => if toSigned w old < toSigned w operand then operand % m else old
  | 6 => min old (operand % m)
  | 7 => max old (operand % m)
  | 8 => operand % m
  | 9 => if old = cmp % m then operand % m else old
  | 10 => f32Add old (operand % m)
  | _ => old

/-- An encoding of R140: codes 11..15 are unassigned, and FADD32 takes 4 bytes. -/
def atomicAssigned (code : Nat) (size8 : Bool) : Bool := decide (code ≤ 10) && !(code = 10 && size8)

/-- An atomic on a line at a byte offset: the old value, whether the operand word is poisoned, and the line (R140, R142). -/
def atomicOnLine (code : Nat) (size8 : Bool) (off operand cmp : Nat) (l : Line) : Nat × Bool × Line :=
  let w := if size8 then 64 else 32
  if bitAt l.poison.toNat (off / 8) then (0, true, l)
  else
    let old := bitsOf l.data.toNat (8 * off) w
    (old, false, { l with data := BitVec.ofNat 512 (putBits l.data.toNat (8 * off) w (atomicNew code w old operand cmp)) })

/-! ### Agents (R126, R127) -/

/-- The AID of this part's engine line cache on a die. -/
def ownAid (s : State) (die : Nat) : BitVec 14 := BitVec.ofNat 14 (4 * (sourceId s).toNat + die)

/-- The die of an AID that names an engine line cache of this part. -/
def ownDie (s : State) (aid : BitVec 14) : Option Nat :=
  if aid.toNat / 4 = (sourceId s).toNat && decide (aid.toNat % 4 < dies s) then some (aid.toNat % 4) else none

/-- A node's sub-agent is listed in COH_MEMBER. -/
def listedMember (s : State) (node sub : Nat) : Bool :=
  bitAt (regGet s (Reg.COH_MEMBER.base + 8 * (node / 16))) (4 * (node % 16) + sub)

/-- An agent takes part in coherence here (R127): a sub-agent whose own bit is 0 at a listed node does not. DESIGN CHOICE (log
entry 56): the manual does not say what such a sub-agent is. -/
def isMember (s : State) (aid : BitVec 14) : Bool :=
  (ownDie s aid).isSome || listedMember s (aid.toNat / 4) (aid.toNat % 4)

/-- A node is listed, with any sub-agent, or is this part. DESIGN CHOICE (log entry 56): a cell of class 0 names a node and no
sub-agent, so that any bit of the node counts. -/
def memberNode (s : State) (node : Nat) : Bool :=
  node = (sourceId s).toNat || (List.range 4).any (listedMember s node)

/-- An agent declared dead (R146). -/
def isDead (s : State) (aid : BitVec 14) : Bool := s.coh.dead.contains aid

/-! ### Tables -/

/-- Replaces the coherence state. -/
def setCoh (c : Coh) (s : State) : State := { s with coh := c }

/-- The home die of a line. -/
def homeDie (s : State) (ln : Nat) : Nat := (homeOf s (64 * ln)).1

/-- The directory set of a line, with its die (R129). -/
def dirSet (s : State) (ln : Nat) : Nat :=
  let h := homeOf s (64 * ln)
  let n := h.2 / 64
  h.1 * 2 ^ 24 + (n ^^^ n / 2 ^ 24) % 2 ^ 24

/-- Directory entries of a set. -/
def setEntries (s : State) (v : Nat) : Tab DirEntry := s.coh.dir.keep fun k _ => dirSet s k = v

/-! ### The directory cache (R130) -/

/-- The row of the directory cache a set falls into: 256 rows of 16 sets of 16 entries a die (log entry 20). -/
def cacheRow (v : Nat) : Nat := v / 2 ^ 24 * 256 + v % 256

/-- The way each line of a set keeps in the reserve: its own, else the lowest free one. -/
def placeWays (v : Nat) (stored : Tab (Nat × DirEntry)) : List (Nat × DirEntry) → Tab (Nat × DirEntry)
  | [] => stored
  | e :: r =>
    let slots := (List.range 16).map (16 * v + ·)
    let own := slots.find? fun k => ((stored.find k).map (·.1)) = some e.1
    let free := slots.find? fun k => (stored.find k).isNone
    placeWays v (match own.or free with | some k => stored.put k e | none => stored) r

/-- The entries of a set are written to the reserve: slots of untracked lines become free (R129, R130). -/
def writeBackSet (v : Nat) (s : State) : State :=
  let stored := s.coh.stored.keep fun k e => !(k / 16 = v && (s.coh.dir.find e.1).isNone)
  setCoh { s.coh with stored := placeWays v stored (setEntries s v) } s

/-- A lookup brings a set into the directory cache; the least recently used set of a full row is written back. -/
def touchSet (v : Nat) (s : State) : State :=
  let row := v :: (s.coh.cache.get [] (cacheRow v)).erase v
  let s := (row.drop 16).foldl (fun s u => writeBackSet u s) s
  setCoh { s.coh with cache := s.coh.cache.put (cacheRow v) (row.take 16) } s

/-- A set that the directory cache does not hold is changed in the reserve itself. -/
def keepStored (v : Nat) (s : State) : State :=
  if (s.coh.cache.get [] (cacheRow v)).contains v then s else writeBackSet v s

/-- The directory entry of a line. -/
def putDir (ln : Nat) (e : DirEntry) (s : State) : State :=
  keepStored (dirSet s ln)
    (setCoh { s.coh with dir := s.coh.dir.put ln { e with used := s.coh.order }, order := s.coh.order + 1 } s)
def untrack (ln : Nat) (s : State) : State := keepStored (dirSet s ln) (setCoh { s.coh with dir := s.coh.dir.del ln } s)

/-- Every entry of the reserve is written free under the platform key, before any line is tracked (R128, R401). -/
def freeReserve (s : State) : State := setCoh { s.coh with dir := [], cache := [], stored := [] } s

/-! ### Transactions and wait lists -/

/-- The transaction and wait list of a line. -/
def putTrans (ln : Nat) (t : Trans) (s : State) : State := setCoh { s.coh with htt := s.coh.htt.put ln t } s
def delTrans (ln : Nat) (s : State) : State := setCoh { s.coh with htt := s.coh.htt.del ln } s
def waitsOf (s : State) (ln : Nat) : List CohReq := s.coh.waits.get [] ln
def setWaits (ln : Nat) (w : List CohReq) (s : State) : State := setCoh { s.coh with waits := s.coh.waits.set [] ln w } s

/-- A waiting request goes behind one that arrives in the same ECLK cycle with a lower AID (R135). -/
def CohReq.yields (q r : CohReq) : Bool :=
  eclk q.at_ = eclk r.at_ && decide (r.aid < q.aid) &&
    (match q.op with | .evict => false | .cell _ _ => false | _ => true)

/-- A request joins the wait list of a line: in arrival order, within one ECLK cycle by ascending AID (R134, R135). -/
def joinWaits (ln : Nat) (r : CohReq) (s : State) : State :=
  let w := waitsOf s ln
  setWaits ln (w.takeWhile (fun q => !q.yields r) ++ r :: w.dropWhile (fun q => !q.yields r)) s

/-- A line has a transaction, or requests that wait. -/
def lineBusy (s : State) (ln : Nat) : Bool := (s.coh.htt.find ln).isSome || !(waitsOf s ln).isEmpty

/-- Transactions of a home (R134). -/
def httUsed (s : State) (die : Nat) : Nat := (s.coh.htt.keys.filter fun ln => homeDie s ln = die).length

/-- Transactions of a home for a tenant's lines. -/
def httOf (s : State) (die t : Nat) : Nat :=
  (s.coh.htt.keys.filter fun ln => homeDie s ln = die && lineTenant s ln = t).length

/-- The home of a line has no room for a transaction it does not hold yet (R134, R350). -/
def homeFull (s : State) (ln : Nat) : Bool :=
  let die := homeDie s ln
  (s.coh.htt.find ln).isNone &&
    !poolRoom s 1024 (fun e => 16 * partHtt e) (httUsed s die) (httOf s die) (lineTenant s ln)

/-- A home answers a request `NACK`: counted (R134). -/
def countNack (ln : Nat) (s : State) : State := bump (countDie (homeDie s ln) 0x202 1 s) Fld.COH_STATUS_NACKS

/-- A requester of this part that a home answered `NACK` backs off: 2^min(n − 1, 6) µs after the n-th (R134). Requesters are
numbered: a task by its key, a ring by 2^20 + its number, a sequence context by 2^21 + its number. -/
def nackRequester (who ln : Nat) (s : State) : State :=
  let n := ((s.coh.backoffs.find who).map (·.1)).getD 0
  countNack ln (setCoh { s.coh with backoffs := s.coh.backoffs.put who (n + 1, after s (us (2 ^ min n 6))) } s)

/-- A requester's back-off still runs. -/
def backedOff (s : State) (who : Nat) : Bool :=
  match s.coh.backoffs.find who with | some b => decide (now s < b.2.toNat) | none => false

/-- A requester of this part at the home of a line: taken, or left to ask again, because the line is at work for another
requester or the home answered `NACK` (R134). -/
def takenAtHome (who ln : Nat) (s : State) : Bool × State :=
  if lineBusy s ln || backedOff s who then (false, s)
  else if homeFull s ln then (false, nackRequester who ln s)
  else (true, setCoh { s.coh with backoffs := s.coh.backoffs.del who } s)

/-- ELC keys. -/
def elcKey (die ln : Nat) : Nat := die * 2 ^ 34 + ln

/-- Replaces or drops a line of an ELC. -/
def dropElc (die ln : Nat) (s : State) : State := setCoh { s.coh with elc := s.coh.elc.del (elcKey die ln) } s
def putElc (die ln : Nat) (st : Mesi) (l : Line) (s : State) : State :=
  setCoh { s.coh with elc := s.coh.elc.put (elcKey die ln) { st := st, line := l, used := s.coh.order }, order := s.coh.order + 1 } s

/-! ### Messages -/

/-- A snoop from the home to an agent. -/
def sendSnoop (name : String) (ln : Nat) (s : State) (aid : BitVec 14) : State :=
  let s := countDie (homeDie s ln) 0x203 1 s
  emit (.snoop name aid (BitVec.ofNat 34 ln)) s

/-- An answer or grant of the home, or an answer of this part's cache. -/
def sendCoh (name : String) (aid : BitVec 14) (ln : Nat) (l : Option Line) (s : State) : State :=
  emit (.coh name aid (BitVec.ofNat 34 ln) l) s

/-- A grant leaves the home; one to a cache of this part is on its way until it is taken (R136). -/
def sendGrant (name : String) (st : Mesi) (aid : BitVec 14) (ln : Nat) (l : Option Line) (s : State) : State :=
  let s := match ownDie s aid with
    | some d => setCoh { s.coh with pend := s.coh.pend.upd (elcKey d ln) fun p => { p with grant := some (st, l) } } s
    | none => s
  sendCoh name aid ln l s

/-- A `REFUSED` answer (R148, R264). -/
def sendRefused (aid : BitVec 14) (ln status : Nat) (s : State) : State :=
  emit (.cohRefused aid (BitVec.ofNat 34 ln) (BitVec.ofNat 8 status)) s

/-- `CMP` (R133). -/
def sendCmp (aid : BitVec 14) (ln : Nat) (old : Option Word) (poison : Bool) (s : State) : State :=
  emit (.cohCmp aid (BitVec.ofNat 34 ln) old poison) s

/-- A release or response is discarded (R139, R146). -/
def discardCoh (aid : BitVec 14) (ln : Nat) (s : State) : State :=
  raiseFault { cls := 5, code := 2, sev := 0, kind := 7, index := homeDie s ln, akind := 1, addr := 64 * ln,
               detail := aid.toNat } (bump s Fld.COH_STATUS2_WB_DISCARDED)

/-- A line becomes poison over its data (R146). -/
def poisonLine (ln : Nat) (s : State) : State :=
  let r := readLine .stack ln s
  bump (writeLine .stack ln 255 { r.1 with poison := 255 } r.2) Fld.COH_RECLAIM_STATUS_LINES_POISONED

/-! ### Sharers (R131) -/

/-- The member agents of a group of 64 nodes. -/
def groupAgents (s : State) (g : Nat) : List (BitVec 14) :=
  ((List.range 256).map fun i => BitVec.ofNat 14 (256 * g + i)).filter (isMember s)

/-- The agents an entry may stand for. -/
def holders (s : State) (e : DirEntry) : List (BitVec 14) :=
  if e.coarse then (setBits 64 e.groups.toNat).flatMap (groupAgents s) else e.ptrs

/-- The group bit of an agent's node. -/
def groupBit (aid : BitVec 14) : Nat := aid.toNat / 256

/-- One more sharer: exact up to eight, then coarse (R131). -/
def addSharer (e : DirEntry) (aid : BitVec 14) : DirEntry :=
  if e.coarse then { e with groups := BitVec.ofNat 64 (putBit e.groups.toNat (groupBit aid) true) }
  else if e.ptrs.contains aid then e
  else if e.ptrs.length < 8 then { e with ptrs := e.ptrs ++ [aid] }
  else
    let g := (aid :: e.ptrs).foldl (fun g a => putBit g (groupBit a) true) 0
    { e with coarse := true, ptrs := [], groups := BitVec.ofNat 64 g }

/-- Shared by a list of agents. -/
def sharedBy (as : List (BitVec 14)) : DirEntry := { owned := false, ptrs := as }

/-- Owned by an agent. -/
def ownedByAgent (a : BitVec 14) : DirEntry := { owned := true, ptrs := [a] }

/-- The owner of an OWNED entry. -/
def DirEntry.owner (e : DirEntry) : Option (BitVec 14) := if e.owned then e.ptrs.head? else none

/-! ### Transactions (R134, R135, R137, R140) -/

/-- Grants and data for a request whose line's value is known. -/
def grantWith (r : CohReq) (ln : Nat) (kept : Bool) (l : Line) (s : State) : State :=
  let e := s.coh.dir.find ln
  match r.op with
  | .rdShared =>
    let e' := match e with
      | none => sharedBy [r.aid]
      | some x =>
        if x.owned then addSharer (sharedBy (if kept then x.ptrs else [])) r.aid else addSharer x r.aid
    sendGrant "DATA_S" .s r.aid ln (some l) (putDir ln e' s)
  | .rdCur => sendCoh "DATA" r.aid ln (some l) s
  | _ => sendGrant "DATA_E" .e r.aid ln (some l) (putDir ln (ownedByAgent r.aid) s)

/-- A masked write performed at the home, its other copies gone: merged with the value returned, or with memory (R137). -/
def performWrite (ln : Nat) (mask : BitVec 64) (l : Line) (got : Option Line) (s : State) : State :=
  match got with
  | some d => writeLine .stack ln 255 (mergeLine mask.toNat l d) s
  | none =>
    if mask.toNat = 2 ^ 64 - 1 then writeLine .stack ln 255 l s
    else
      let r := readUnder .stack ln (stackKey s ln) s
      let bad := maskOf 8 fun i => r.2.1.contains (wordAddr ln i)
      writeLine .stack ln (touchedWords mask.toNat) (mergeLine mask.toNat l r.1 bad) r.2.2

/-- An atomic performed at the home atomic unit (R141, R142): old value, poison, state. -/
def performAtomic (ln code : Nat) (size8 : Bool) (off operand cmp : Nat) (got : Option Line) (s : State) : Nat × Bool × State :=
  let r := match got with
    | some d => (d, s)
    | none => readLine .stack ln s
  let a := atomicOnLine code size8 off operand cmp r.1
  let m := match got with
    | some _ => 255
    | none => 2 ^ (off / 8)
  (a.1, a.2.1, if a.2.1 && got.isNone then r.2 else writeLine .stack ln m a.2.2 r.2)

/-- An atomic of the home ends: `CMP` carries the old value (R141). -/
def endAtomic (r : CohReq) (ln : Nat) (got : Option Line) (s : State) : State :=
  match r.op with
  | .atomic code size8 off operand cmp =>
    let a := performAtomic ln code.toNat size8 off.toNat operand.toNat cmp.toNat got (untrack ln s)
    sendCmp r.aid ln (some (BitVec.ofNat 64 a.1)) a.2.1 a.2.2
  | _ => s

/-- What a request ends with once no holder is left and the data, if any was returned, is known. -/
def performOp (r : CohReq) (ln : Nat) (got : Option Line) (s : State) : State :=
  match r.op with
  | .wrLine mask l => sendCmp r.aid ln none false (performWrite ln mask l got (untrack ln s))
  | .atomic _ _ _ _ _ => endAtomic r ln got s
  | _ =>
    match got with
    | some d => writeLine .stack ln 255 d (untrack ln s)
    | none => untrack ln s

/-- A transaction waits for line data from the stack. -/
def awaitStack (ln : Nat) (tr : Trans) (s : State) : State := putTrans ln { tr with st := .hRd, need := [], wb := [] } s

/-- An atomic waits for the home atomic unit, which reads the line from the stack (R134, R142). -/
def awaitAtomic (ln : Nat) (tr : Trans) (s : State) : State :=
  putTrans ln { tr with st := .hAtomic, need := [], wb := [] } (untrack ln s)

/-- The snoop of a request for a line an agent owns. -/
def ownerSnoop : CohOp → String
  | .rdShared => "SNP_SHARED"
  | .rdCur => "SNP_CUR"
  | _ => "SNP_INV"

/-- Snoops go to agents; those declared dead answer at once (R146). -/
def snoopAll (name : String) (r : CohReq) (ln : Nat) (st : TState) (targets : List (BitVec 14)) (s : State) : State :=
  let live := targets.filter fun a => !isDead s a
  let s := live.foldl (sendSnoop name ln) s
  putTrans ln { req := r, st := st, need := live, since := after s 0 } s

/-- A request of an agent that is not a member is refused by the table of R148. -/
def refusedNonMember (s : State) (r : CohReq) (e : Option DirEntry) : Bool :=
  !isMember s r.aid &&
    match r.op, e with
    | .rdCur, some x => x.owned
    | .wrLine _ _, some _ => true
    | .atomic _ _ _ _ _, some _ => true
    | _, _ => false

/-- A line owned by a dead agent is poisoned and freed when a request reaches it (R146). -/
def buryOwner (ln : Nat) (s : State) : State :=
  match s.coh.dir.find ln with
  | some e => match e.owner with
    | some a => if isDead s a then untrack ln (poisonLine ln s) else s
    | none => s
  | none => s

/-- Directory entries of the set of a line. -/
def setMates (s : State) (ln : Nat) : Tab DirEntry := setEntries s (dirSet s ln)

/-- A line is being recalled for the entry it holds. -/
def beingEvicted (s : State) (v : Nat) : Bool := s.coh.htt.any fun e => e.2.blocked = some v

/-- The line of a full set to recall: the least recently used that is not being recalled already. -/
def lruMate (s : State) (ln : Nat) : Option Nat :=
  let es := setMates s ln
  let idle := es.keep fun k _ => !beingEvicted s k
  (firstMin (fun e => e.2.used) (if idle.isEmpty then es else idle)).map (·.1)

/-- A recall of a line from every holder begins (R130); a dead owner's line is poisoned (R146). -/
def beginRecall (ln : Nat) (s : State) : State :=
  let s := buryOwner ln s
  let r : CohReq := { aid := 0, op := .evict }
  match s.coh.dir.find ln with
  | none => s
  | some e => snoopAll "SNP_INV" r ln (if e.owned then .hRecall else .hInv) (holders s e) s

/-- A request of a line begins where no entry is in the way: SHARED or OWNED lines are snooped, others go to memory. -/
def beginPlain (r : CohReq) (ln : Nat) (s : State) : State :=
  let tr : Trans := { req := r, st := .hRd, since := after s 0 }
  match s.coh.dir.find ln with
  | none =>
    match r.op with
    | .wrLine _ _ => performOp r ln none s
    | .atomic _ _ _ _ _ => awaitAtomic ln tr s
    | .evict => s
    | .cell _ _ => s
    | _ => awaitStack ln tr s
  | some e =>
    match e.owner with
    | some o => snoopAll (ownerSnoop r.op) r ln .hRecall [o] s
    | none =>
      match r.op with
      | .rdShared => awaitStack ln tr s
      | .rdCur => awaitStack ln tr s
      | .rdOwn => snoopAll "SNP_INV" r ln .hInv ((holders s e).filter (· ≠ r.aid)) s
      | .upgrade => snoopAll "SNP_INV" r ln .hInv ((holders s e).filter (· ≠ r.aid)) s
      | _ => snoopAll "SNP_INV" r ln .hInv (holders s e) s

/-- A request that would track a line. -/
def tracks : CohOp → Bool
  | .rdShared => true
  | .rdOwn => true
  | .upgrade => true
  | _ => false

/-- A full directory set: the request waits until the LRU entry's line is recalled, which takes its turn at that line (R130,
R135). -/
def beginEviction (r : CohReq) (ln v : Nat) (s : State) : State :=
  let s := bump s Fld.COH_STATUS_DIR_EVICTIONS
  setWaits v (waitsOf s v ++ [{ aid := 0, op := .evict }])
    (putTrans ln { req := r, st := .hInv, blocked := some v, since := after s 0 } s)

/-- A request begins (R130, R137, R148). -/
def beginReq (r : CohReq) (ln : Nat) (s : State) : State :=
  let s := buryOwner ln s
  let e := s.coh.dir.find ln
  if refusedNonMember s r e then
    bump (sendRefused r.aid ln 0x11 s) Fld.COH_STATUS_NC_REFUSED
  else if e.isNone && tracks r.op && decide (16 ≤ (setMates s ln).length) then
    match lruMate s ln with
    | some v => beginEviction r ln v s
    | none => beginPlain r ln s
  else beginPlain r ln s

/-- An `UPGRADE` of an exact sharer is granted without data (R133). -/
def exactUpgrade (r : CohReq) (e : Option DirEntry) : Bool :=
  match r.op, e with
  | .upgrade, some x => !x.owned && !x.coarse && x.ptrs.contains r.aid
  | _, _ => false

/-- A transaction whose responses are all in goes on or ends; true when it ended. -/
def concludeTrans (ln : Nat) (tr : Trans) (s : State) : Bool × State :=
  let e := s.coh.dir.find ln
  match tr.req.op with
  | .rdCur =>
    match tr.data with
    | some d => (true, sendCoh "DATA" tr.req.aid ln (some d) (delTrans ln s))
    | none => (false, awaitStack ln tr s)
  | .wrLine _ _ => (true, performOp tr.req ln tr.data (delTrans ln s))
  | .atomic _ _ _ _ _ =>
    match tr.data with
    | some d => (true, endAtomic tr.req ln (some d) (delTrans ln s))
    | none => (false, awaitAtomic ln tr s)
  | .evict => (true, performOp tr.req ln (if tr.written then none else tr.data) (delTrans ln s))
  | _ =>
    if exactUpgrade tr.req e then
      (true, sendGrant "GRANT_E" .e tr.req.aid ln none (putDir ln (ownedByAgent tr.req.aid) (delTrans ln s)))
    else
      match tr.data with
      | some d =>
        let s := if tr.written then s else writeLine .stack ln 255 d s
        (true, grantWith tr.req ln tr.kept d (delTrans ln s))
      | none => (false, awaitStack ln tr s)

/-- The transaction of a line concludes when nothing is awaited. -/
def advanceTrans (ln : Nat) (s : State) : Bool × State :=
  match s.coh.htt.find ln with
  | none => (false, s)
  | some tr =>
    if tr.need.isEmpty && tr.wb.isEmpty && tr.blocked.isNone && tr.st ≠ .hRd && tr.st ≠ .hAtomic then concludeTrans ln tr s else (false, s)

/-- Requests of a line begin in order of arrival until one holds the line, or a fabric request is next; fuel bounds their
number (R134, R135). -/
def settle : Nat → Nat → State → State
  | 0, _, s => s
  | n + 1, ln, s =>
    if (s.coh.htt.find ln).isSome then
      let r := advanceTrans ln s
      if r.1 then settle n ln r.2 else r.2
    else
      match waitsOf s ln with
      | [] => s
      | r :: rest =>
        match r.op with
        | .cell _ _ => s
        | .evict => settle n ln (beginRecall ln (setWaits ln rest s))
        | _ => settle n ln (beginReq r ln (setWaits ln rest s))

/-- The line whose recall the request of a line waits for, where that recall can begin. -/
def blockedOn (s : State) (ln : Nat) : List Nat :=
  match (s.coh.htt.find ln).bind Trans.blocked with
  | some v => if (s.coh.htt.find v).isNone then [v] else []
  | none => []

/-- Requests that waited for the entry of a line begin once it is free; their lines. -/
def unblock (v : Nat) (s : State) : List Nat × State :=
  if (s.coh.dir.find v).isSome then ([], s)
  else
    let ls := s.coh.htt.filter fun e => e.2.blocked = some v
    (ls.map (·.1), ls.foldl (fun s e => beginReq e.2.req e.1 (delTrans e.1 s)) s)

/-- Lines go on as far as they can, one after the other; fuel bounds their number. -/
def pump : Nat → List Nat → State → State
  | 0, _, s => s
  | _, [], s => s
  | n + 1, ln :: r, s =>
    let s := settle (2 * (waitsOf s ln).length + 4) ln s
    let u := unblock ln s
    pump n (r ++ blockedOn u.2 ln ++ u.1) u.2

/-- A line goes on as far as it can, with the lines that wait for it. -/
def settleLine (ln : Nat) (s : State) : State := pump (4 * s.coh.htt.length + 8) [ln] s

/-- The ELC of this part whose AID makes a request awaits its grant (R136). -/
def notePending (r : CohReq) (ln : Nat) (s : State) : State :=
  match ownDie s r.aid with
  | none => s
  | some d =>
    if tracks r.op && (s.coh.pend.find (elcKey d ln)).isNone then
      setCoh { s.coh with pend := s.coh.pend.put (elcKey d ln) { op := r.op, upg := r.op = .upgrade } } s
    else s

/-- A request at a home agent looks the line up in the directory cache and is counted, with its miss: neither the cache's index
nor its replacement is stated, so that a counted miss is open (R130, R417). -/
def countHome (ln : Nat) (s : State) : State :=
  let d := homeDie s ln
  let s := countDie d 0x200 1 (touchSet (dirSet s ln) s)
  if s.tel.counters.any fun e => e.2.event = 0x201 then
    let f := draw s
    countDie d 0x201 (f.1 % 2) f.2
  else s

/-- A request reaches the home (R127, R134, R148, R348). -/
def homeRequest (r : CohReq) (ln : Nat) (s : State) : State :=
  let s := countHome ln s
  if stackBytes s ≤ 64 * ln then ingressRefused (sendRefused r.aid ln 0x10 s)
  else if isDead s r.aid then s
  else if s.sec.tampered && (ownDie s r.aid).isNone then sendRefused r.aid ln 0x10 s
  else if tracks r.op && !isMember s r.aid then
    bump (sendRefused r.aid ln 0x15 s) Fld.COH_STATUS_NC_REFUSED
  else
    let s := notePending r ln s
    if lineBusy s ln then joinWaits ln { r with at_ := after s 0 } s
    else if homeFull s ln then countNack ln (sendCoh "NACK" r.aid ln none s)
    else settleLine ln (beginReq r ln s)

/-- A cache of this part sends a request that was answered `NACK` again after its back-off (R134). -/
def resendElc (k : Nat) (s : State) : State :=
  match s.coh.pend.find k with
  | none => s
  | some p =>
    match p.retryAt with
    | none => s
    | some t =>
      if now s < t.toNat then s
      else
        let op : CohOp := if tracks p.op then p.op else .rdOwn
        homeRequest { aid := ownAid s (k / 2 ^ 34), op := op } (k % 2 ^ 34)
          (setCoh { s.coh with pend := s.coh.pend.put k { p with retryAt := none } } s)

/-! ### Releases and responses -/

/-- A release is absorbed where its sender is the recorded owner (R132, R135). -/
def absorb (aid : BitVec 14) (ln : Nat) (l : Option Line) (s : State) : State :=
  let s := match l with | some d => writeLine .stack ln 255 d s | none => s
  sendCoh "WB_ACK" aid ln none (untrack ln s)

/-- A release reaches the home (R134-R136, R139, R146). -/
def homeRelease (aid : BitVec 14) (ln : Nat) (l : Option Line) (s : State) : State :=
  if stackBytes s ≤ 64 * ln then ingressRefused (sendRefused aid ln 0x10 s)
  else if isDead s aid then discardCoh aid ln s
  else if (l.isNone || (ownDie s aid).isSome) && s.coh.expect.contains (ln, aid) then
    sendCoh "WB_ACK" aid ln none (setCoh { s.coh with expect := s.coh.expect.erase (ln, aid) } s)
  else
    match s.coh.htt.find ln with
    | some tr =>
      let owner := decide ((s.coh.dir.find ln).bind DirEntry.owner = some aid)
      if !owner then
        let s := discardCoh aid ln s
        if tr.wb.contains aid then settleLine ln (putTrans ln { tr with wb := tr.wb.erase aid } s) else s
      else
        let s := absorb aid ln l s
        let tr' := { tr with data := l, written := true, released := true }
        if tr.wb.contains aid then settleLine ln (putTrans ln { tr' with wb := tr.wb.erase aid } s)
        else if tr.need.contains aid then putTrans ln { tr' with early := tr.early ++ [aid] } s
        else s
    | none =>
      if (s.coh.dir.find ln).bind DirEntry.owner = some aid then settleLine ln (absorb aid ln l s)
      else discardCoh aid ln s

/-- A snoop response reaches the home: `f` changes the transaction that awaits it. -/
def homeResponse (aid : BitVec 14) (ln : Nat) (f : Trans → State → Trans × State) (s : State) : State :=
  if isDead s aid then discardCoh aid ln s
  else
    match s.coh.htt.find ln with
    | none => discardCoh aid ln s
    | some tr =>
      if !tr.need.contains aid then discardCoh aid ln s
      else
        let r := f { tr with need := tr.need.erase aid } s
        settleLine ln (putTrans ln r.1 r.2)

/-- An owner that no longer holds its line is no longer recorded. -/
def ownerGone (aid : BitVec 14) (ln : Nat) (s : State) : State :=
  if (s.coh.dir.find ln).bind DirEntry.owner = some aid then untrack ln s else s

/-- The snoop time-out in µs; 0 acts as 100 (R149). -/
def snoopLimit (s : State) : Nat :=
  let n := rd s Fld.COH_CTRL_SNOOP_TIMEOUT_US
  if n = 0 then 100 else n

/-- The number of a transient state in the order of R134, from 1 (R412). -/
def TState.num : TState → Nat
  | .hRd => 1
  | .hInv => 2
  | .hRecall => 3
  | .hWbwait => 4
  | .hAtomic => 5
  | .hReclaim => 6

/-- SNOOP_TIMEOUT (R139, R145): reported once; the home keeps waiting. -/
def execSnoopTimeout (t : Ltc) (ln : BitVec 34) (aid : BitVec 14) (s : State) : Host.Outcome State Fault Refusal :=
  let s := adv t s
  let n := ln.toNat
  .next (match s.coh.htt.find n with
    | none => s
    | some tr =>
      if tr.need.contains aid && !tr.reported.contains aid && decide (tr.since.toNat + us (snoopLimit s) ≤ now s) then
        let s := bump (putTrans n { tr with reported := tr.reported ++ [aid] } s) Fld.COH_STATUS_SNOOP_TIMEOUTS
        raiseFault { cls := 5, code := 1, sev := 1, kind := 7, index := homeDie s n, akind := 1, addr := 64 * n,
                     detail := packBits [(14, aid.toNat), (2, 0), (4, tr.st.num)] } s
      else s)

/-! ### Dead agents (R145, R146) -/

/-- A transaction that waits on a dead agent completes as if it had answered RSP_I; an owner's line is poisoned. -/
def completeDead (aid : BitVec 14) (s : State) (ln : Nat) : State :=
  match s.coh.htt.find ln with
  | none => s
  | some tr =>
    if tr.need.contains aid || tr.wb.contains aid then
      let s := buryOwner ln s
      settleLine ln (putTrans ln { tr with need := tr.need.erase aid, wb := tr.wb.erase aid } s)
    else s

/-- An agent is declared dead: ignored during a walk for it (R146). -/
def declareDead (aid : BitVec 14) (s : State) : State :=
  if s.coh.walks.contains aid then s
  else
    let dead := if s.coh.dead.contains aid then s.coh.dead else s.coh.dead ++ [aid]
    let s := setCoh { s.coh with dead := dead, walks := s.coh.walks ++ [aid] } s
    let s := s.coh.htt.keys.foldl (completeDead aid) s
    let s := wr s Fld.COH_RECLAIM_STATUS_AID aid.toNat
    wr (wr s Fld.COH_RECLAIM_STATUS_ACTIVE 1) Fld.COH_RECLAIM_STATUS_DONE 0

/-- The walk's step on one entry (R146). -/
def reclaimEntry (aid : BitVec 14) (s : State) (ln : Nat) : State :=
  match s.coh.dir.find ln with
  | none => s
  | some e =>
    if e.owned then (if e.owner = some aid then untrack ln (poisonLine ln s) else s)
    else if e.ptrs.contains aid then
      let e' := { e with ptrs := e.ptrs.erase aid }
      if e'.ptrs.isEmpty && !e'.coarse then untrack ln s
      else keepStored (dirSet s ln) (setCoh { s.coh with dir := s.coh.dir.put ln e' } s)
    else s

/-- An agent may make requests again, after the walk for it ended (R146). -/
def revive (aid : BitVec 14) (s : State) : State :=
  if s.coh.walks.contains aid then s else setCoh { s.coh with dead := s.coh.dead.erase aid } s

/-- COH_RECLAIM_REVIVE (R146). -/
def execCohReclaimRevive (t : Ltc) (aid : BitVec 14) (s : State) : Host.Outcome State Fault Refusal :=
  .next (revive aid (adv t s))

/-! ### This part's caches (R132, R136) -/

/-- The lines of an ELC set: 16 ways of 1,024 sets by the low bits of the line number (log entry 20). -/
def elcSet (s : State) (die ln : Nat) : Tab ElcLine :=
  s.coh.elc.keep fun k _ => k / 2 ^ 34 = die && k % 1024 = ln % 1024

/-- The lines of an ELC set that belong to a tenant. -/
def elcOf (s : State) (es : Tab ElcLine) (t : Nat) : Nat := (es.filter fun e => lineTenant s (e.1 % 2 ^ 34) = t).length

/-- The lines of a set that may leave for a line of tenant t: its own, and those beyond the reserve of their tenant (R350). -/
def elcMayLeave (s : State) (es : Tab ElcLine) (t : Nat) : Tab ElcLine :=
  es.keep fun k _ =>
    let u := lineTenant s (k % 2 ^ 34)
    u = t || decide (partElc (partEntry s u) < elcOf s es u)

/-- The least recently used line of an ELC set without room leaves: silently from S, with a release otherwise (R126, R132, R350). A
line whose upgrade is pending stays. -/
def makeElcRoom (die ln : Nat) (s : State) : State :=
  let es := elcSet s die ln
  let t := lineTenant s ln
  if poolRoom s 16 partElc es.length (elcOf s es) t then s
  else
    let out := elcMayLeave s es t
    let quiet := out.keep fun k _ => (s.coh.pend.find k).isNone
    match firstMin (fun e => e.2.used) (if quiet.isEmpty then out else quiet) with
    | none => s
    | some (k, x) =>
      let v := k % 2 ^ 34
      let s := dropElc die v s
      match x.st with
      | .s => s
      | .e => sendCoh "EVICT_CLEAN" (ownAid s die) v none (setCoh { s.coh with evicting := s.coh.evicting.put k none } s)
      | .m => sendCoh "WRITEBACK" (ownAid s die) v (some x.line) (setCoh { s.coh with evicting := s.coh.evicting.put k (some x.line) } s)

/-- An ELC answers a snoop from the state it holds (R133, R136). -/
def answerSnoop (kind : TState) (die ln : Nat) (s : State) : State :=
  let a := ownAid s die
  match s.coh.elc.find (elcKey die ln) with
  | none => sendCoh "RSP_I" a ln none s
  | some x =>
    match kind with
    | .hInv =>
      let s := dropElc die ln s
      if x.st = .m then sendCoh "RSP_I_DATA" a ln (some x.line) s else sendCoh "RSP_I" a ln none s
    | .hRecall =>
      let s := putElc die ln .s x.line s
      if x.st = .m then sendCoh "RSP_S_DATA" a ln (some x.line) s else sendCoh "RSP_S" a ln none s
    | _ => if x.st = .m then sendCoh "RSP_S_DATA" a ln (some x.line) s else sendCoh "RSP_S" a ln none s

/-- A snoop is held until the grant arrives; one that invalidates finds an `UPGRADE` whose grant is not on its way (R136). -/
def ElcPend.holds (p : ElcPend) (kind : TState) : Bool := !(p.upg && kind = .hInv && p.grant.isNone)

/-- A snoop reaches an ELC of this part (R136). The kind is hInv for `SNP_INV`, hRecall for `SNP_SHARED`, hRd for `SNP_CUR`. -/
def elcSnoop (kind : TState) (die ln : Nat) (s : State) : State :=
  let k := elcKey die ln
  match s.coh.evicting.find k with
  | some l => sendCoh (if l.isSome then "RSP_WB_IN_FLIGHT dirty" else "RSP_WB_IN_FLIGHT clean") (ownAid s die) ln none s
  | none =>
    match s.coh.pend.find k with
    | some p =>
      if p.holds kind then setCoh { s.coh with pend := s.coh.pend.put k { p with held := some kind } } s
      else answerSnoop kind die ln s
    | none => answerSnoop kind die ln s

/-- SNP_INV at an ELC. -/
def execSnpInv (t : Ltc) (die : BitVec 1) (ln : BitVec 34) (s : State) : Host.Outcome State Fault Refusal :=
  .next (elcSnoop .hInv die.toNat ln.toNat (adv t s))

/-- SNP_SHARED at an ELC. -/
def execSnpShared (t : Ltc) (die : BitVec 1) (ln : BitVec 34) (s : State) : Host.Outcome State Fault Refusal :=
  .next (elcSnoop .hRecall die.toNat ln.toNat (adv t s))

/-- SNP_CUR at an ELC. -/
def execSnpCur (t : Ltc) (die : BitVec 1) (ln : BitVec 34) (s : State) : Host.Outcome State Fault Refusal :=
  .next (elcSnoop .hRd die.toNat ln.toNat (adv t s))

/-- A task's state changes. -/
def setTaskState (key : Nat) (st : TaskState) (s : State) : State :=
  { s with eng := { s.eng with tasks := s.eng.tasks.upd key fun x => { x with st := st } } }

/-- A task has met poison. -/
def markPoison (key : Nat) (p : Bool) (s : State) : State :=
  if p then { s with eng := { s.eng with tasks := s.eng.tasks.upd key fun x => { x with poison := true } } } else s

/-- An atomic performed in a line an ELC holds exclusively (R141): old value, poison, state. -/
def elcPerform (die ln code : Nat) (size8 : Bool) (off operand cmp : Nat) (l : Line) (s : State) : Nat × Bool × State :=
  let a := atomicOnLine code size8 off operand cmp l
  (a.1, a.2.1, putElc die ln .m a.2.2 s)

/-- The one access that caused a request is completed once its line is held (R136, R141). -/
def completeAccess (die ln : Nat) (p : ElcPend) (l : Line) (s : State) : State :=
  match p.op, p.task with
  | .atomic code size8 off operand cmp, some key =>
    let a := elcPerform die ln code.toNat size8 off.toNat operand.toNat cmp.toNat l s
    setTaskState key (.done 0 (BitVec.ofNat 64 a.1)) (markPoison key a.2.1 a.2.2)
  | _, _ => s

/-- A grant reaches an ELC that awaits it: the line is held, the access completed, then a held snoop answered (R136). -/
def elcGrant (st : Mesi) (die ln : Nat) (l : Option Line) (s : State) : State :=
  let k := elcKey die ln
  match s.coh.pend.find k with
  | none => s
  | some p =>
    let line := match l with
      | some d => some d
      | none => (s.coh.elc.find k).map ElcLine.line
    match line with
    | none => s
    | some d =>
      let s := setCoh { s.coh with pend := s.coh.pend.del k } (makeElcRoom die ln s)
      let s := completeAccess die ln p d (putElc die ln st d s)
      match p.held with
      | some kind => answerSnoop kind die ln s
      | none => s

/-- DATA_S at an ELC. -/
def execDataS (t : Ltc) (die : BitVec 1) (ln : BitVec 34) (l : Line) (s : State) : Host.Outcome State Fault Refusal :=
  .next (elcGrant .s die.toNat ln.toNat (some l) (adv t s))

/-- DATA_E at an ELC. -/
def execDataE (t : Ltc) (die : BitVec 1) (ln : BitVec 34) (l : Line) (s : State) : Host.Outcome State Fault Refusal :=
  .next (elcGrant .e die.toNat ln.toNat (some l) (adv t s))

/-- GRANT_E at an ELC. -/
def execGrantE (t : Ltc) (die : BitVec 1) (ln : BitVec 34) (s : State) : Host.Outcome State Fault Refusal :=
  .next (elcGrant .e die.toNat ln.toNat none (adv t s))

/-- CMP at a requester of this part (R133): the request is performed, the old value returned. -/
def execCmp (t : Ltc) (die : BitVec 1) (ln : BitVec 34) (old : Word) (s : State) : Host.Outcome State Fault Refusal :=
  let s := adv t s
  let k := elcKey die.toNat ln.toNat
  .next (match s.coh.pend.find k with
    | none => s
    | some p =>
      let s := setCoh { s.coh with pend := s.coh.pend.del k } s
      match p.task with
      | some key => setTaskState key (.done 0 old) s
      | none => s)

/-- WB_ACK at an ELC frees the eviction record (R132). -/
def execWbAck (t : Ltc) (die : BitVec 1) (ln : BitVec 34) (s : State) : Host.Outcome State Fault Refusal :=
  let s := adv t s
  .next (setCoh { s.coh with evicting := s.coh.evicting.del (elcKey die.toNat ln.toNat) } s)

/-- NACK at a requester: it sends again after 2^min(n − 1, 6) µs (R134). -/
def execNack (t : Ltc) (die : BitVec 1) (ln : BitVec 34) (s : State) : Host.Outcome State Fault Refusal :=
  let s := adv t s
  let k := elcKey die.toNat ln.toNat
  .next (match s.coh.pend.find k with
    | none => s
    | some p =>
      let p' := { p with nacks := p.nacks + 1, retryAt := some (after s (us (2 ^ min p.nacks 6))) }
      setCoh { s.coh with pend := s.coh.pend.put k p' } s)

/-- REFUSED at a requester ends its request, or frees its eviction record (R148). -/
def execRefused (t : Ltc) (die : BitVec 1) (ln : BitVec 34) (_status : BitVec 8) (s : State) : Host.Outcome State Fault Refusal :=
  let s := adv t s
  let k := elcKey die.toNat ln.toNat
  .next (match s.coh.pend.find k with
    | none => setCoh { s.coh with evicting := s.coh.evicting.del k } s
    | some p =>
      let s := setCoh { s.coh with pend := s.coh.pend.del k } s
      match p.task with
      | some key => setTaskState key (.done 0x21 0) s
      | none => s)

/-! ### Accesses of this part's engines and of fabric requests, each one home transaction (R137, R141) -/

/-- Grants on their way to the caches of this part are taken there: each completes the access that waits for it (R136). -/
def deliverGrants (ln : Nat) (s : State) : State :=
  (List.range (dies s)).foldl (fun s d =>
    match (s.coh.pend.find (elcKey d ln)).bind ElcPend.grant with
    | some g => elcGrant g.1 d ln g.2 s
    | none => s) s

/-- An owner outside the part returns the line it holds modified; nothing listed: it held it clean. -/
def ownerLine (x : Ext) (ln : Nat) : Option Line := (x.owners.find? fun e => e.1 = ln).map (·.2)

/-- What an owner returns to a snoop, from this part's cache or from outside; a cache that has released the line answers with
the `WRITEBACK` in flight (R136, R139). -/
def ownerData (s : State) (x : Ext) (ln : Nat) (a : BitVec 14) : Option Line :=
  match ownDie s a with
  | some d =>
    match s.coh.elc.find (elcKey d ln) with
    | some c => if c.st = .m then some c.line else none
    | none => (s.coh.evicting.find (elcKey d ln)).join
  | none => ownerLine x ln

/-- A holder gives a line up: a release of the owner in flight is expected, its effect taken already (R135, R136). -/
def recallFrom (ln : Nat) (owner : Option (BitVec 14)) (s : State) (a : BitVec 14) : State :=
  match ownDie s a with
  | none => sendSnoop "SNP_INV" ln s a
  | some d =>
    let s := countDie (homeDie s ln) 0x203 1 s
    if owner = some a && (s.coh.elc.find (elcKey d ln)).isNone && (s.coh.evicting.find (elcKey d ln)).isSome then
      setCoh { s.coh with expect := s.coh.expect ++ [(ln, a)] } s
    else dropElc d ln s

/-- Every copy of a line is invalidated; the owner's data comes back (R137). -/
def recallLine (ln : Nat) (x : Ext) (s : State) : Option Line × State :=
  let s := buryOwner ln (deliverGrants ln s)
  match s.coh.dir.find ln with
  | none => (none, s)
  | some e =>
    let got := e.owner.bind (ownerData s x ln)
    (got, untrack ln (((holders s e).filter fun a => !isDead s a).foldl (recallFrom ln e.owner) s))

/-- RD_CUR (R137): the current value of a line. -/
def homeRead (ln : Nat) (x : Ext) (s : State) : Line × State :=
  let s := buryOwner ln (deliverGrants ln (countHome ln s))
  match (s.coh.dir.find ln).bind DirEntry.owner with
  | none => readLine .stack ln s
  | some a =>
    let s' := if (ownDie s a).isSome then countDie (homeDie s ln) 0x203 1 s else sendSnoop "SNP_CUR" ln s a
    match ownerData s x ln a with
    | some l => (l, s')
    | none => readLine .stack ln s'

/-- WR_LINE (R137). -/
def homeWrite (ln mask : Nat) (l : Line) (x : Ext) (s : State) : State :=
  let r := recallLine ln x (countHome ln s)
  performWrite ln (BitVec.ofNat 64 mask) l r.1 r.2

/-- An atomic at the home atomic unit (R141): old value, poison, state. -/
def homeAtomicNow (ln code : Nat) (size8 : Bool) (off operand cmp : Nat) (x : Ext) (s : State) : Nat × Bool × State :=
  let r := recallLine ln x (countHome ln s)
  performAtomic ln code size8 off operand cmp r.1 r.2

/-- A line of a full directory set that has no entry: a request that tracks it waits for an eviction (R130). -/
def needsEviction (s : State) (ln : Nat) : Bool :=
  (s.coh.dir.find ln).isNone && decide (16 ≤ (setMates s ln).length)

/-- An atomic at a die's ELC, whose line is not busy at the home and can be tracked: E is gained unless held (R141). -/
def elcAtomicNow (die ln code : Nat) (size8 : Bool) (off operand cmp : Nat) (x : Ext) (s : State) : Nat × Bool × State :=
  match s.coh.elc.find (elcKey die ln) with
  | some c =>
    if c.st ≠ .s then elcPerform die ln code size8 off operand cmp c.line s
    else
      let r := recallLine ln x (countHome ln s)
      let s := putDir ln (ownedByAgent (ownAid r.2 die)) r.2
      elcPerform die ln code size8 off operand cmp c.line s
  | none =>
    let r := recallLine ln x (countHome ln s)
    let d := match r.1 with
      | some l => (l, writeLine .stack ln 255 l r.2)
      | none => readLine .stack ln r.2
    let s := makeElcRoom die ln d.2
    let s := putDir ln (ownedByAgent (ownAid s die)) s
    elcPerform die ln code size8 off operand cmp d.1 s

end Sys2Proof.Machine
end

