-- ==== Sys2Proof/Machine/Mode.lean ====
section
/-! DEFINITION. Fleet mode changes (R61-R65, R403, R404), with the settings they switch: routes, partitions (R350) and
traffic-control tables (R318, R320). -/

namespace Sys2Proof.Machine

/-! ### Entries of the traffic tables (R319) -/

/-- The Reset value of an entry of a traffic table: WEIGHT 1, OVERHEAD 64, all else 0 (R319). -/
def trafficReset (table : Nat) : Nat := match table with | 0 => 1 | 3 => 64 | _ => 0

/-- An entry of a traffic table under given settings. -/
def Settings.entry (st : Settings) (table i : Nat) : Nat :=
  match st.traffic.find (table * 65536 + i) with
  | some v => v.toNat
  | none => trafficReset table

/-- Settings with an entry of a traffic table replaced. -/
def Settings.setEntry (st : Settings) (table i : Nat) (v : Nat) : Settings :=
  { st with traffic :=
      if v = trafficReset table then st.traffic.del (table * 65536 + i)
      else st.traffic.put (table * 65536 + i) (BitVec.ofNat 128 v) }

/-- How many entries a traffic table has (R318). -/
def trafficCount (table : Nat) : Nat :=
  match table with | 0 => 16384 | 1 => 16384 | 2 => 1024 | 3 => 16 | 4 => 1024 | _ => 0

/-- The RSV bits of an entry (R319). -/
def trafficRsv (table v : Nat) : Bool :=
  match table with
  | 0 => bitsOf v 20 12 ≠ 0 || bitsOf v 44 84 ≠ 0
  | 1 => bitsOf v 45 83 ≠ 0
  | 2 => bitsOf v 5 3 ≠ 0 || bitsOf v 52 12 ≠ 0 || bitsOf v 108 20 ≠ 0 || bitsOf v 0 2 = 3
  | 3 => bitsOf v 10 6 ≠ 0 || bitsOf v 104 24 ≠ 0
  | 4 => bitsOf v 32 96 ≠ 0
  | _ => false

/-- The values of an entry lie in the ranges of R319, R313 and R317. -/
def trafficRange (table v : Nat) : Bool :=
  match table with
  | 0 => bitsOf v 32 12 ≤ 2048
  | 3 => bitsOf v 24 7 ≤ 64 && (bitsOf v 80 24 ≠ 0 || bitsOf v 24 7 = 0)
  | 4 => bitsOf v 0 24 ≠ 0
  | _ => true

/-- A meter entry of MODE 1 has PIR ≥ CIR and PBS ≥ CBS (R313). -/
def meterOk (v : Nat) : Bool :=
  bitsOf v 0 2 ≠ 1 || (bitsOf v 8 24 ≤ bitsOf v 64 24 && bitsOf v 32 20 ≤ bitsOf v 88 20)

/-! ### Partitions (R350) -/

/-- The RSV bits of a partition entry. -/
def partRsv (e : Nat) : Bool :=
  bitsOf e 11 5 ≠ 0 || bitsOf e 87 1 ≠ 0 || bitsOf e 99 5 ≠ 0 || bitsOf e 114 2 ≠ 0 || bitsOf e 128 384 ≠ 0

/-- No engine is pinned twice. -/
def disjointPins : List Nat → Bool
  | [] => true
  | x :: r => (r.all fun y => x &&& y = 0) && disjointPins r

/-- Some cluster of each group stays unpinned, among the clusters of the part. -/
def leavesUnpinned (nclusters : Nat) (pins : Nat) : Bool :=
  (List.range 4).all fun k => (List.range nclusters).any fun c => !bitAt pins (4 * c + k)

/-- A tenant's queue other than t's uses a gate class; a queue not listed has class 0 (R319). -/
def classUsed (st : Settings) (t cls : Nat) : Bool :=
  let listed := (List.range 16).map fun p =>
    (st.traffic.filter fun e => decide (1024 * p ≤ e.1) && decide (e.1 < 1024 * (p + 1)) && decide (e.1 % 1024 ≠ t))
  let others := listed.flatten
  let withClass := others.filter fun e => bitsOf e.2.toNat 16 3 = cls
  if cls = 0 then decide (others.length < 16 * 1023) || !withClass.isEmpty else !withClass.isEmpty

/-- Every condition of R350 on a set of partitions. -/
def partitionsOk (nclusters : Nat) (st : Settings) : Bool :=
  let es := st.partitions.map fun e => e.2.toNat
  let sum (f : Nat → Nat) := (es.map f).foldl (· + ·) 0
  disjointPins (es.map partEngines) &&
  leavesUnpinned nclusters ((es.map partEngines).foldl (· ||| ·) 0) &&
  decide (sum partTurns ≤ 15) && decide (sum partInj ≤ 1024) && decide (sum partElc ≤ 8) &&
  decide (sum partHtt * 16 ≤ 512) && decide (sum partStreams ≤ 2048) &&
  st.partitions.all fun e => !classUsed st e.1 (partClass e.2.toNat)

/-- Settings with a tenant's partition entry written; ENABLE 0 removes the partition (R350). -/
def Settings.setPartition (st : Settings) (t : Nat) (e : Nat) : Settings :=
  { st with partitions := if bitAt e 10 then st.partitions.put t (BitVec.ofNat 512 e) else st.partitions.del t }

/-! ### Staged effects -/

/-- Entries written from an index on. -/
def Settings.setEntries (st : Settings) (table : Nat) : Nat → List (BitVec 128) → Settings
  | _, [] => st
  | i, e :: r => (st.setEntry table i e.toNat).setEntries table (i + 1) r

/-- Route-table entries written from a node on. -/
def setRoutes : Tab (BitVec 32) → Nat → List (BitVec 32) → Tab (BitVec 32)
  | tab, _, [] => tab
  | tab, n, e :: r => setRoutes (tab.set 0 n e) (n + 1) r

/-- The effect of one staged command on settings; gate entries (table 4) are no settings but bank writes (R317). -/
def Settings.stage (st : Settings) : StagedOp → Settings
  | .partition t e => st.setPartition t.toNat e.toNat
  | .routes _ first entries => { st with routes := setRoutes st.routes first.toNat entries }
  | .epoch e => { st with epoch := e }
  | .traffic table first entries => if table = 4 then st else st.setEntries table.toNat first.toNat entries

/-- The staged copy: applied settings with every staged effect, in order. -/
def stagedSettings (s : State) : Settings :=
  s.mode.staged.foldl (fun st x => st.stage x.op) s.mode.applied

/-- The staged route epoch in force: that of the last staged `ROUTE_EPOCH_SET` (R272). -/
def stagedEpoch (s : State) : Option (BitVec 16) :=
  s.mode.staged.foldl (fun acc x => match x.op with | .epoch e => some e | _ => acc) none

/-- A generation is armed; the window of the previous one is open. -/
def isArmed (s : State) : Bool := rdb s Fld.CTRL_MODE_STATUS_ARMED
def windowOpen (s : State) : Bool := rdb s Fld.CTRL_MODE_STATUS_WINDOW_OPEN

/-- The generation that follows another (R61). -/
def genAfter (g : Nat) : Nat := if g = 0xFFFF then 1 else g + 1

/-- A staged command is recorded; staging is allowed only before arming, outside a window, and for the generation that
follows the applied one (R62). -/
def stageCmd (h : CmdHdr) (op : StagedOp) (s : State) : State :=
  if h.modeGen.toNat ≠ genAfter (appliedGen s) || windowOpen s || isArmed s then refuseCmd h Status.GEN_MISMATCH s
  else
    let s := { s with mode := { s.mode with staged := s.mode.staged ++ [⟨h.seq, op⟩] } }
    let s := wr s Fld.CTRL_MODE_STATUS_STAGED_WRITES s.mode.staged.length
    let s := match op with
      | .epoch e => wr (wr s Fld.FAB_ROUTE_STATUS_STAGED_EPOCH e.toNat) Fld.FAB_ROUTE_STATUS_EPOCH_STAGED 1
      | _ => s
    okCmd h [] s

/-- Nothing staged or armed any more. -/
def clearStaged (s : State) : State :=
  let s := { s with mode := { s.mode with staged := [] } }
  let s := wr (wr s Fld.CTRL_MODE_STATUS_STAGED_WRITES 0) Fld.CTRL_MODE_STATUS_ARMED 0
  wr (wr s Fld.FAB_ROUTE_STATUS_EPOCH_STAGED 0) Fld.FAB_ROUTE_STATUS_STAGED_EPOCH 0

/-! ### Arming -/

/-- A later staged command writes the entry again, so that this one's value is not in force. -/
def StagedOp.rewrites (table i : Nat) : StagedOp → Bool
  | .traffic tb first entries => tb.toNat = table && decide (first.toNat ≤ i ∧ i < first.toNat + entries.length)
  | _ => false

/-- The entries of a staged traffic write that are in force and satisfy a test. -/
def entryFails (later : List Staged) (first n table : Nat) (bad : Nat → Bool) : Bool :=
  (List.range n).any fun k => bad (first + k) && !later.any fun y => y.op.rewrites table (first + k)

/-- The tenant of a staged partition. -/
def StagedOp.partTenant : StagedOp → Option Nat
  | .partition t _ => some t.toNat
  | _ => none

/-- The partitions in force once staged commands are taken up to some point: applied entries no staged command replaces, and
for each tenant staged so far the entry it ends up with. -/
def partsUpTo (s : State) (upTo : List Staged) : Tab (BitVec 512) :=
  let fin := stagedSettings s
  let kept := s.mode.applied.partitions.keep fun t _ => !s.mode.staged.any fun y => y.op.partTenant = some t
  upTo.foldl (fun tab y =>
    match y.op.partTenant with
    | some t => match fin.partitions.find t with | some e => tab.put t e | none => tab
    | none => tab) kept

/-- The effect of a staged command, between those before and after it, fails the check of R62 in the settings that all of them
give. -/
def stagedFails (s : State) (before : List Staged) (x : Staged) (later : List Staged) : Bool :=
  let st := stagedSettings s
  match x.op with
  | .routes ep _ _ => stagedEpoch s ≠ some ep
  | .epoch _ => false
  | .partition t _ =>
    (st.partitions.find t.toNat).isSome && !partitionsOk (clusters s) { st with partitions := partsUpTo s (before ++ [x]) }
  | .traffic table first entries =>
    (table = 0 && entryFails later first.toNat entries.length 0 fun i =>
        st.partitions.any fun p => decide (i % 1024 ≠ p.1) && bitsOf (st.entry 0 i) 16 3 = partClass p.2.toNat) ||
    (table = 2 && entryFails later first.toNat entries.length 2 fun i => !meterOk (st.entry 2 i))

/-- The first of some staged commands whose effect fails the check, behind those before it. -/
def failingIn (s : State) : List Staged → List Staged → Option Staged
  | _, [] => none
  | before, x :: r => if stagedFails s before x r then some x else failingIn s (before ++ [x]) r

/-- The first staged command whose effect fails the check. -/
def firstFailing (s : State) : Option Staged := failingIn s [] s.mode.staged

/-- `MODE_ARM` (R62). -/
def modeArm (h : CmdHdr) (gen : BitVec 16) (s : State) : State :=
  let count := s.mode.staged.length
  if windowOpen s then refuseCmd h Status.WINDOW_OPEN s
  else if gen.toNat ≠ genAfter (appliedGen s) then refuseCmd h Status.GEN_MISMATCH s
  else
    match firstFailing s with
    | some x => finish h Status.STAGE_INVALID (leBytes 2 count ++ leBytes 2 0 ++ leBytes 4 x.seq.toNat) s
    | none =>
      let s := wr (wr s Fld.CTRL_MODE_STATUS_ARMED 1) Fld.CTRL_MODE_STATUS_ARMED_GEN gen.toNat
      okCmd h (leBytes 2 count ++ leBytes 2 0 ++ leBytes 4 0) s

/-- MODE_ARM. -/
def execModeArm (t : Ltc) (h : CmdHdr) (gen : BitVec 16) (s : State) : Host.Outcome State Fault Refusal :=
  opcode t h .platform false (modeArm h gen) s

/-! ### Applying -/

/-- Some bank of a port's gate list. -/
def tportOf (s : State) (p : Nat) : TPort := s.tc.ports.get {} p

/-- Replaces the scheduler state of a port. -/
def setTport (s : State) (p : Nat) (x : TPort) : State :=
  { s with tc := { s.tc with ports := s.tc.ports.set {} p x } }

/-- Gate entries go to the inactive bank of their ports (R317). -/
def writeGates : Nat → List (BitVec 128) → State → State
  | _, [], s => s
  | i, e :: r, s =>
    let p := i / 64
    let x := tportOf s p
    let v := BitVec.ofNat 64 e.toNat
    let x := if rdb s (Fld.TC_GATE_STATE_BANK p) then { x with bank0 := x.bank0.set 0 (i % 64) v }
             else { x with bank1 := x.bank1.set 0 (i % 64) v }
    writeGates (i + 1) r (setTport s p x)

/-- A shaper entry sets its queue's credit as RESET_TO chooses (R319, R320). -/
def resetShaper (q v : Nat) (s : State) : State :=
  let p := q / 1024
  let x := tportOf s p
  let c : Int := if bitAt v 44 then ((256 * bitsOf v 24 20 : Nat) : Int) else 0
  let tq := { x.queues.get {} (q % 1024) with credit := c, at_ := after s 0 }
  setTport s p { x with queues := x.queues.set {} (q % 1024) tq }

/-- A meter entry sets its tokens as RESET_TO chooses (R319, R320). -/
def resetMeter (t v : Nat) (s : State) : State :=
  let m : Meter := if bitAt v 4 then ⟨256 * bitsOf v 32 20, 256 * bitsOf v 88 20, after s 0⟩ else ⟨0, 0, after s 0⟩
  { s with tc := { s.tc with meters := s.tc.meters.set {} t m } }

/-- The wait to the first LTC of the form BASE_LTC + k × CYCLE_NS that is not earlier than now (R317); a BASE_LTC already past
with CYCLE_NS 0 is due at once. -/
def swapWait (s : State) (v : Nat) : Nat :=
  let base := bitsOf v 32 48
  let cyc := bitsOf v 80 24
  let past := (now48 s + 2 ^ 48 - base) % 2 ^ 48
  if !passed48 s base then (base + 2 ^ 48 - now48 s) % 2 ^ 48
  else if cyc = 0 || past % cyc = 0 then 0 else cyc - past % cyc

/-- A port entry with ARM 1 arms a swap (R317). -/
def armPort (p v : Nat) (s : State) : State :=
  if bitAt v 31 then
    wr (setTport s p { tportOf s p with armed := some (BitVec.ofNat 128 v), swapAt := after s (swapWait s v) })
      (Fld.TC_GATE_STATE_ARMED p) 1
  else s

/-- What writing one traffic-table entry does besides changing the settings (R317, R320). -/
def trafficSideEffect (table i v : Nat) (s : State) : State :=
  match table with
  | 1 => resetShaper i v s
  | 2 => resetMeter i v s
  | 3 => armPort i v s
  | _ => s

/-- The side effects of a run of entries. -/
def trafficSides (table : Nat) : Nat → List (BitVec 128) → State → State
  | _, [], s => s
  | i, e :: r, s => trafficSides table (i + 1) r (trafficSideEffect table i e.toNat s)

/-- The side effects of a staged command as its generation is applied (R320). -/
def applySide (op : StagedOp) (s : State) : State :=
  match op with
  | .traffic table first entries =>
    if table = 4 then writeGates first.toNat entries s else trafficSides table.toNat first.toNat entries s
  | _ => s

/-- The bank swap, epoch and drain of a generation that changes the route epoch (R271, R272). -/
def applyEpoch (e : BitVec 16) (s : State) : State :=
  let s := wr s Fld.FAB_ROUTE_STATUS_EPOCH e.toNat
  let s := wr s Fld.FAB_ROUTE_STATUS_PATH_BANK (1 - rd s Fld.FAB_ROUTE_STATUS_PATH_BANK)
  wr (wr s Fld.FAB_ROUTE_STATUS_DRAIN_MASK 0) Fld.FAB_ROUTE_STATUS_DRAINED 0

/-- A generation is applied in one step (R62, R63, R320). -/
def applyGen (gen : Nat) (late : Bool) (s : State) : State :=
  let ops := s.mode.staged
  let next := stagedSettings s
  let ep := stagedEpoch s
  let s := { s with mode := { s.mode with prev := some s.mode.applied, prevGen := BitVec.ofNat 16 (appliedGen s), applied := next } }
  let s := ops.foldl (fun s x => applySide x.op s) s
  let s := match ep with
    | some e => applyEpoch e s
    | none => s
  let s := clearStaged s
  let s := wr (wr s Fld.CTRL_MODE_STATUS_APPLIED_GEN gen) Fld.CTRL_MODE_STATUS_WINDOW_OPEN 1
  raiseEvent 7 0xFFF 16 (packBits [(16, gen), (1, b2n late), (47, 0), (48, now48 s)]) s

/-- The commit's final reply once its generation is applied; LATE = 1 where its activation LTC had already passed (R62). -/
def finishCommit (h : CmdHdr) (late : Bool) (s : State) : State :=
  match late, entryOf s h with
  | true, some e =>
    let r := { mkReply s h Status.OK [] with late := true, held := e.held, reexec := e.reexec }
    let s := updEntry s h fun e => { e with st := .replied, reply := some r, readyAt := after s 0 }
    let s := recordStatus h Status.OK s
    sendReply (if cmdLate s h then cmdDeadlineMiss h e.src s else s) e.src (after s 0) r
  | _, _ => okCmd h [] s

/-- `MODE_COMMIT` (R62). -/
def modeCommit (h : CmdHdr) (gen : BitVec 16) (act : BitVec 48) (s : State) : State :=
  if gen.toNat = appliedGen s && gen ≠ 0 then okCmd h [] s
  else if !isArmed s then refuseCmd h Status.NOT_ARMED s
  else if gen.toNat ≠ rd s Fld.CTRL_MODE_STATUS_ARMED_GEN then refuseCmd h Status.GEN_MISMATCH s
  else if act = 0 then finishCommit h false (applyGen gen.toNat false s)
  else if passed48 s act.toNat then finishCommit h true (applyGen gen.toNat true s)
  else if 1000000000 < (act.toNat + 2 ^ 48 - now48 s) % 2 ^ 48 then refuseCmd h Status.BAD_PARAM s
  else beginLong h { s with mode := { s.mode with commit := some ⟨h, gen, act⟩ } }

/-- MODE_COMMIT. -/
def execModeCommit (t : Ltc) (h : CmdHdr) (gen : BitVec 16) (act : BitVec 48) (s : State) :
    Host.Outcome State Fault Refusal :=
  opcode t h .platform false (modeCommit h gen act) s

/-- MODE_APPLY (R62): at the activation LTC the armed generation is applied by hardware, an Anvil running or not (R360). -/
def modeApply (s : State) : State :=
  match s.mode.commit with
  | none => s
  | some c =>
    if passed48 s c.act.toNat && isArmed s then
      let s := { s with mode := { s.mode with commit := none } }
      finishCommit c.h false (applyGen c.gen.toNat false s)
    else s

/-- MODE_APPLY. -/
def execModeApply (t : Ltc) (s : State) : Host.Outcome State Fault Refusal := .next (modeApply (adv t s))

/-- `MODE_CLOSE` (R64). -/
def modeClose (h : CmdHdr) (gen : BitVec 16) (s : State) : State :=
  let g := appliedGen s
  if gen.toNat = g && g ≠ 0 then
    let s := wr s Fld.CTRL_MODE_STATUS_WINDOW_OPEN 0
    let closed := if s.mode.prev.isSome then some s.mode.prevGen else s.mode.closedGen
    okCmd h [] { s with mode := { s.mode with prev := none, closedGen := closed } }
  else if gen.toNat = genAfter g then refuseCmd h Status.NOT_APPLIED s
  else refuseCmd h Status.GEN_MISMATCH s

/-- MODE_CLOSE. -/
def execModeClose (t : Ltc) (h : CmdHdr) (gen : BitVec 16) (s : State) : Host.Outcome State Fault Refusal :=
  opcode t h .platform false (modeClose h gen) s

/-- `MODE_ABORT` (R62): armed and staged copies of N are discarded; refused only when there is nothing of N. -/
def modeAbort (h : CmdHdr) (gen : BitVec 16) (s : State) : State :=
  let isNext := gen.toNat = genAfter (appliedGen s)
  if isNext && (isArmed s || !s.mode.staged.isEmpty) then
    let s := match s.mode.commit with
      | some c => refuseCmd c.h Status.NOT_ARMED { s with mode := { s.mode with commit := none } }
      | none => s
    okCmd h [] (clearStaged s)
  else refuseCmd h Status.NOT_ARMED s

/-- MODE_ABORT. -/
def execModeAbort (t : Ltc) (h : CmdHdr) (gen : BitVec 16) (s : State) : Host.Outcome State Fault Refusal :=
  opcode t h .platform false (modeAbort h gen) s

/-! ### Cells of a generation (R63, R65, R430) -/

/-- The settings a cell is handled under, by the low 8 bits of its generation (R63, R404). -/
def settingsFor (s : State) (gen8 : Nat) : Option Settings :=
  let g := appliedGen s
  if g % 256 = gen8 then some s.mode.applied
  else if isArmed s && rd s Fld.CTRL_MODE_STATUS_ARMED_GEN % 256 = gen8 then some (stagedSettings s)
  else if windowOpen s && s.mode.prevGen.toNat % 256 = gen8 then s.mode.prev
  else none

/-- A GEN_DISCARD event with the discards since the last one (R430). -/
def genDiscardEvent (s : State) : State :=
  let m := s.mode
  let p := packBits [(32, m.discardStale.toNat), (32, m.discardAhead.toNat), (8, m.discardGen.toNat), (8, 0),
    (48, m.discardLtc.toNat)]
  raiseEvent 12 0xFFF 16 p
    { s with mode := { m with discardStale := 0, discardAhead := 0, discardDue := some (after s (us 100)) } }

/-- A cell is discarded for its generation: the one closed last is stale, any other is ahead (R63). -/
def discardGen (gen8 : Nat) (s : State) : State :=
  let stale := s.mode.closedGen.any fun g => g.toNat % 256 = gen8
  let s := bump s (if stale then Fld.CTRL_MODE_DISCARD_STALE_CELLS else Fld.CTRL_MODE_DISCARD_AHEAD_CELLS)
  let m := s.mode
  let inc (x : BitVec 32) : BitVec 32 := BitVec.ofNat 32 (min (2 ^ 32 - 1) (x.toNat + 1))
  let s := { s with mode := { m with
    discardStale := if stale then inc m.discardStale else m.discardStale
    discardAhead := if stale then m.discardAhead else inc m.discardAhead
    discardGen := BitVec.ofNat 8 gen8
    discardLtc := BitVec.ofNat 48 (now48 s) } }
  match s.mode.discardDue with
  | some d => if now s < d.toNat then s else genDiscardEvent s
  | none => genDiscardEvent s

/-- GEN_DISCARD (R430): 100 µs after an event, discards since then are reported in a new one. -/
def execGenDiscard (t : Ltc) (s : State) : Host.Outcome State Fault Refusal :=
  let s := adv t s
  .next (match s.mode.discardDue with
    | none => s
    | some d =>
      if now s < d.toNat then s
      else if s.mode.discardStale = 0 && s.mode.discardAhead = 0 then
        { s with mode := { s.mode with discardDue := none } }
      else genDiscardEvent s)

end Sys2Proof.Machine
end

