-- ==== Sys2Proof/Machine/Router.lean ====
section
/-! DEFINITION. Cell routing (R259-R274, R283, R284, R403), endpoints' outgoing cells, congestion maps, drains and route
tables. -/

namespace Sys2Proof.Machine

/-! ### Cells -/

/-- Hop k of a cell's HOPS field (R260). -/
def hopOf (c : Cell) (k : Nat) : Nat := bitsOf c.hops.toNat (5 * k) 5

/-- Hop k replaced. -/
def setHop (c : Cell) (k v : Nat) : Cell := { c with hops := BitVec.ofNat 120 (putBits c.hops.toNat (5 * k) 5 v) }

/-- A path-routed management cell (R283). -/
def pathRouted (c : Cell) : Bool := c.cls = 6 && (c.op = 4 || c.op = 5)

/-! ### Encodings (R260, R261, R264) -/

/-- CLASS and OP are assigned (R261). -/
def opAssigned (cls op : Nat) : Bool :=
  match cls with
  | 0 => 1 ≤ op && op ≤ 6
  | 1 => 1 ≤ op && op ≤ 5
  | 2 => 1 ≤ op && op ≤ 5
  | 3 => 1 ≤ op && op ≤ 3
  | 4 => 1 ≤ op && op ≤ 11
  | 5 => op = 1
  | 6 => 1 ≤ op && op ≤ 6
  | _ => false

/-- A STATUS code of a class 1 cell is assigned (R264). -/
def statusAssigned (st : Nat) : Bool := st ≤ 2 || (0x10 ≤ st && st ≤ 0x15)

/-- No field of the header holds an unassigned encoding. A cell that has used its 24 hops carries HOP_PTR 24 (R266, log entry 56). -/
def encodingOk (c : Cell) : Bool :=
  opAssigned c.cls.toNat c.op.toNat && (c.hopPtr.toNat ≤ 24 || c.hopPtr = 31) &&
    ((List.range 24).all fun k => hopOf c k ≤ 15 || hopOf c k = 31) && (c.cls ≠ 1 || statusAssigned (bitsOf c.addr.toNat 0 8))

/-- A cell that fails its check is discarded and counted (R263). -/
def failCheck (s : State) : State := bump s Fld.FAB_STATUS_CHECK_FAIL

/-! ### Congestion counts (R270) -/

/-- The congestion counts of a port change. -/
def updCong (p : Nat) (f : Congestion → Congestion) (s : State) : State :=
  { s with fab := { s.fab with cong := s.fab.cong.set {} p (f (s.fab.cong.get {} p)) } }

/-- The counts of a port: a cell sent, one sent that did not want it, one that wanted it, an injection that waited. -/
def countBusy (p : Nat) : State → State := updCong p fun c => { c with busy := c.busy + 1 }
def countDeflOut (p : Nat) : State → State := updCong p fun c => { c with deflOut := c.deflOut + 1 }
def countDeflMiss (p : Nat) : State → State := updCong p fun c => { c with deflMiss := c.deflMiss + 1 }
def countInjWait (p : Nat) : State → State := updCong p fun c => { c with injWait := c.injWait + 1 }

/-- Slots of a congestion window (R286: 10..30, other values act as 20). -/
def windowSlots (s : State) : Nat :=
  let n := rd s Fld.FAB_CTRL_CONG_WINDOW_LOG2
  2 ^ (if 10 ≤ n && n ≤ 30 then n else 20)

/-- A port latches its map and starts a new window (R270). -/
def latchPort (s : State) (p : Nat) : State :=
  updCong p (fun c =>
    { latched := BitVec.ofNat 256 (packBits [(32, c.busy.toNat), (32, c.deflOut.toNat), (32, c.deflMiss.toNat),
        (32, c.injWait.toNat), (48, now48 s), (32, windowSlots s)]) }) s

/-- CONGESTION_WINDOW (R270): at the end of the window all ports latch their maps, and the next window begins. -/
def execCongestionWindow (t : Ltc) (s : State) : Host.Outcome State Fault Refusal :=
  let s := adv t s
  .next (if slotNo s < s.fab.congAt + windowSlots s then s
    else
      let s := (List.range 16).foldl latchPort s
      { s with fab := { s.fab with congAt := slotNo s } })

/-- CONGESTION_READ (R270). -/
def execCongestionRead (t : Ltc) (h : CmdHdr) (mask : BitVec 16) (s : State) : Host.Outcome State Fault Refusal :=
  opcode t h .platform false (fun s =>
    okCmd h (((setBits 16 mask.toNat).map fun p => leBytes 32 (s.fab.cong.get {} p).latched.toNat).flatten) s) s

/-! ### Routes -/

/-- The FAB_PATH bank in use, and the other one (R272, R286). -/
def activePath (s : State) (node : Nat) : Nat :=
  ((if rdb s Fld.FAB_ROUTE_STATUS_PATH_BANK then s.fab.paths1 else s.fab.paths0).get 0 node).toNat
def inactivePath (s : State) (node : Nat) : Nat :=
  ((if rdb s Fld.FAB_ROUTE_STATUS_PATH_BANK then s.fab.paths0 else s.fab.paths1).get 0 node).toNat

/-- A write to FAB_PATH goes to the inactive bank (R272). -/
def setInactivePath (node v : Nat) (s : State) : State :=
  let v := BitVec.ofNat 128 v
  if rdb s Fld.FAB_ROUTE_STATUS_PATH_BANK then { s with fab := { s.fab with paths0 := s.fab.paths0.set 0 node v } }
  else { s with fab := { s.fab with paths1 := s.fab.paths1.set 0 node v } }

/-- At applied generation 0 a management cell that is ejected or forwarded teaches the route to its source; the first route
learned stays (R403). -/
def learnRoute (arrival : Nat) (c : Cell) (s : State) : State :=
  if appliedGen s = 0 && s.ctl.partId.isSome && c.cls = 6 && !rtV (s.mode.applied.route c.src.toNat) then
    let e := packBits [(4, arrival), (4, 0), (6, c.age.toNat), (1, 1), (1, 0)]
    let st := { s.mode.applied with routes := s.mode.applied.routes.set 0 c.src.toNat (BitVec.ofNat 32 e) }
    { s with mode := { s.mode with applied := st } }
  else s

/-! ### A router slot (R265, R266) -/

/-- A cell that a router takes in a slot: the external port it arrived on, and whether it comes over the crossing; such a cell
still carries its port (R265, R283, R403). -/
structure Arrival where
  port : Nat
  crossed : Bool
  cell : Cell
  deriving DecidableEq, Repr

/-- The placement order of R266: path-routed cells, higher AGE, lower SRC, lower SSEQ; then the ports in rising order, the
crossing after them (R265). -/
def placeKey (a : Arrival) : Nat :=
  let c := a.cell
  ((((b2n (!pathRouted c)) * 64 + (63 - c.age.toNat)) * 4096 + c.src.toNat) * 65536 + c.sseq.toNat) * 32 +
    16 * b2n a.crossed + a.port

/-- A fabric die carries a port (R17). -/
def onDie (d : FDie) (p : Nat) : Bool := p / 8 = d.num

/-- The other fabric die. -/
def otherDie : FDie → FDie
  | .f0 => .f1
  | .f1 => .f0

/-- A crossing place of this slot from a die is free: there are 4 (R265). -/
def crossFree (s : State) (d : FDie) : Bool :=
  decide ((s.fab.crossing.filter fun x => x.die = otherDie d && x.slot = slotNo s).length < 4)

/-- A port of this die, or a crossing place toward the other die's port, is free to a cell (R265, R266). -/
def placeFree (s : State) (d : FDie) (c : Cell) (p : Nat) : Bool :=
  if onDie d p then canTake s p c.cls.toNat else crossFree s d

/-- A cell leaves on a port of the die, one hop older; at AGE 63 it is discarded (R266). -/
def leaveOn (a : Arrival) (p : Nat) (c : Cell) (s : State) : State :=
  if c.age = 63 then bump s Fld.FAB_STATUS_AGED_OUT
  else countBusy p (linkSend p { c with age := c.age + 1 } (learnRoute a.port c s))

/-- A cell takes a crossing place, unchanged (R265). -/
def crossOver (d : FDie) (a : Arrival) (c : Cell) (s : State) : State :=
  let x : Crossing := { die := otherDie d, port := BitVec.ofNat 4 a.port, at_ := after s 0, slot := slotNo s, cell := c }
  { s with fab := { s.fab with crossing := s.fab.crossing ++ [x] } }

/-- A cell gets neither wanted nor alternate port: the lowest free port of its die, else the crossing, else it is
discarded; from then on it is routed by tables (R266). -/
def deflect (d : FDie) (a : Arrival) (c : Cell) (wanted : Nat) (s : State) : State :=
  let s := countPart 0x302 1 (countDeflMiss wanted s)
  let s := if onDie d wanted then countFull wanted c.cls.toNat s else s
  let c := { c with hopPtr := 31 }
  match ((List.range 8).map (· + 8 * d.num)).find? fun p => placeFree s d c p with
  | some p => leaveOn a p c (countDeflOut p s)
  | none =>
    if crossFree s d then crossOver d a c s else bump s Fld.FAB_STATUS3_NO_PLACE

/-- A source hop that names a port which is not UP is treated as taken (R274). -/
def countDownHop (c : Cell) (s : State) : State :=
  let p := hopOf c c.hopPtr.toNat
  if c.hopPtr.toNat ≤ 23 && p ≤ 15 && portState s p ≠ 2 then countDeflMiss p s else s

/-- The wanted port, the alternate, and the cell as it is routed (R266); none where a table-mode cell has no route. -/
def wantedPort (s : State) (st : Settings) (c : Cell) : Option (Nat × Option Nat × Cell) :=
  let k := c.hopPtr.toNat
  if k ≤ 23 && hopOf c k ≤ 15 && portState s (hopOf c k) = 2 then some (hopOf c k, none, c)
  else
    let e := st.route c.dest.toNat
    if !rtV e then none
    else some (rtA e, (if rtBValid e then some (rtB e) else none), { c with hopPtr := 31 })

/-- A cell leaves toward a port: on this die (a source-routed cell advances HOP_PTR), or over the crossing. -/
def goTo (d : FDie) (a : Arrival) (c : Cell) (p : Nat) (s : State) : State :=
  if onDie d p then leaveOn a p (if c.hopPtr.toNat ≤ 23 then { c with hopPtr := c.hopPtr + 1 } else c) s
  else crossOver d a c s

/-- Places a path-routed cell: its used hop records the arrival port; it is never deflected (R283). -/
def placePath (d : FDie) (a : Arrival) (s : State) : State :=
  let c := a.cell
  let k := c.hopPtr.toNat
  let p := hopOf c k
  if !(p ≤ 15 && portState s p = 2 && placeFree s d c p) then bump s Fld.FAB_STATUS3_PATH_DROP
  else if onDie d p then leaveOn a p { setHop c k a.port with hopPtr := c.hopPtr + 1 } s
  else crossOver d a c s

/-- Places one cell that is not ejected (R266). -/
def placeCell (d : FDie) (a : Arrival) (st : Settings) (s : State) : State :=
  if pathRouted a.cell then placePath d a s
  else
    let r := wantedPort s st a.cell
    let s := countDownHop a.cell s
    match r with
    | none => bump s Fld.FAB_STATUS_NO_ROUTE
    | some (w, alt, c) =>
      if placeFree s d c w then goTo d a c w s
      else
        match alt with
        | some b => if portState s b = 2 && placeFree s d c b then goTo d a c b s else deflect d a c w s
        | none => deflect d a c w s

/-- A cell is ejected to the part: a path-routed one at a hop of 0x1F, any other whose DEST is this part (R265, R283, R284). -/
def ejects (s : State) (c : Cell) : Bool :=
  if pathRouted c then decide (23 < c.hopPtr.toNat) || hopOf c c.hopPtr.toNat = 0x1F
  else match s.ctl.partId with
    | some id => c.dest = id
    | none => false

/-- The endpoint takes an ejected cell, or discards it: an unassigned encoding, or a CRC that fails. The tag of an ENC 1 cell is
checked where its request or reply is taken (R261, R263, R341). -/
def ejectCell (a : Arrival) (s : State) : State :=
  let s := learnRoute a.port a.cell (countPart 0x300 1 s)
  if encodingOk a.cell && (a.cell.enc || a.cell.check = cellCrc a.cell) then emit (.eject (BitVec.ofNat 4 a.port) a.cell) s
  else failCheck s

/-- Routes one arriving cell: its generation and epoch are checked, then it is ejected or placed (R63, R265, R273). -/
def routeCell (d : FDie) (s : State) (a : Arrival) : State :=
  let c := a.cell
  match settingsFor s c.gen.toNat with
  | none => discardGen c.gen.toNat s
  | some st =>
    if c.repoch.toNat ≠ st.epoch.toNat % 16 then bump s Fld.FAB_STATUS_STALE_EPOCH
    else
      if ejects s c then ejectCell a s else placeCell d a st s

/-- The cells that a die takes from its ports, one from each (R265). -/
def portArrivals (d : FDie) (cells : List (BitVec 4 × Cell)) : List Arrival :=
  ((List.range 8).map (· + 8 * d.num)).filterMap fun p =>
    (cells.find? fun x => x.1.toNat = p).map fun x => { port := p, crossed := false, cell := x.2 }

/-- The cells that have come over the crossing to a die: it takes 16 cycles of FCLK, 10.9 ns (R269). -/
def crossedOver (s : State) (d : FDie) : List Crossing :=
  (s.fab.crossing.filter fun x => x.die = d && decide (x.slot + 8 ≤ slotNo s)).take 4

/-- A slot of a fabric die's router (R265, R266). -/
def routerSlot (d : FDie) (cells : List (BitVec 4 × Cell)) (s : State) : State :=
  let came := crossedOver s d
  let s := { s with fab := { s.fab with crossing := s.fab.crossing.filter fun x => !came.contains x } }
  let all := portArrivals d cells ++ came.map fun x => { port := x.port.toNat, crossed := true, cell := x.cell }
  (sortBy placeKey all).foldl (routeCell d) s

/-- ROUTER_SLOT (R265): every arriving cell is ejected, leaves or is discarded, in the placement order. -/
def execRouterSlot (t : Ltc) (d : FDie) (cells : List (BitVec 4 × Cell)) (s : State) : Host.Outcome State Fault Refusal :=
  .next (routerSlot d cells (adv t s))

/-! ### Cells of this part's endpoints (R268, R307) -/

/-- The port a request leaves by, with its source route when FAB_PATH has one (R268). -/
def requestPort (s : State) (dest : Nat) : Option (Nat × Option (BitVec 120)) :=
  let path := activePath s dest
  let hop0 := bitsOf path 0 5
  if bitAt path 120 && hop0 ≤ 15 && portState s hop0 = 2 then some (hop0, some (BitVec.ofNat 120 path))
  else (tablePort s dest).map fun p => (p, none)

/-- A reply, snoop, coherence or management cell of this part waits for a place at its port, in the order formed (R268,
R307); with no route it is discarded. -/
def sendCell (c : Cell) (s : State) : State :=
  match tablePort s c.dest.toNat with
  | none => bump s Fld.FAB_STATUS_NO_ROUTE
  | some p => queueCells p [c] s

/-! ### Drains and route tables (R271, R272) -/

/-- The requests issued through the endpoints of a mask that have neither completed nor timed out (R271). -/
def issuedThrough (s : State) (mask : Nat) : List (Nat × BitVec 48) :=
  (s.fab.reqs.filter fun r => bitAt mask r.port.toNat).map fun r => (outKey r.cell, r.num)

/-- A drain has nothing left to wait for. -/
def Drain.over (d : Drain) (s : State) : Bool :=
  d.reqs.all fun k => s.fab.reqs.all fun r => (outKey r.cell, r.num) ≠ k

/-- ROUTE_DRAIN (R271): the mask takes effect at once. A drain that a later one replaces or ends still gets its final reply when
the requests it waits for have ended. -/
def execRouteDrain (t : Ltc) (h : CmdHdr) (mask : BitVec 16) (s : State) : Host.Outcome State Fault Refusal :=
  opcode t h .platform false (fun s =>
    let s := wr (wr s Fld.FAB_ROUTE_STATUS_DRAIN_MASK mask.toNat) Fld.FAB_ROUTE_STATUS_DRAINED 0
    if mask = 0 then okCmd h [] s
    else
      let d : Drain := { h := h, mask := mask, reqs := issuedThrough s mask.toNat }
      beginLong h { s with fab := { s.fab with drains := s.fab.drains.filter (·.h ≠ h) ++ [d] } }) s

/-- A drain gets its final reply; DRAINED is set where it is that of the mask in force, and that is every port (R271). -/
def endDrain (s : State) (d : Drain) : State :=
  let s := { s with fab := { s.fab with drains := s.fab.drains.erase d } }
  let s := if d.mask = 0xFFFF && rd s Fld.FAB_ROUTE_STATUS_DRAIN_MASK = 0xFFFF then wr s Fld.FAB_ROUTE_STATUS_DRAINED 1 else s
  okCmd d.h [] s

/-- DRAIN_COMPLETE (R271): the drains whose requests have all ended get their final reply. -/
def execDrainComplete (t : Ltc) (s : State) : Host.Outcome State Fault Refusal :=
  let s := adv t s
  .next ((s.fab.drains.filter fun d => d.over s).foldl endDrain s)

/-- ROUTE_TABLE_WRITE (R267, R272): staged, for the staged epoch only. -/
def routeTableWrite (h : CmdHdr) (epoch first : BitVec 16) (entries : List (BitVec 32)) (s : State) : State :=
  let n := entries.length
  if entries.any fun e => bitsOf e.toNat 16 16 ≠ 0 then refuseCmd h Status.RSV_NONZERO s
  else if n = 0 || decide (1024 < n) || decide (4096 < first.toNat + n) || !h.staged || stagedEpoch s ≠ some epoch then
    refuseCmd h Status.BAD_PARAM s
  else stageCmd h (.routes epoch first entries) s

/-- ROUTE_TABLE_WRITE. -/
def execRouteTableWrite (t : Ltc) (h : CmdHdr) (epoch first : BitVec 16) (entries : List (BitVec 32)) (s : State) :
    Host.Outcome State Fault Refusal :=
  opcode t h .platform true (routeTableWrite h epoch first entries) s

/-- ROUTE_EPOCH_SET (R272): staged, while drained, and for another epoch. -/
def routeEpochSet (h : CmdHdr) (epoch : BitVec 16) (s : State) : State :=
  if !rdb s Fld.FAB_ROUTE_STATUS_DRAINED then refuseCmd h Status.NOT_PERMITTED s
  else if epoch.toNat % 16 = s.mode.applied.epoch.toNat % 16 || !h.staged then refuseCmd h Status.BAD_PARAM s
  else stageCmd h (.epoch epoch) s

/-- ROUTE_EPOCH_SET. -/
def execRouteEpochSet (t : Ltc) (h : CmdHdr) (epoch : BitVec 16) (s : State) : Host.Outcome State Fault Refusal :=
  opcode t h .platform true (routeEpochSet h epoch) s

end Sys2Proof.Machine
end

