-- ==== Sys2Proof/Machine/Traffic.lean ====
section
/-! DEFINITION. Ingress scheduling, shaping, policing and time gates (R307-R322). -/

namespace Sys2Proof.Machine

/-! ### Lengths (R309) -/

/-- The lines a `READ` draws: its own and those of its n further blocks (R261). -/
def readLines (c : Cell) : Nat :=
  let p := c.payload.toNat
  let n := bitsOf p 0 6
  popCount 8 c.lines.toNat + ((List.range n).map fun j => popCount 8 (bitsOf p (64 * (j + 1) + 35) 8)).foldl (· + ·) 0

/-- P of R309. -/
def cellP (c : Cell) : Nat :=
  if c.cls = 5 then 512
  else match c.op.toNat with
    | 1 => 64 * readLines c
    | 2 => 64 * popCount 8 c.lines.toNat
    | 4 => 64 * popCount 8 c.lines.toNat
    | 3 => 64
    | 5 => 8
    | _ => 0

/-- The length L = P + OVERHEAD of a cell at a port (R309). -/
def cellL (st : Settings) (p : Nat) (c : Cell) : Nat := cellP c + bitsOf (st.entry 3 p) 0 10

/-- How many reply cells a request expects (R261, R268). -/
def replyCells (c : Cell) : Nat := if c.cls = 0 && c.op = 1 then bitsOf c.payload.toNat 0 6 + 1 else 1

/-! ### Queues and tags (R308, R311, R312) -/

/-- The queue of a tenant at a port. -/
def tqueue (s : State) (p t : Nat) : TQueue := (tportOf s p).queues.get {} t

/-- Replaces the queue of a tenant at a port. -/
def setTqueue (p t : Nat) (q : TQueue) (s : State) : State :=
  let x := tportOf s p
  setTport s p { x with queues := x.queues.set {} t q }

/-- The entries of a queue, its WEIGHT, limit and gate class (R319). -/
def qEntry (s : State) (p t : Nat) : Nat := s.mode.applied.entry 0 (1024 * p + t)
def qWeight (s : State) (p t : Nat) : Nat := max 1 (bitsOf (qEntry s p t) 0 16)
def qMax (s : State) (p t : Nat) : Nat :=
  let m := bitsOf (qEntry s p t) 32 12
  if m = 0 then 2048 else m

/-- The finish tag S + floor(L × 65,536 / w) (R311). -/
def finishTag (s : State) (p t : Nat) (start : BitVec 48) (c : Cell) : BitVec 48 :=
  start + BitVec.ofNat 48 (cellL s.mode.applied p c * 65536 / qWeight s p t)

/-- The credit brought up to now: it rises while the queue waits or C is below 0, and a positive C of an empty queue is lost
(R312). -/
def creditNow (s : State) (p t : Nat) (q : TQueue) : TQueue :=
  let e := s.mode.applied.entry 1 (1024 * p + t)
  let idle : Int := (max 1 (bitsOf e 0 24) : Nat)
  let hi : Int := (256 * bitsOf e 24 20 : Nat)
  let dt : Int := ((now s - q.at_.toNat : Nat) : Int)
  let c := if !q.cells.isEmpty then min (q.credit + idle * dt) hi
    else if q.credit < 0 then (let c := min (q.credit + idle * dt) hi; if 0 < c then 0 else c)
    else if 0 < dt then 0 else q.credit
  { q with credit := c, at_ := after s 0 }

/-- The cells in a port's injection buffer. -/
def queuedCells (s : State) (p : Nat) : Nat :=
  ((tportOf s p).queues.map fun e => e.2.cells.length).foldl (· + ·) 0

/-- QUEUED follows the queues (R322). -/
def syncQueued (p : Nat) (s : State) : State := wr s (Fld.TC_PORT_STATUS_QUEUED p) (queuedCells s p)

/-- The injection-buffer cells reserved for a tenant (R350). -/
def injReserve (s : State) (t : Nat) : Nat := partInj (partEntry s t)

/-- The injection buffer has room for a tenant's cell: within its reserve, or in the shared part (R308, R350). -/
def bufferRoom (s : State) (p t : Nat) : Bool :=
  let used := (tqueue s p t).cells.length
  let reserved : Nat := (s.mode.applied.partitions.map fun e => partInj e.2.toNat).foldl (· + ·) 0
  let sharedUsed : Nat := ((tportOf s p).queues.map fun e => e.2.cells.length - injReserve s e.1).foldl (· + ·) 0
  decide (used < injReserve s t) || decide (sharedUsed < 2048 - reserved)

/-- A cell joins a queue; a queue that was empty wakes, unless its last cell left in this slot (R311). -/
def joinQueue (p t : Nat) (x : QCell) (s : State) : State :=
  let q := creditNow s p t (tqueue s p t)
  let q := if q.cells.isEmpty then
      let st := if q.leftAt = some (after s 0) then q.f else (tportOf s p).v
      { q with s := st, f := finishTag s p t st x.cell }
    else q
  syncQueued p (setTqueue p t { q with cells := q.cells ++ [x] } s)

/-- Requests of a stream, sent or queued, that lack their reply: their numbers, and for an atomic how many its stream sent before. -/
def openNums (s : State) (c : Cell) : List (Nat × Option Nat) :=
  let atom (c : Cell) (n : Nat) : Option Nat := if c.cls = 0 && c.op = 5 then some n else none
  let sent := (s.fab.reqs.filter fun r => outKey r.cell = outKey c).map fun r => (r.num.toNat, atom r.cell r.atom)
  let queued := (s.tc.ports.map fun e => (e.2.queues.map fun q => q.2.cells).flatten).flatten
  let queued := (queued.filter fun x => !x.resend && outKey x.cell = outKey c).map fun x => (x.num.toNat, atom x.cell x.atom)
  sent ++ queued

/-- The atomics a stream of this part has sent. -/
def atomsOf (s : State) (c : Cell) : Nat := s.fab.atoms.get 0 (outKey c)

/-- The limits of R276 let a request numbered n be sent: below 1,024 above the oldest request, and for an atomic fewer than 16
atomics after the oldest, of those that lack their reply. -/
def withinLimits (s : State) (c : Cell) (n : Nat) : Bool :=
  let open_ := openNums s c
  (open_.all fun x => decide (n < x.1 + 1024)) &&
    (!(c.cls = 0 && c.op = 5) ||
      open_.all fun x => match x.2 with | some k => decide (atomsOf s c < k + 16) | none => true)

/-- A remote access of a tenant to a node needs ENC 1: ENC_ALWAYS, or one end is no member (R263, R343). -/
def needsEnc (s : State) (t node : Nat) : Bool :=
  let e := match s.sec.tenants.find t with | some x => x.entry.toNat | none => 0
  bitAt e 11 || !memberNode s (sourceId s).toNat || !memberNode s node

/-- The tenant's OUT_SLOT is set and holds a key (R331, R343). -/
def outSlotOk (s : State) (t : Nat) : Bool :=
  match s.sec.tenants.find t with
  | none => false
  | some x =>
    bitAt x.entry.toNat 29 && (match s.sec.jobs.find (bitsOf x.entry.toNat 16 13) with | some j => !j.lost | none => false)

/-- A remote access that R343 keeps from being sent. -/
def encBlocked (s : State) (t node : Nat) : Bool := needsEnc s t node && !outSlotOk s t

/-- The cell of a request of a tenant as it leaves: under the tenant's OUT_SLOT where ENC 1 is needed, none where that slot is
not set or holds no key (R29, R263, R343). -/
def outgoing (s : State) (t : Nat) (c : Cell) : Option Cell :=
  if c.enc || !needsEnc s t c.dest.toNat then some c
  else if outSlotOk s t then
    let e := match s.sec.tenants.find t with | some x => x.entry.toNat | none => 0
    some { c with enc := true, owner := BitVec.ofNat 13 (bitsOf e 16 13) }
  else none

/-- A request cell of a tenant takes the next number of its stream and joins its queue; without room it stays with its
engine. -/
def joinRequest (p te : Nat) (c : Cell) (s : State) : State :=
  let n := s.fab.nextNum.get 0 (outKey c)
  if decide (qMax s p te ≤ (tqueue s p te).cells.length) || !bufferRoom s p te || !withinLimits s c n.toNat then s
  else
    let k := atomsOf s c
    let x : QCell := ⟨{ c with sseq := BitVec.ofNat 16 n.toNat, src := sourceId s }, n, false, k⟩
    let s := { s with fab := { s.fab with nextNum := s.fab.nextNum.set 0 (outKey c) (n + 1)
                                          atoms := if c.cls = 0 && c.op = 5 then s.fab.atoms.set 0 (outKey c) (k + 1) else s.fab.atoms } }
    joinQueue p te x s

/-- A request joins the queue at the port it leaves by (R268, R308); without a route it is discarded. -/
def queueJoin (te : Nat) (c : Cell) (s : State) : State :=
  match requestPort s c.dest.toNat with
  | some (p, _) => joinRequest p te c s
  | none => bump s Fld.FAB_STATUS_NO_ROUTE

/-- QUEUE_JOIN (R308): one that needs a key the tenant has not is not sent (R343). -/
def execQueueJoin (t : Ltc) (tenant : BitVec 10) (c : Cell) (s : State) : Host.Outcome State Fault Refusal :=
  let s := adv t s
  .next (if c.cls ≠ 0 && c.cls ≠ 5 then s
    else
      match outgoing s tenant.toNat c with
      | some c => queueJoin tenant.toNat c s
      | none => bump s Fld.SEC_FAB_STATUS_NO_OUT_SLOT)

/-! ### Time gates (R315-R317) -/

/-- The entry of a list of (interval, mask) in force at an offset; the last one stays in force (R315). -/
def gateAt : List (Nat × Nat) → Nat → Option Nat
  | [], _ => none
  | [(_, m)], _ => some m
  | (i, m) :: r, off => if off < i then some m else gateAt r (off - i)

/-- The active gate list of a port: (interval, mask) of its COUNT entries. -/
def activeGates (s : State) (p : Nat) : List (Nat × Nat) :=
  let x := tportOf s p
  let bank := if rdb s (Fld.TC_GATE_STATE_BANK p) then x.bank1 else x.bank0
  (List.range (rd s (Fld.TC_GATE_STATE_ACTIVE_COUNT p))).map fun i =>
    let v := (bank.get 0 i).toNat
    (bitsOf v 0 24, bitsOf v 24 8)

/-- A gate class is open at a time (R315); an empty list leaves every class open. -/
def gateOpen (s : State) (p cls time : Nat) : Bool :=
  let base := rd s (Fld.TC_GATE_STATE_ACTIVE_BASE p)
  let cyc := max 1 (tportOf s p).cycle.toNat
  let off := (time % 2 ^ 48 + 2 ^ 48 - base) % 2 ^ 48 % cyc
  match gateAt (activeGates s p) off with
  | none => true
  | some m => bitAt m cls

/-- The guard G of a port: at least Gmin of its width (R316). -/
def guardNs (s : State) (p : Nat) : Nat :=
  let gmin := match portWidth s p with | 8 => 3 | 4 => 6 | _ => 2
  max (bitsOf (s.mode.applied.entry 3 p) 16 8) gmin

/-- The class stays open through the guard (R316). -/
def guardOpen (s : State) (p cls : Nat) : Bool :=
  (List.range (guardNs s p + 1)).all fun i => gateOpen s p cls (now s + i)

/-- GATE_SWAP (R317): at the armed time the inactive bank becomes active with the armed entry's COUNT, BASE_LTC and
CYCLE_NS. -/
def execGateSwap (t : Ltc) (port : BitVec 4) (s : State) : Host.Outcome State Fault Refusal :=
  let s := adv t s
  let p := port.toNat
  .next (match (tportOf s p).armed with
    | none => s
    | some e =>
      let e := e.toNat
      if (tportOf s p).swapAt.toNat ≤ now s then
        let s := setTport s p { tportOf s p with armed := none, cycle := BitVec.ofNat 24 (bitsOf e 80 24) }
        let s := wr s (Fld.TC_GATE_STATE_BANK p) (1 - rd s (Fld.TC_GATE_STATE_BANK p))
        let s := wr (wr s (Fld.TC_GATE_STATE_ACTIVE_BASE p) (bitsOf e 32 48)) (Fld.TC_GATE_STATE_ACTIVE_COUNT p) (bitsOf e 24 7)
        wr s (Fld.TC_GATE_STATE_ARMED p) 0
      else s)

/-- GATE_INTERVAL_END (R315): which entry is in force is a function of the LTC alone, so the LTC is all that moves. -/
def execGateIntervalEnd (t : Ltc) (_port : BitVec 4) (s : State) : Host.Outcome State Fault Refusal := .next (adv t s)

/-! ### The scheduler (R307, R310, R311) -/

/-- What holds a waiting queue back in a slot. -/
inductive HeldBy where
  | nothing
  | drain
  | gate
  | guard
  | shaper
  | window
  deriving DecidableEq, Repr

/-- The cells an endpoint has outstanding (R28, R268). -/
def outstanding (s : State) (p : Nat) : Nat :=
  ((s.fab.reqs.filter fun r => r.port.toNat = p).map fun r => replyCells r.cell).foldl (· + ·) 0

/-- Whether the head cell of a queue may be taken in this slot, and what holds it otherwise (R28, R271, R310, R316). -/
def heldBy (s : State) (p t : Nat) (q : TQueue) : HeldBy :=
  match q.cells with
  | [] => .drain
  | x :: _ =>
    let e := qEntry s p t
    let cls := bitsOf e 16 3
    if bitAt (rd s Fld.FAB_ROUTE_STATUS_DRAIN_MASK) p && x.cell.cls = 0 && !x.resend then .drain
    else if !x.resend && decide (4096 < outstanding s p + replyCells x.cell) then .window
    else if bitAt e 19 && decide (q.credit < 0) then .shaper
    else if !gateOpen s p cls (now s) then .gate
    else if !guardOpen s p cls then .guard
    else .nothing

/-- The queues of a port that hold cells, brought up to now, with what holds each. -/
def waitingQueues (s : State) (p : Nat) : List (Nat × TQueue × HeldBy) :=
  ((tportOf s p).queues.filter fun e => !e.2.cells.isEmpty).map fun e =>
    let q := creditNow s p e.1 e.2
    (e.1, q, heldBy s p e.1 q)

/-- The eligible queue with the smallest finish tag; ties go to the lower q (R310, R311). -/
def pickQueue (s : State) (p : Nat) : Option (Nat × TQueue × HeldBy) :=
  firstMin (fun x => (x.2.1.f - (tportOf s p).v + BitVec.ofNat 48 (2 ^ 47)).toNat)
    ((waitingQueues s p).filter fun x => x.2.2 = .nothing)

/-- The counters of slots in which a waiting queue was held (R322). -/
def countHeld (p : Nat) (s : State) : State :=
  let w := waitingQueues s p
  let any (h : HeldBy) := w.any fun x => x.2.2 = h
  let s := if any .gate then bump s (Fld.TC_PORT_STATUS_GATE_HELD p) else s
  let s := if any .guard then bump s (Fld.TC_PORT_STATUS_GUARD_HELD p) else s
  if any .shaper then bump s (Fld.TC_PORT_STATUS_SHAPER_HELD p) else s

/-- The head cell of a queue is selected: V, tags and credit move (R311, R312). -/
def selectHead (p t : Nat) (q : TQueue) (s : State) : State :=
  match q.cells with
  | [] => s
  | x :: rest =>
    let s := setTport s p { tportOf s p with v := q.s }
    let c := q.credit - ((256 * cellL s.mode.applied p x.cell : Nat) : Int)
    let q' := match rest with
      | [] => { q with cells := [], credit := c, leftAt := some (after s 0) }
      | y :: _ => { q with cells := rest, credit := c, s := q.f, f := finishTag s p t q.f y.cell, leftAt := none }
    syncQueued p (setTqueue p t q' s)

/-- A request as it leaves: with the CRC, or encrypted under its job key with its tag (R263, R341). -/
def protect (s : State) (num : Nat) (c : Cell) : Cell :=
  if c.enc then
    match s.sec.jobs.find c.owner.toNat with
    | some j => sealCell j.binding (cellNonce num c.src.toNat c.dest.toNat none) c
    | none => c
  else withCrc c

/-- A request's route as it is sent: source-routed on the port of hop 0 of its path, table-routed otherwise (R268). -/
def routed (s : State) (p : Nat) (c : Cell) : Cell :=
  let c := { c with gen := cellGen s, repoch := cellEpoch s, age := 0 }
  match requestPort s c.dest.toNat with
  | some (q, some hops) => if q = p then { c with hops := hops, hopPtr := 1 } else { c with hops := noHops, hopPtr := 31 }
  | _ => { c with hops := noHops, hopPtr := 31 }

/-- A request is sent: its GEN, REPOCH and route are those of the moment of sending, and it is outstanding from its first
sending (R268, R276, R279). -/
def sendRequest (p t : Nat) (x : QCell) (s : State) : State :=
  let c := { protect s x.num.toNat (routed s p x.cell) with age := 1 }
  let s := countPart 0x301 1 (countBusy p (linkSend p c s))
  if x.resend then
    let upd (r : Request) : Request :=
      if outKey r.cell = outKey c && r.num = x.num then
        { r with lastSent := after s 0, waiting := false, backoff := false, sends := if r.backoff then r.sends else r.sends + 1 }
      else r
    { s with fab := { s.fab with reqs := s.fab.reqs.map upd } }
  else
    let r : Request := { dest := c.dest, enc := c.enc, owner := c.owner, num := x.num, port := BitVec.ofNat 4 p,
                         tenant := BitVec.ofNat 10 t, cell := x.cell, missing := BitVec.ofNat 64 (2 ^ replyCells x.cell - 1),
                         firstSent := after s 0, lastSent := after s 0, atom := x.atom }
    { s with fab := { s.fab with reqs := s.fab.reqs ++ [r] } }

/-- SCHEDULER_SLOT (R265, R307, R310): in a slot in which the port is free after the arriving cells were placed, a formed cell
waiting for it leaves first; otherwise the scheduler injects the head cell with the smallest finish tag. -/
def schedulerSlot (p : Nat) (s : State) : State :=
  let s := countHeld p s
  match readyAt s p with
  | c :: rest =>
    if canTake s p c.cls.toNat then
      countPart 0x301 1 (countBusy p (linkSend p { c with age := 1 } (setReady p rest s)))
    else countFull p c.cls.toNat (countInjWait p s)
  | [] =>
    match pickQueue s p with
    | none => s
    | some (t, q, _) =>
      match q.cells with
      | [] => s
      | x :: _ =>
        if canTake s p x.cell.cls.toNat then sendRequest p t x (selectHead p t q s)
        else countFull p x.cell.cls.toNat (countInjWait p s)

/-- SCHEDULER_SLOT; where the port sends nothing in the slot it sends an idle cell (R297). -/
def execSchedulerSlot (t : Ltc) (port : BitVec 4) (s : State) : Host.Outcome State Fault Refusal :=
  let s := adv t s
  .next (sendIdle port.toNat (schedulerSlot port.toNat s))

/-! ### Meters (R313, R314) -/

/-- A meter's colour of a cell. -/
inductive Colour where
  | green
  | yellow
  | red
  deriving DecidableEq, Repr

/-- A meter brought up to now (R313). -/
def refill (s : State) (e : Nat) (m : Meter) : Meter :=
  let dt := now s - m.at_.toNat
  { tc := min (256 * bitsOf e 32 20) (m.tc + bitsOf e 8 24 * dt),
    ts := min (256 * bitsOf e 88 20) (m.ts + bitsOf e 64 24 * dt), at_ := after s 0 }

/-- The test of R313 on B = 256 × L. -/
def meterTest (e : Nat) (m : Meter) (b : Nat) : Colour × Meter :=
  match bitsOf e 0 2 with
  | 1 =>
    if m.ts < b then (.red, m)
    else if m.tc < b then (.yellow, { m with ts := m.ts - b })
    else (.green, { m with ts := m.ts - b, tc := m.tc - b })
  | 2 =>
    if b ≤ m.tc then (.green, { m with tc := m.tc - b })
    else if b ≤ m.ts then (.yellow, { m with ts := m.ts - b })
    else (.red, m)
  | _ => (.green, m)

/-- A request cell is coloured by its tenant's meter and counted; true where it is answered `NACK` (R313, R314). -/
def meterCell (st : Settings) (p t : Nat) (c : Cell) (s : State) : Bool × State :=
  let e := st.entry 2 t
  let m := refill s e (s.tc.meters.get {} t)
  let (col, m) := meterTest e m (256 * cellL st p c)
  let s := { s with tc := { s.tc with meters := s.tc.meters.set {} t m } }
  match col with
  | .green => (false, bump s (Fld.TC_METER_STATUS_GREEN t))
  | .yellow =>
    let s := bump s (Fld.TC_METER_STATUS_YELLOW t)
    if bitAt e 2 then (true, bump s (Fld.TC_METER_STATUS_NACKED t)) else (false, s)
  | .red =>
    let s := bump s (Fld.TC_METER_STATUS_RED t)
    if bitAt e 3 then (true, bump s (Fld.TC_METER_STATUS_NACKED t)) else (false, s)

/-! ### TRAFFIC_TABLE_WRITE (R318-R320) -/

/-- A gate entry is written for a port whose swap is armed (R317). -/
def gateArmed (s : State) (first n : Nat) : Bool :=
  (List.range n).any fun i => (tportOf s ((first + i) / 64)).armed.isSome

/-- A queue entry gives another tenant's queue the gate class of a partition (R351). -/
def givesPartitionClass (s : State) (first : Nat) (entries : List (BitVec 128)) : Bool :=
  (List.range entries.length).any fun i =>
    s.mode.applied.partitions.any fun p =>
      decide ((first + i) % 1024 ≠ p.1) && bitsOf ((entries.getD i 0).toNat) 16 3 = partClass p.2.toNat

/-- TRAFFIC_TABLE_WRITE (R318). -/
def trafficTableWrite (h : CmdHdr) (table : Byte) (first : BitVec 16) (entries : List (BitVec 128)) (s : State) : State :=
  let tb := table.toNat
  let n := entries.length
  let f := first.toNat
  if 4 < tb || n = 0 || decide (trafficCount tb < f + n) then refuseCmd h Status.BAD_PARAM s
  else if entries.any fun e => trafficRsv tb e.toNat then refuseCmd h Status.RSV_NONZERO s
  else if (entries.any fun e => !trafficRange tb e.toNat) || (tb = 4 && gateArmed s f n) then refuseCmd h Status.BAD_PARAM s
  else if h.staged then stageCmd h (.traffic table first entries) s
  else if (tb = 2 && entries.any fun e => !meterOk e.toNat) || (tb = 0 && givesPartitionClass s f entries) then
    refuseCmd h Status.BAD_PARAM s
  else if tb = 4 then okCmd h [] (writeGates f entries s)
  else
    let s := { s with mode := { s.mode with applied := s.mode.applied.setEntries tb f entries } }
    okCmd h [] (trafficSides tb f entries s)

/-- TRAFFIC_TABLE_WRITE. -/
def execTrafficTableWrite (t : Ltc) (h : CmdHdr) (table : Byte) (first : BitVec 16) (entries : List (BitVec 128)) (s : State) :
    Host.Outcome State Fault Refusal :=
  opcode t h .platform true (trafficTableWrite h table first entries) s

end Sys2Proof.Machine
end

