-- ==== Sys2Proof/Machine/Xlt.lean ====
section
/-! DEFINITION. Ingots, page-table walks, TLBs, page faults and invalidation (R99-R124). -/

namespace Sys2Proof.Machine

/-- Nothing comes back from outside. -/
def noExt : Ext := { owners := [], remote := [] }

/-! ### Sweep bookkeeping (R336) -/

/-- Items lo..hi − 1 are no longer under the old generation. -/
def Sweep.refresh (w : Sweep) (lo hi : Nat) : Sweep :=
  { w with ptrs := w.ptrs.keep fun i _ => !(decide (lo ≤ i ∧ i < hi)),
           fresh := if w.fresh.any (fun r => r.2 = lo) then w.fresh.map fun r => if r.2 = lo then (r.1, hi) else r
                    else w.fresh ++ [(lo, hi)] }

/-- An item joined a tenant's memory, tagged with the current generation. -/
def itemsJoin (t lo hi : Nat) (s : State) : State :=
  { s with sec := { s.sec with tenants := s.sec.tenants.upd t fun x =>
    match x.sweep with
    | none => x
    | some w => { x with sweep := some (w.refresh lo hi) } } }

/-- How many of the items lo..hi − 1 a sweep has still to re-encrypt. -/
def Sweep.oldIn (w : Sweep) (lo hi : Nat) : Nat := ((List.range (hi - lo)).filter fun i => w.isOld (lo + i)).length

/-- A sweep ends: the old key is erased and KEY_SWEEP_DONE sent (R336, R430). -/
def sweepEnds (t : Nat) (x : Tenant) (w : Sweep) (s : State) : State :=
  let s := { s with sec := { s.sec with tenants := s.sec.tenants.put t { x with sweep := none } } }
  raiseEvent 9 t 8 (packBits [(10, t), (6, 0), (16, w.gen.toNat), (16, x.keyGen.toNat)]) s

/-- Items leave a tenant's memory, and the count of a sweep; at 0 the sweep ends (R336). -/
def itemsLeave (t lo hi : Nat) (s : State) : State :=
  match s.sec.tenants.find t with
  | none => s
  | some x =>
    match x.sweep with
    | none => s
    | some w =>
      let n := w.oldIn lo hi
      if n = 0 then s
      else
        let w' : Sweep := { w.refresh lo hi with count := w.count - n }
        if w'.count = 0 then sweepEnds t { x with sweep := some w' } w' s
        else { s with sec := { s.sec with tenants := s.sec.tenants.put t { x with sweep := some w' } } }

/-! ### Ingots (R101-R105) -/

/-- The entry of an ingot (R101). -/
def ingotEntry (n : Nat) (i : Ingot) : Nat :=
  packBits [(16, n), (10, i.tenant.toNat), (2, i.kind.toNat), (4, 0), (10, i.base.toNat), (6, 0), (10, i.count.toNat), (70, 0)]

/-- RSV bits and unassigned encodings of an ingot entry (R13, R101). -/
def ingotRsvOk (e : Nat) : Bool :=
  bitsOf e 28 4 = 0 && bitsOf e 42 6 = 0 && bitsOf e 58 70 = 0 && bitsOf e 26 2 ≠ 3 && bitsOf e 0 16 ≠ 0xFFFF

/-- A granule cannot join an ingot (R102). -/
def granuleTaken (s : State) (g : Nat) : Bool :=
  (ingotAt s g).isSome || inRegion s 0 g || inReserve s g || s.mem.landing.any (fun f => f.toNat / 512 = g) ||
    s.mem.promoted.keys.any (fun f => f / 512 = g)

/-- A granule of which some segment was lost to masked self-refresh (R80). -/
def granuleLost (s : State) (g : Nat) : Bool :=
  s.mem.lost.any fun e =>
    decide (s.mem.zeroed.get 0 g < e.2) && decide (e.1 / 8 < 384) && granuleInSegment s (e.1 / 8 / 192) (e.1 % 8) g

/-- The granules of a run that were lost are zeroed (R80). -/
def zeroLost (base count : Nat) (s : State) : State :=
  (List.range count).foldl (fun s i => if granuleLost s (base + i) then zeroGranule (base + i) s else s) s

/-- INGOT_ADD (R102). -/
def execIngotAdd (t : Ltc) (h : CmdHdr) (e : BitVec 128) (s : State) : Host.Outcome State Fault Refusal :=
  opcode t h .either false (fun s =>
    let x := e.toNat
    let n := bitsOf x 0 16
    let ten := bitsOf x 16 10
    let kind := bitsOf x 26 2
    let base := bitsOf x 32 10
    let count := bitsOf x 48 10
    if !ingotRsvOk x then refuseCmd h Status.RSV_NONZERO s
    else if (kind = 2 && (h.tenant ≠ 0xFFF || ten ≠ 0)) || (kind ≠ 2 && h.tenant.toNat ≠ ten) then
      refuseCmd h Status.BAD_PARAM s
    else if count = 0 || decide (granules s < base + count) then refuseCmd h Status.BAD_PARAM s
    else if (s.mem.ingots.find n).isSome || (List.range count).any (fun i => granuleTaken s (base + i)) then
      refuseCmd h Status.CONFLICT s
    else if 1024 ≤ s.mem.ingots.length then refuseCmd h Status.NO_RESOURCE s
    else
      let s := zeroLost base count s
      let g : Ingot := { tenant := BitVec.ofNat 10 ten, kind := BitVec.ofNat 2 kind, base := BitVec.ofNat 10 base,
                         count := BitVec.ofNat 10 count }
      let s := { s with mem := { s.mem with ingots := s.mem.ingots.put n g } }
      okCmd h [] (if kind = 2 then s else itemsJoin ten (512 * base) (512 * (base + count)) s)) s

/-- The ingot an opcode names, when its scope may name it. DESIGN CHOICE (log entry 56): which headers may name which ingot in
INGOT_RELEASE and INGOT_QUERY is not stated; 0xFFF names any, a tenant its own of KIND 0 or 1. -/
def namedIngot (s : State) (h : CmdHdr) (n : Nat) : Option Ingot :=
  match s.mem.ingots.find n with
  | some i => if h.tenant = 0xFFF || (i.kind ≠ 2 && h.tenant.toNat = i.tenant.toNat) then some i else none
  | none => none

/-- INGOT_QUERY (R57, R101). -/
def execIngotQuery (t : Ltc) (h : CmdHdr) (ingot : BitVec 16) (s : State) : Host.Outcome State Fault Refusal :=
  opcode t h .either false (fun s =>
    match namedIngot s h ingot.toNat with
    | none => refuseCmd h Status.NOT_FOUND s
    | some i => okCmd h (leBytes 16 (ingotEntry ingot.toNat i)) s) s

/-- Every table of TLB entries goes through a filter. -/
def filterTlbs (keep : TlbEntry → Bool) (s : State) : State :=
  let f (t : Tab (List TlbEntry)) : Tab (List TlbEntry) := (t.mapVals fun _ l => l.filter keep).keep fun _ l => !l.isEmpty
  { s with xlt := { s.xlt with l1 := f s.xlt.l1, l2 := f s.xlt.l2 } }

/-- Every walk cache goes through a filter. -/
def filterWalks (keep : WalkEntry → Bool) (s : State) : State :=
  { s with xlt := { s.xlt with wc := (s.xlt.wc.mapVals fun _ l => l.filter keep).keep fun _ l => !l.isEmpty } }

/-- A TLB entry's frame lies outside lo..hi − 1 of the stacks. -/
def TlbEntry.outside (lo hi : Nat) (e : TlbEntry) : Bool :=
  e.tier ≠ 0 || decide (hi ≤ e.addr) || decide (e.addr + 2 ^ e.size ≤ lo)

/-- The requests this part's engines have outstanding at other nodes: sent or queued, and lacking their reply. -/
def openReqs (s : State) : List (Nat × BitVec 48) :=
  (s.fab.reqs.map fun r => (outKey r.cell, r.num)) ++
    ((s.tc.ports.vals.flatMap fun p => p.queues.vals.flatMap TQueue.cells).map fun q => (outKey q.cell, q.num))

/-- The translation epoch flips: the accesses now outstanding (R122). -/
def flipEpoch (s : State) : Epoch := { began := after s 0, reqs := openReqs s, pend := s.coh.pend.keys }

/-- No access issued under the previous epoch is outstanding. -/
def epochOver (s : State) (e : Epoch) : Bool :=
  (e.reqs.all fun r => !(openReqs s).contains r) && e.pend.all fun k => (s.coh.pend.find k).isNone

/-- INGOT_RELEASE marks its ingot and removes the translations into it (R105); the rest follows at EPOCH_WAIT_DONE.
A release that is begun again, after a takeover, goes on where it stood. -/
def execIngotRelease (t : Ltc) (h : CmdHdr) (ingot : BitVec 16) (s : State) : Host.Outcome State Fault Refusal :=
  opcode t h .either false (fun s =>
    match namedIngot s h ingot.toNat with
    | none => refuseCmd h Status.NOT_FOUND s
    | some i =>
        let again := i.releasing.isSome
        let s := { s with mem := { s.mem with ingots := s.mem.ingots.put ingot.toNat { i with releasing := some h } } }
        let lo := i.base.toNat * gib
        let hi := lo + i.count.toNat * gib
        let s := filterTlbs (TlbEntry.outside lo hi) s
        let s := filterWalks (fun w => decide (w.table < lo ∨ hi ≤ w.table)) s
        beginLong h (if again then s
          else { s with xlt := { s.xlt with releaseAt := s.xlt.releaseAt.put ingot.toNat (flipEpoch s) } })) s

/-- What a wait for the translation epoch lasted, in whole µs, saturating (R125). -/
def noteInvTime (began : Ltc) (s : State) : State :=
  wr s Fld.XLT_INV_STATUS_LAST_INV_US (min 0xFFFF ((now s - began.toNat) / 1000))

/-- Every line of a range that agents hold is recalled; its data is of no more use (R105). -/
def recallRange (lo hi : Nat) (s : State) : State :=
  (s.coh.dir.keys.filter fun ln => decide (lo ≤ ln ∧ ln < hi)).foldl (fun s ln => (recallLine ln noExt s).2) s

/-- Nothing of an ingot is still in use: no tier move of a page in it, no line at work (R105). -/
def ingotQuiet (s : State) (i : Ingot) : Bool :=
  let lo := i.base.toNat * gib
  let hi := lo + i.count.toNat * gib
  !(s.mem.moves.any fun m => let a := (pteOf m.old).addr; (pteOf m.old).tier = 0 && decide (lo ≤ a ∧ a < hi)) &&
    !((s.coh.htt.keys ++ s.coh.waits.keys).any fun ln => decide (lo ≤ 64 * ln ∧ 64 * ln < hi))

/-- The release of an ingot ends: lines recalled, granules zeroed and freed, reply sent (R105). -/
def finishRelease (n : Nat) (i : Ingot) (h : CmdHdr) (s : State) : State :=
  let b := i.base.toNat
  let s := noteInvTime (s.xlt.releaseAt.get {} n).began s
  let s := recallRange (b * 2 ^ 24) ((b + i.count.toNat) * 2 ^ 24) s
  let s := (List.range i.count.toNat).foldl (fun s k => zeroGranule (b + k) s) s
  let s := if i.kind = 2 then s else itemsLeave i.tenant.toNat (512 * b) (512 * (b + i.count.toNat)) s
  let s := { s with mem := { s.mem with ingots := s.mem.ingots.del n },
                    xlt := { s.xlt with releaseAt := s.xlt.releaseAt.del n } }
  okCmd h [] s

/-- EPOCH_WAIT_DONE for a release (R105): once the accesses of the previous epoch and those accepted before the mark have ended. -/
def releaseWaitDone (n : Nat) (s : State) : State :=
  match s.mem.ingots.find n with
  | none => s
  | some i =>
    match i.releasing with
    | none => s
    | some h => if epochOver s (s.xlt.releaseAt.get {} n) && ingotQuiet s i then finishRelease n i h s else s

/-- INTERLEAVE_SET (R27, R68, R128): the directory reserve moves and every entry of it is free. -/
def execInterleaveSet (t : Ltc) (h : CmdHdr) (g : Byte) (s : State) : Host.Outcome State Fault Refusal :=
  opcode t h .platform false (fun s =>
    if g.toNat = 0 || decide (4 < g.toNat) then refuseCmd h Status.RSV_NONZERO s
    else if !s.mem.ingots.isEmpty then refuseCmd h Status.IN_USE s
    else okCmd h [] (freeReserve (wr s Fld.MEM_CONFIG_GRAIN g.toNat))) s

/-! ### TLBs (R112) -/

/-- Adds an entry to a list of at most n; where it is full, one of its entries leaves, which the manual does not name. -/
def insertBounded {α : Type} (n : Nat) (e : α) (l : List α) (s : State) : List α × State :=
  if l.length < n then (l ++ [e], s)
  else
    let d := draw s
    (l.eraseIdx (d.1 % l.length) ++ [e], d.2)

/-- The L2 TLB set of an entry (R112). -/
def l2Set (e : TlbEntry) : Nat := if e.size = 21 then bitsOf e.base 21 9 else bitsOf e.base 30 9

/-- An entry covers an address of a tenant; a hit is one whose parity holds (R235). -/
def TlbEntry.covers (t va : Nat) (e : TlbEntry) : Bool :=
  e.tenant.toNat = t && decide (e.base ≤ va ∧ va < e.base + 2 ^ e.size)
def TlbEntry.hits (t va : Nat) (e : TlbEntry) : Bool := e.covers t va && !e.bad

/-- The entries of an address whose parity fails are discarded (R235). -/
def dropBadLeaves (eng cl t va : Nat) (s : State) : State :=
  let f (l : List TlbEntry) : List TlbEntry := l.filter fun e => !(e.covers t va && e.bad)
  { s with xlt := { s.xlt with l1 := s.xlt.l1.upd eng f, l2 := s.xlt.l2.upd cl f } }

/-- A leaf enters an engine's L1 TLB (64 entries). -/
def fillL1 (eng : Nat) (e : TlbEntry) (s : State) : State :=
  let r := insertBounded 64 e ((s.xlt.l1.get [] eng).filter fun x => !(x.covers e.tenant.toNat e.base)) s
  { r.2 with xlt := { r.2.xlt with l1 := r.2.xlt.l1.put eng r.1 } }

/-- A leaf enters a cluster's L2 TLB (8 ways) and the engine's L1 TLB (R112). -/
def fillTlbs (eng cl : Nat) (e : TlbEntry) (s : State) : State :=
  let l := (s.xlt.l2.get [] cl).filter fun x => !(x.covers e.tenant.toNat e.base)
  let mates := l.filter fun x => l2Set x = l2Set e
  let r := insertBounded 8 e mates s
  let l' := (l.filter fun x => l2Set x ≠ l2Set e) ++ r.1
  fillL1 eng e { r.2 with xlt := { r.2.xlt with l2 := r.2.xlt.l2.put cl l' } }

/-- The leaf an engine holds for an address; an L2 hit fills its L1 TLB. -/
def tlbLookup (eng cl t va : Nat) (s : State) : Option TlbEntry × State :=
  let s := dropBadLeaves eng cl t va s
  match (s.xlt.l1.get [] eng).find? (TlbEntry.hits t va) with
  | some e => (some e, s)
  | none =>
    let s := countEv cl 0x020 t 1 s
    match (s.xlt.l2.get [] cl).find? (TlbEntry.hits t va) with
    | some e => (some e, fillL1 eng e s)
    | none => (none, countEv cl 0x021 t 1 s)

/-! ### Walks (R107-R110, R114) -/

/-- The index into a table of a level, and how many bits of the address lie below it (R108). -/
def levelShift (level : Nat) : Nat := 12 + 9 * level
def levelIndex (va level : Nat) : Nat := bitsOf va (levelShift level) 9

/-- How a walk ends. -/
inductive WalkRes where
  | leaf (p : Pte) (raw addr size : Nat)
  | bad (cause level pte : Nat)
  deriving DecidableEq, Repr

/-- log2 of the page a leaf maps. -/
def leafSize (level : Nat) (p : Pte) : Nat := if level = 1 then 21 else if p.huge32 then 35 else 30

/-- A valid entry that R110 refuses at a level. -/
def pteMalformed (s : State) (level : Nat) (p : Pte) : Bool :=
  p.rsv || decide (5 ≤ p.tier) || (p.leaf && decide (3 ≤ level)) || (!p.leaf && level = 1) ||
    (!p.leaf && (p.tier ≠ 0 || !inPlatform s p.addr)) ||
    (p.huge32 && !(level = 2 && (p.tier = 0 || p.tier = 4))) ||
    (p.node ≠ 0 && p.tier ≠ 4) ||
    ((p.tier = 1 || p.tier = 2 || p.tier = 3) && level ≠ 1) ||
    (p.leaf && (p.tier = 0 || p.tier = 1 || p.tier = 4) && p.addr % 2 ^ leafSize level p ≠ 0) ||
    (p.leaf && p.tier = 0 && decide (stackBytes s < p.addr + 2 ^ leafSize level p)) ||
    (p.tier = 4 && p.node = (sourceId s).toNat)

/-- A non-leaf entry enters a die's walk cache (512 entries). -/
def fillWalk (die : Nat) (w : WalkEntry) (s : State) : State :=
  let l := (s.xlt.wc.get [] die).filter fun x => !(x.tenant = w.tenant && x.level = w.level && x.prefixNo = w.prefixNo)
  let r := insertBounded 512 w l s
  { r.2 with xlt := { r.2.xlt with wc := r.2.xlt.wc.put die r.1 } }

/-- The head of a 32 GiB run (R108, R110). -/
def readHead (table va : Nat) (s : State) : WalkRes × State :=
  let a := table + 8 * (levelIndex va 2 / 32 * 32)
  let r := readWord .stack a s
  if r.2.1 then (.bad 4 2 0, r.2.2)
  else
    let p := pteOf r.1
    if !p.v || !p.huge32 || !p.leaf || pteMalformed r.2.2 2 p then (.bad 4 2 r.1, r.2.2)
    else (.leaf p r.1 a 35, r.2.2)

/-- The walk from a table of a level downward (R110), with the non-leaf entries it read; fuel is the level. -/
def walkFrom (t va : Nat) : Nat → Nat → State → WalkRes × List WalkEntry × State
  | 0, _, s => (.bad 4 0 0, [], s)
  | level + 1, table, s =>
    let lv := level + 1
    let a := table + 8 * levelIndex va lv
    let r := readWord .stack a s
    if r.2.1 then (.bad 4 lv 0, [], r.2.2)
    else
      let p := pteOf r.1
      if !p.v then (.bad 1 lv r.1, [], r.2.2)
      else if lv = 2 && p.huge32 then let q := readHead table va r.2.2; (q.1, [], q.2)
      else if pteMalformed r.2.2 lv p then (.bad 4 lv r.1, [], r.2.2)
      else if p.leaf then (.leaf p r.1 a (leafSize lv p), [], r.2.2)
      else
        let w : WalkEntry := { tenant := BitVec.ofNat 10 t, level := lv, prefixNo := va / 2 ^ levelShift lv, table := p.addr }
        let q := walkFrom t va level p.addr r.2.2
        (q.1, w :: q.2.1, q.2.2)

/-- The deepest table a die's walk cache holds for an address: the level to read next and the table (R114). An entry whose parity
fails is none: the walk reads its level and fills it again (R235). -/
def cachedTable (s : State) (t die va : Nat) : Option (Nat × Nat) :=
  let l := (s.xlt.wc.get [] die).filter fun w => w.tenant.toNat = t && w.prefixNo = va / 2 ^ levelShift w.level && !w.bad
  (firstMin (fun w => w.level) l).map fun w => (w.level - 1, w.table)

/-- A tenant's root: its table, unless it is not usable (R107). -/
def rootOf (s : State) (t : Nat) : Option Nat :=
  let a := rd s (Fld.XLT_ROOT_ROOT t) * 4096
  if rdb s (Fld.XLT_ROOT_VALID t) && inPlatform s a then some a else none

/-- Where a walk of an address of a tenant on a die begins: the level to read and its table, the deepest the walk cache holds; none
without a usable root (R107, R114). -/
def walkStart (s : State) (t die va : Nat) : Option (Nat × Nat) :=
  (rootOf s t).map fun r => (cachedTable s t die va).getD (4, r)

/-- A walk met a page-table word that read as poison (R110). -/
def WalkRes.poisoned : WalkRes → Bool
  | .bad 4 _ 0 => true
  | _ => false

/-- A walk from where it began. Its non-leaf entries enter the die's walk cache where `fill` says so, but none of a walk that met
a poisoned word (R110). -/
def walk (t die va : Nat) (start : Option (Nat × Nat)) (fill : Bool) (s : State) : WalkRes × State :=
  match start with
  | none => (.bad 6 0 0, s)
  | some x =>
    let r := walkFrom t va x.1 x.2 s
    (r.1, if fill && !r.1.poisoned then r.2.1.foldl (fun s w => fillWalk die w s) r.2.2 else r.2.2)

/-- A walk that neither reads nor fills the walk cache, as tier moves and debug reads make. -/
def walkPlain (t va : Nat) (s : State) : WalkRes × State := walk t 0 va ((rootOf s t).map fun r => (4, r)) false s

/-- Every frame of a leaf passes R103. -/
def framesAllowed (s : State) (t : Nat) (p : Pte) (size : Nat) (write : Bool) : Bool :=
  if size = 21 then accessAllowed s t p.addr write
  else (List.range (2 ^ (size - 30))).all fun g => accessAllowed s t (p.addr + g * gib) write

/-! ### Translation of an engine's access -/

/-- What an access turns into: an address, a fault, a page to be promoted, or a miss that waits for a walk. -/
inductive Xl where
  | stack (la : Nat)
  | remote (node addr : Nat)
  | bad (cause level pte : Nat)
  | away (page : Nat)
  | miss
  deriving DecidableEq, Repr

/-- A page of a tenant is being demoted (R91). -/
def demoting (s : State) (t page : Nat) : Bool :=
  s.mem.moves.any fun m => m.tenant.toNat = t && m.page = page && (match m.kind with | .promote _ => false | _ => true)

/-- What a leaf maps an address to. -/
def TlbEntry.target (e : TlbEntry) (va : Nat) : Xl :=
  if e.tier = 4 then .remote e.node (e.addr + (va - e.base)) else .stack (e.addr + (va - e.base))

/-- A walk's end turned into a TLB fill, a fault or a promotion (R103, R110). -/
def useLeaf (eng cl t va : Nat) (write : Bool) (r : WalkRes) (s : State) : Xl × State :=
  match r with
  | .bad c l p => (.bad c l p, s)
  | .leaf p raw _ size =>
    let level := if size = 21 then 1 else 2
    if write && !p.w then (.bad 2 level raw, s)
    else if p.tier = 1 || p.tier = 2 || p.tier = 3 || demoting s t (va / mib2) then (.away (va / mib2), s)
    else if p.tier = 0 && !framesAllowed s t p size write then (.bad 3 level raw, s)
    else
      let wOk := p.tier = 4 || framesAllowed s t p size true
      let e : TlbEntry := { tenant := BitVec.ofNat 10 t, base := alignDown va (2 ^ size), size := size, tier := p.tier,
                            node := p.node, addr := p.addr, w := p.w, wOk := wOk }
      (e.target va, fillTlbs eng cl e s)

/-- The walker of a die that walks a tenant's page. -/
def walkerOf (s : State) (die t page : Nat) : Option (Nat × Walk) :=
  s.xlt.walkers.find? fun e => e.1 / 64 = die && e.2.tenant.toNat = t && e.2.page = page

/-- The walkers of a cluster may serve a tenant: where its tiles are pinned, that tenant alone (R351). -/
def walkersServe (s : State) (die cluster t : Nat) : Bool :=
  match pinnedTo s die cluster 0 with
  | some u => t = u
  | none => true

/-- An idle walker for a tenant's miss of a cluster: its own first, then another of the die (R114, R351). -/
def idleWalker (s : State) (die cluster t : Nat) : Option Nat :=
  (((List.range 8).map fun i => 64 * die + 8 * cluster + i) ++ (List.range 64).map fun i => 64 * die + i).find? fun k =>
    (s.xlt.walkers.find k).isNone && walkersServe s die (k % 64 / 8) t

/-- An access that missed is walked for at once by an idle walker, unless another walks its page (R114). -/
def walkNow (eng : Eng) (t va : Nat) (write : Bool) (s : State) : Xl × State :=
  if (walkerOf s eng.die t (va / mib2)).isSome || (idleWalker s eng.die eng.cluster t).isNone then (.miss, s)
  else
    let w := walk t eng.die va (walkStart s t eng.die va) true (countEv eng.cl 0x022 t 1 s)
    useLeaf eng.toNat eng.cl t va write w.1 w.2

/-- An engine's access is translated (R103, R106-R114). A write that hits a leaf whose W is 0, or whose frame its tenant may not
write, walks again. DESIGN CHOICE (log entry 56): the manual does not say which. -/
def translate (eng : Eng) (t va : Nat) (write : Bool) (s : State) : Xl × State :=
  if 2 ^ 57 ≤ va then (.bad 5 0 0, s)
  else
    let r := tlbLookup eng.toNat eng.cl t va s
    match r.1 with
    | some e => if !write || (e.w && e.wOk) then (e.target va, r.2) else walkNow eng t va write r.2
    | none => walkNow eng t va write r.2

/-! ### Page faults (R116-R120) -/

/-- A fault queue is replaced. -/
def setFq (die : Nat) (q : FaultQueue) (s : State) : State := { s with xlt := { s.xlt with fq := s.xlt.fq.set {} die q } }
def fqOf (s : State) (die : Nat) : FaultQueue := s.xlt.fq.get {} die

/-- The task of an engine's context. -/
def taskKey (eng task : Nat) : Nat := eng * 32 + task
def taskOf (s : State) (key : Nat) : Option Task := s.eng.tasks.find key
def putTask (key : Nat) (t : Task) (s : State) : State := { s with eng := { s.eng with tasks := s.eng.tasks.put key t } }

/-- A die's fault queue goes from empty to non-empty (R119, R412). -/
def fqNotice (die : Nat) (s : State) : State :=
  let q := fqOf s die
  raiseFault { cls := 1, code := 1, sev := 0, kind := 7, index := die,
               detail := packBits [(13, q.count), (3, 0), (14, q.waiting.length)] } s

/-- An entry is placed at TAIL (R119). -/
def fqPlace (die : Nat) (entry : Nat) (requeued : Bool) (s : State) : State :=
  let q := fqOf s die
  let e := putBits (putBit entry 87 requeued) 320 48 (now48 s)
  let q' := { q with slots := q.slots.put q.tail.toNat (BitVec.ofNat 512 e), tail := q.tail + 1, count := q.count + 1 }
  let s := setFq die q' (scratchWrite die (0x680000 + 64 * q.tail.toNat) 64 (clusterPort (bitsOf e 100 3)) s).2
  if q.count = 0 then fqNotice die s else s

/-- The FSEQ of a fault-queue entry. -/
def entryFseq (e : BitVec 512) : Nat := bitsOf e.toNat 128 32

/-- A task faults: its record stays in its context, its entry enters the queue or waits (R117-R119). -/
def parkFault (eng : Eng) (task : Nat) (va : Nat) (write : Bool) (cause level pte : Nat) (s : State) : State :=
  let key := taskKey eng.toNat task
  match taskOf s key with
  | none => s
  | some t =>
    let die := eng.die
    let q := fqOf s die
    let entry := packBits [(57, va), (7, 0), (10, t.q.tenant.toNat), (6, 0), (3, cause), (1, b2n write), (3, level), (1, 0),
      (8, 0), (16, eng.toNat), (5, task), (11, 0), (32, q.fseq.toNat)]
    let entry := packFault entry t.q.ring.toNat t.q.slot.toNat (now48 s) pte
    let full := decide (4096 ≤ q.count)
    let s := setFq die { q with fseq := q.fseq + 1, waiting := if full then q.waiting ++ [key] else q.waiting } s
    let s := putTask key { t with st := .fault (BitVec.ofNat 512 entry) full, faults := t.faults + 1, issued := false } s
    let s := countEv eng.cl 0x023 t.q.tenant.toNat 1 s
    if full then bump s Fld.XLT_STATUS_FQ_OVERFLOWS else fqPlace die entry false s
where
  /-- The fields of R118 from bit 160 upward. -/
  packFault (e ring slot ltc pte : Nat) : Nat :=
    e % 2 ^ 160 + packBits [(16, ring), (32, slot), (48, ltc), (64, pte)] * 2 ^ 160

/-- A task that waits with FAULT_QUEUE_FULL is placed (R119). -/
def fqPlaceWaiting : Nat → Nat → State → State
  | 0, _, s => s
  | n + 1, die, s =>
    let q := fqOf s die
    match q.waiting with
    | [] => s
    | key :: rest =>
      if 4096 ≤ q.count then s
      else
        let s := setFq die { q with waiting := rest } s
        match taskOf s key with
        | some t =>
          match t.st with
          | .fault e _ =>
            let s := fqPlace die e.toNat true (putTask key { t with st := .fault e false } s)
            fqPlaceWaiting n die s
          | _ => fqPlaceWaiting n die s
        | none => fqPlaceWaiting n die s

/-- Entries are consumed from HEAD; waiting tasks take the slots freed (R119). -/
def fqConsume (die count : Nat) (s : State) : State :=
  let q := fqOf s die
  let n := min count q.count
  let s := setFq die { q with head := q.head + BitVec.ofNat 12 n, count := q.count - n } s
  fqPlaceWaiting n die s

/-- XLT_FQ_CONSUME (R119, R125). -/
def execXltFqConsume (t : Ltc) (die : BitVec 1) (count : BitVec 13) (s : State) : Host.Outcome State Fault Refusal :=
  let s := adv t s
  .next (if die.toNat < dies s then fqConsume die.toNat count.toNat s else s)

/-- A task parked with an FSEQ under an engine code of R118. -/
def parkedWith (s : State) (eng16 : BitVec 16) (task : BitVec 5) (fseq : BitVec 32) : Option (Nat × Task) :=
  if 2048 ≤ eng16.toNat then none
  else
    let key := taskKey eng16.toNat task.toNat
    match taskOf s key with
    | some t =>
      match t.st with
      | .fault e _ => if entryFseq e = fseq.toNat then some (key, t) else none
      | _ => none
    | none => none

/-- A resolved task no longer waits to be placed (R120). -/
def unqueueFault (key die : Nat) (s : State) : State :=
  let q := fqOf s die
  setFq die { q with waiting := q.waiting.filter (· ≠ key) } s

/-- The die of a task key. -/
def keyDie (key : Nat) : Nat := bitsOf key 12 1

/-- A resolve to retry finds its task and makes it ready, or is counted as stale (R120). -/
def retryFault (eng16 : BitVec 16) (task : BitVec 5) (fseq : BitVec 32) (s : State) : State :=
  match parkedWith s eng16 task fseq with
  | none => bump s Fld.XLT_STATUS_RESOLVE_STALE
  | some (key, t) => putTask key { t with st := .ready } (unqueueFault key (keyDie key) s)

/-- FAULT_RETRY (R120): the task walks again from the faulting access. -/
def execFaultRetry (t : Ltc) (eng : BitVec 16) (task : BitVec 5) (fseq : BitVec 32) (s : State) :
    Host.Outcome State Fault Refusal :=
  .next (retryFault eng task fseq (adv t s))

/-- Tasks that are gone no longer wait to be placed in a fault queue (R119). -/
def unqueueGone (s : State) : State :=
  { s with xlt := { s.xlt with fq := s.xlt.fq.mapVals fun _ q =>
    { q with waiting := q.waiting.filter fun k => (taskOf s k).isSome } } }

/-- A task's own rows of the tables of chunks and partials go, with the chunks of its parent that are still to be posted; the
parent ends in place of a chunk (R120, R205, R213). -/
def abortChunk (key : Nat) (c : Chunk) (s : State) : State :=
  let fig := match taskOf s c.parent with | some p => p.figure | none => 0
  let s := setTaskState c.parent (.done 0x20 (BitVec.ofNat 64 fig)) s
  let s := unqueueGone { s with eng := { s.eng with tasks := (s.eng.tasks.del key).keep fun _ x =>
    match x.chunk with | some d => d.parent ≠ c.parent | none => true } }
  { s with cru := { s.cru with
      chunkq := (s.cru.chunkq.mapVals fun _ l => l.filter fun d => d.parent ≠ c.parent).keep fun _ l => !l.isEmpty
      partials := s.cru.partials.filter fun d => d.parent ≠ c.parent
      areas := s.cru.areas.upd c.parent fun a => { a with own := [] } } }

/-- FAULT_ABORT (R120): the descriptor completes with XLT_ABORT and its progress; the abort of a chunk ends the whole
descriptor (R205). -/
def abortFault (eng16 : BitVec 16) (task : BitVec 5) (fseq : BitVec 32) (s : State) : State :=
  match parkedWith s eng16 task fseq with
  | none => bump s Fld.XLT_STATUS_RESOLVE_STALE
  | some (key, x) =>
    let s := unqueueFault key (keyDie key) s
    match x.chunk with
    | some c => abortChunk key c s
    | none => putTask key { x with st := .done 0x20 (BitVec.ofNat 64 x.figure) } s

/-- FAULT_ABORT (R120). -/
def execFaultAbort (t : Ltc) (eng : BitVec 16) (task : BitVec 5) (fseq : BitVec 32) (s : State) :
    Host.Outcome State Fault Refusal :=
  .next (abortFault eng task fseq (adv t s))

/-! ### Promotions asked for by faults (R90, R93) -/

/-- While pages wait for a promotion and the landing list is empty, one FAULT event is sent for each empty period; it names the die of
a task that waits. -/
def noticeEmpty (s : State) : State :=
  match s.mem.waitPromote with
  | [] => s
  | w :: _ =>
    if !s.mem.landing.isEmpty || s.mem.noticedEmpty then s
    else
      let die := match s.eng.tasks.find? fun e => e.2.st = .promo w.2 && e.2.q.tenant = w.1 with
        | some e => keyDie e.1
        | none => 0
      raiseFault { cls := 1, code := 3, sev := 1, kind := 7, index := die } { s with mem := { s.mem with noticedEmpty := true } }

/-- A promotion of a page runs. -/
def promoting (s : State) (t : BitVec 10) (page : Nat) : Bool :=
  s.mem.moves.any fun m => m.tenant = t && m.page = page && (match m.kind with | .promote _ => true | _ => false)

/-- A task parks on the promotion of a page: the one that runs, or one that waits for a frame and for a demotion of the page that
runs (R90, R93). -/
def parkPromotion (eng : Eng) (task page : Nat) (s : State) : State :=
  let key := taskKey eng.toNat task
  match taskOf s key with
  | none => s
  | some t =>
    let s := putTask key { t with st := .promo page, issued := false } s
    let want := (t.q.tenant, page)
    noticeEmpty (if s.mem.waitPromote.contains want || promoting s want.1 page then s
      else { s with mem := { s.mem with waitPromote := s.mem.waitPromote ++ [want] } })

/-! ### Walks of tasks that were switched out (R114) -/

/-- A miss goes to a walker: it shares the walk of its page, takes an idle walker, or waits for one. -/
def placeWalk (die cluster t : Nat) (w : WalkWait) (s : State) : State :=
  let page := w.va / mib2
  match walkerOf s die t page with
  | some (k, x) => { s with xlt := { s.xlt with walkers := s.xlt.walkers.put k { x with waiters := x.waiters ++ [w] } } }
  | none =>
    match idleWalker s die cluster t with
    | some k =>
      let x : Walk := { tenant := BitVec.ofNat 10 t, page := page, start := walkStart s t die w.va, waiters := [w] }
      { s with xlt := { s.xlt with walkers := s.xlt.walkers.put k x } }
    | none => { s with xlt := { s.xlt with walkq := s.xlt.walkq.put die (s.xlt.walkq.get [] die ++ [w]) } }

/-- The task is switched out until the walk for its access ends. -/
def parkWalk (eng : Eng) (task va : Nat) (write : Bool) (s : State) : State :=
  let key := taskKey eng.toNat task
  match taskOf s key with
  | none => s
  | some t =>
    placeWalk eng.die eng.cluster t.q.tenant.toNat ⟨key, va, write⟩ (putTask key { t with st := .walking va write } s)

/-- The task does not go on: its access faulted or waits (R110, R117). -/
def parkAccess (eng : Eng) (task va : Nat) (write : Bool) (x : Xl) (s : State) : State :=
  match x with
  | .bad c l p => parkFault eng task (va % 2 ^ 57) write c l p s
  | .away page => parkPromotion eng task page s
  | .miss => parkWalk eng task va write s
  | _ => s

/-! ### Walks as events (R114, R122) -/

/-- WALK_START (R114): an access of a running task misses, the task is switched out. -/
def execWalkStart (t : Ltc) (eng : Eng) (task : BitVec 5) (va : Word) (write : Bool) (s : State) :
    Host.Outcome State Fault Refusal :=
  let s := adv t s
  .next (match taskOf s (taskKey eng.toNat task.toNat) with
    | none => s
    | some x =>
      match x.st with
      | .ready =>
        if (tlbLookup eng.toNat eng.cl x.q.tenant.toNat va.toNat s).1.isSome then s
        else parkWalk eng task.toNat va.toNat write s
      | _ => s)

/-- A walk's result is discarded: it maps, or without a leaf it is for, an address of a range invalidated since it began (R122). -/
def Walk.discarded (w : Walk) (va : Nat) (r : WalkRes) : Bool :=
  let span := match r with
    | .leaf _ _ _ size => (alignDown va (2 ^ size), alignDown va (2 ^ size) + 2 ^ size)
    | .bad _ _ _ => (va, va + 1)
  w.marks.any fun m => decide (m.1 < span.2 ∧ span.1 < m.2)

/-- A task that waited for a walk goes on with what it found. -/
def resolveWait (r : WalkRes) (s : State) (w : WalkWait) : State :=
  match taskOf s w.key with
  | none => s
  | some x =>
    if x.st ≠ .walking w.va w.write then s
    else
      let eng : Eng := BitVec.ofNat 11 (w.key / 32)
      let u := useLeaf eng.toNat eng.cl x.q.tenant.toNat w.va w.write r (putTask w.key { x with st := .ready } s)
      parkAccess eng (w.key % 32) w.va w.write u.1 u.2

/-- A miss that waits can go to a walker, or its task is gone. -/
def walkable (s : State) (die : Nat) (w : WalkWait) : Bool :=
  match taskOf s w.key with
  | none => true
  | some x =>
    let t := x.q.tenant.toNat
    (walkerOf s die t (w.va / mib2)).isSome || (idleWalker s die (w.key / 512 % 8) t).isSome

/-- Misses that wait for a walker of a die are placed, the oldest for which one is idle first; fuel is their number. -/
def drainWalkq (die : Nat) : Nat → State → State
  | 0, s => s
  | n + 1, s =>
    match (s.xlt.walkq.get [] die).find? (walkable s die) with
    | none => s
    | some w =>
      let s := { s with xlt := { s.xlt with walkq := s.xlt.walkq.set [] die ((s.xlt.walkq.get [] die).erase w) } }
      let s := match taskOf s w.key with
        | none => s
        | some x =>
          if x.st = .walking w.va w.write then placeWalk die (w.key / 512 % 8) x.q.tenant.toNat w s else s
      drainWalkq die n s

/-- A walk ends: begun again where its result is discarded, else its tasks go on (R110, R114, R122). -/
def endWalk (k : Nat) (w : Walk) (s : State) : State :=
  let die := k / 64
  let t := w.tenant.toNat
  let va := match w.waiters with | x :: _ => x.va | [] => w.page * mib2
  let r := if 2 ^ 57 ≤ va then (WalkRes.bad 5 0 0, s)
    else walk t die va w.start (!w.stale) (countEv (8 * die + k % 64 / 8) 0x022 t 1 s)
  if w.discarded va r.1 then
    let s := bump r.2 Fld.XLT_INV_STATUS_WALK_RESTARTS
    { s with xlt := { s.xlt with walkers := s.xlt.walkers.put k { w with start := walkStart s t die va, stale := false, marks := [] } } }
  else
    let s := { r.2 with xlt := { r.2.xlt with walkers := r.2.xlt.walkers.del k } }
    let s := w.waiters.foldl (resolveWait r.1) s
    drainWalkq die (s.xlt.walkq.get [] die).length s

/-- WALK_COMPLETE (R110, R119, R122): the walk that a task waits for ends. -/
def execWalkComplete (t : Ltc) (eng : Eng) (task : BitVec 5) (s : State) : Host.Outcome State Fault Refusal :=
  let s := adv t s
  .next (match s.xlt.walkers.find? fun e => e.2.waiters.any fun w => w.key = taskKey eng.toNat task.toNat with
    | none => s
    | some e => endWalk e.1 e.2 s)

/-! ### Invalidation (R122) -/

/-- Walks in progress of a tenant learn that a range is invalidated. -/
def markWalks (t lo hi : Nat) (s : State) : State :=
  { s with xlt := { s.xlt with walkers := s.xlt.walkers.mapVals fun _ w =>
    if w.tenant.toNat = t then { w with marks := w.marks ++ [(lo, hi)] } else w } }

/-- A tenant's translations that overlap a range are removed, with its walk-cache entries (R122). -/
def removeRange (t lo hi : Nat) (s : State) : State :=
  let s := markWalks t lo hi s
  let s := filterTlbs (fun e => e.tenant.toNat ≠ t || decide (hi ≤ e.base) || decide (e.base + 2 ^ e.size ≤ lo)) s
  filterWalks (fun w => w.tenant.toNat ≠ t) s

/-- The page of 1 GiB or 32 GiB that the page tables or a TLB map an address of a tenant with: its ends. -/
def bigPage (s : State) (t va : Nat) : List (Nat × Nat) :=
  let tables := match (walkPlain t va s).1 with
    | .leaf _ _ _ size => if size = 21 then [] else [(alignDown va (2 ^ size), size)]
    | .bad _ _ _ => []
  let tlbs := ((s.xlt.l1.vals ++ s.xlt.l2.vals).flatMap fun l => l.filter fun e => e.covers t va && e.size ≠ 21).map fun e => (e.base, e.size)
  (tables ++ tlbs).map fun b => (b.1, b.1 + 2 ^ b.2)

/-- A range widened to the whole of the big pages it touches: only its ends can lie within one (R122). -/
def widened (s : State) (t lo hi : Nat) : Nat × Nat :=
  if hi ≤ lo then (lo, hi)
  else
    let bs := bigPage s t lo ++ bigPage s t (hi - 1)
    (bs.foldl (fun m b => min m b.1) lo, bs.foldl (fun m b => max m b.2) hi)

/-- PAGE_INVALIDATE (R122): removal now, the reply at EPOCH_WAIT_DONE. -/
def execPageInvalidate (t : Ltc) (h : CmdHdr) (va : Word) (pages : BitVec 32) (s : State) : Host.Outcome State Fault Refusal :=
  opcode t h .tenant false (fun s =>
    let ten := h.tenant.toNat
    if (s.sec.tenants.find ten).isNone then refuseCmd h Status.NOT_FOUND s
    else
      let r := widened s ten (alignDown va.toNat mib2) (alignDown va.toNat mib2 + pages.toNat * mib2)
      let s := removeRange ten r.1 r.2 s
      let v : Inval := { h := h, tenant := BitVec.ofNat 10 ten, lo := r.1, hi := r.2, epoch := flipEpoch s }
      beginLong h { s with xlt := { s.xlt with invals := (s.xlt.invals.filter fun x => x.h ≠ h) ++ [v] } }) s

/-- The oldest invalidation of a tenant ends, once no access of the previous epoch is outstanding (R122, R123). -/
def invalWaitDone (t : BitVec 10) (s : State) : State :=
  match s.xlt.invals.find? (·.tenant = t) with
  | none => s
  | some v =>
    if epochOver s v.epoch then
      okCmd v.h [] (noteInvTime v.epoch.began { s with xlt := { s.xlt with invals := s.xlt.invals.erase v } })
    else s

/-! ### Registers with behaviour (R107, R111) -/

/-- A tenant's root is written; its cached walks go, and a walk in progress, which goes on under its old tables, fills none (R107). -/
def rootWrite (tenant v : Nat) (s : State) : State :=
  let s := wr (wr s (Fld.XLT_ROOT_VALID tenant) (bitsOf v 0 1)) (Fld.XLT_ROOT_ROOT tenant) (bitsOf v 12 28)
  let s := { s with xlt := { s.xlt with walkers := s.xlt.walkers.mapVals fun _ w =>
    if w.tenant.toNat = tenant then { w with stale := true } else w } }
  filterWalks (fun w => w.tenant.toNat ≠ tenant) s

/-- XLT_ROOT_WRITE (R107): every walk-cache entry of the tenant goes. -/
def execXltRootWrite (t : Ltc) (tenant : BitVec 10) (v : Word) (s : State) : Host.Outcome State Fault Refusal :=
  .next (rootWrite tenant.toNat v.toNat (adv t s))

/-- The local address behind entry i of the page-table window. -/
def ptwAddr (s : State) (i : Nat) : Nat := rd s Fld.XLT_PTW_PAGE_PAGE * 4096 + 8 * i

/-- One word written through the home agent. -/
def homeWriteWord (la x : Nat) (s : State) : State :=
  let i := la % 64 / 8
  homeWrite (la / 64) (0xFF * 2 ^ (8 * i)) (lineOfWord i x) noExt s

/-- A window write: ignored outside KIND 2, held while its page moves, else performed (R111). -/
def ptwWrite (i x : Nat) (s : State) : State :=
  let la := ptwAddr s i
  if !inPlatform s la then bump s Fld.XLT_STATUS_PTW_REFUSED
  else if s.mem.moves.any (fun m => m.pte = la) then
    { s with mem := { s.mem with heldPtw := s.mem.heldPtw ++ [{ la := la, val := BitVec.ofNat 64 x }] } }
  else homeWriteWord la x s

/-- XLT_PTW_DATA_WRITE (R111). -/
def execXltPtwDataWrite (t : Ltc) (index : BitVec 9) (v : Word) (s : State) : Host.Outcome State Fault Refusal :=
  .next (ptwWrite index.toNat v.toNat (adv t s))

/-- The commands none of whose window writes is held any more are answered. -/
def answerHeld (s : State) : State :=
  let due := s.mem.heldReplies.filter fun r => !(s.mem.heldPtw.any fun w => w.cmd = some r.h)
  due.foldl (fun s r => finish r.h r.status r.payload s)
    { s with mem := { s.mem with heldReplies := s.mem.heldReplies.filter fun r => s.mem.heldPtw.any fun w => w.cmd = some r.h } }

/-- A command that wrote registers completes: at once, or, where a window write of it is held, once that has taken effect, for its
reply says that later walks see the write (R111). `before` writes were held when it began. -/
def finishWrites (before : Nat) (h : CmdHdr) (status : Nat) (payload : List Byte) (s : State) : State :=
  if s.mem.heldPtw.length ≤ before then finish h status payload s
  else
    beginLong h { s with mem := { s.mem with
      heldPtw := s.mem.heldPtw.take before ++ (s.mem.heldPtw.drop before).map fun w => { w with cmd := some h }
      heldReplies := s.mem.heldReplies ++ [{ h := h, status := status, payload := payload }] } }

/-- Window writes held for an entry take effect (R111). -/
def releasePtw (pte : Nat) (s : State) : State :=
  let mine := s.mem.heldPtw.filter fun e => e.la = pte
  let s := { s with mem := { s.mem with heldPtw := s.mem.heldPtw.filter fun e => e.la ≠ pte } }
  answerHeld (mine.foldl (fun s e => homeWriteWord e.la e.val.toNat s) s)

end Sys2Proof.Machine
end

