-- ==== Sys2Proof/Machine/Access.lean ====
section
/-! DEFINITION. Accesses of engines to tenant memory: translation, one home transaction or one remote access for each line,
parking, byte spans over lines (R106, R117, R126, R137, R141, R174, R179), and the sampling of accesses and descriptors
(R422-R424). -/

namespace Sys2Proof.Machine

/-! ### Records of the dump ring (R419, R420) -/

/-- An agent outside the part owns a line. -/
def ownedOutside (s : State) (ln : Nat) : Bool :=
  match (s.coh.dir.find ln).bind DirEntry.owner with
  | some a => (ownDie s a).isNone
  | none => false

/-- One line written through the home agent; behind a line that is at work, or to be recalled from outside, it waits its turn
there. -/
def homePost (ln mask : Nat) (l : Line) (s : State) : State :=
  if lineBusy s ln || ownedOutside s ln then
    homeRequest { aid := ownAid s (homeDie s ln), op := .wrLine (BitVec.ofNat 64 mask) l } ln s
  else homeWrite ln mask l noExt s

/-- All 64 bytes of a line. -/
def allBytes : Nat := 2 ^ 64 - 1

/-- A line of 64 bytes of a number, without metadata or poison. -/
def dataLine (x : Nat) : Line := { data := BitVec.ofNat 512 x, meta2 := 0, poison := 0 }

/-- The dump ring is set and its memory is still a KIND 2 ingot's. -/
def ringUsable (s : State) : Bool :=
  rdb s Fld.TEL_STATUS_RING_VALID && !rdb s Fld.TEL_STATUS_RING_LOST && inPlatform s s.tel.ringAddr.toNat

/-- Dumps and samples stop once the ring's ingot is released (R419). -/
def noteRingLost (s : State) : State :=
  if rdb s Fld.TEL_STATUS_RING_VALID && !inPlatform s s.tel.ringAddr.toNat then wr s Fld.TEL_STATUS_RING_LOST 1 else s

/-- The header of a record (R420). -/
def recordHeader (type cluster dseq ltc : Nat) : Nat :=
  packBits [(8, type), (8, cluster), (16, 0), (32, dseq), (48, ltc), (16, 0)]

/-- Writes a record of 256 bytes at the next place of the ring (R419). -/
def dumpRecord (type cluster body : Nat) (s : State) : State :=
  let n := rd s Fld.TEL_STATUS_DSEQ_NEXT
  let x := recordHeader type cluster n (now48 s) + 2 ^ 128 * body
  let slots := max 1 (s.tel.ringSize.toNat / 256)
  let ln := (s.tel.ringAddr.toNat + 256 * (n % slots)) / 64
  let s := (List.range 4).foldl (fun s i => homePost (ln + i) allBytes (dataLine (x / 2 ^ (512 * i))) s) s
  wr s Fld.TEL_STATUS_DSEQ_NEXT (n + 1)

/-- A chosen operation is recorded, or dropped and counted (R422). -/
def sampleRecord (ok : Bool) (type cluster : Nat) (body : State → Nat × State) (s : State) : State :=
  if ok && ringUsable s then
    let r := body s
    dumpRecord type cluster r.1 r.2
  else bump (noteRingLost s) Fld.TEL_STATUS_SKIPPED

/-- An operation of a group and a tenant may be chosen: one in 2^RATE_LOG2 is (R422). -/
def chosen (group tenant : Nat) (s : State) : Bool × State :=
  if sampled s tenant && bitAt s.tel.groups.toNat group then
    let d := draw s
    (d.1 % 2 ^ s.tel.rateLog2.toNat = 0, d.2)
  else (false, s)

/-! ### Who accesses, and how an access ends -/

/-- The task that accesses: engine, task context, its tenant and what the outside answers within the step. -/
structure Who where
  eng : Eng
  task : Nat
  tenant : Nat
  x : Ext

/-- The task key of an accessor. -/
def Who.key (w : Who) : Nat := taskKey w.eng.toNat w.task

/-- An access or a run of accesses: done with a value; the task parked or waits; a line is at work for another requester, so
that the task goes on later; a remote node refused or did not answer (R179). -/
inductive Acc (α : Type) where
  | ok (v : α) (s : State)
  | park (s : State)
  | busy (s : State)
  | fail (status : Nat) (s : State)

/-- The next part of a run of accesses. -/
def Acc.bind {α β : Type} (a : Acc α) (f : α → State → Acc β) : Acc β :=
  match a with
  | .ok v s => f v s
  | .park s => .park s
  | .busy s => .busy s
  | .fail c s => .fail c s

/-- The state in which a run of accesses stopped. -/
def Acc.state {α : Type} : Acc α → State
  | .ok _ s => s
  | .park s => s
  | .busy s => s
  | .fail _ s => s

/-! ### Exact samples of the TR-6 (R424) -/

/-- How a translation was found: 0 L1 hit, 1 L2 hit, 2 walk, 3 fault, then retry. -/
def xltKind (w : Who) (va : Nat) (s : State) : Nat :=
  if (s.xlt.l1.get [] w.eng.toNat).any (TlbEntry.hits w.tenant va) then 0
  else if (s.xlt.l2.get [] w.eng.cl).any (TlbEntry.hits w.tenant va) then 1
  else match taskOf s w.key with
    | some t => if t.faults = 0 then 2 else 3
    | none => 2

/-- The body of a type 3 record after its header; how long the access took is open. -/
def exactBody (w : Who) (kind xlt source va haddr served : Nat) (s : State) : Nat × State :=
  let d := draw s
  let q := (taskOf s w.key).map Task.q
  let ring := match q with | some q => q.ring.toNat | none => 0
  let slot := match q with | some q => q.slot.toNat | none => 0
  let desc := match q with | some q => q.desc.toNat | none => 0
  (packBits [(16, ring), (32, slot), (10, w.tenant), (6, 0), (16, w.eng.toNat), (8, kind), (8, xlt), (8, source), (24, 0),
    (57, va), (7, 0), (64, haddr), (48, now48 s), (16, 0), (32, d.1), (32, served), (512, 0), (1024, desc)], d.2)

/-- One line access of a descriptor on the TR-6 may be recorded. -/
def sampleAccess (w : Who) (kind xlt source va node addr served : Nat) (s : State) : State :=
  match s.variant with
  | .tr12 => s
  | .tr6 =>
    let c := chosen w.eng.group w.tenant s
    if c.1 then
      sampleRecord true 3 w.eng.cl (exactBody w kind xlt source va (addr % 2 ^ 44 + 2 ^ 44 * node) served) c.2
    else c.2

/-- A local access is recorded as R424 names it. -/
def sampleLocal (w : Who) (kind xlt source va la : Nat) (s : State) : State :=
  sampleAccess w kind xlt source va (sourceId s).toNat la (if source = 0 then (placeOf s la).unit else 0) s

/-! ### Line accesses -/

/-- What the outside answers to an access of a line of another node; nothing listed: it never answers (log entry 5). -/
def remoteAnswer (x : Ext) (node addr : Nat) : RemoteRes :=
  match x.remote.find? fun e => e.1 = node * 2 ^ 38 + addr / 64 with
  | some e => e.2
  | none => .timeout

/-- A remote access leaves. -/
def sendRemote (node addr : Nat) (what : String) (l : Option Line) (s : State) : State :=
  emit (.remote (BitVec.ofNat 12 node) what (BitVec.ofNat 44 addr) l) s

/-- An access that is not sent ends with REMOTE_REFUSED (R343). -/
def notSent {α : Type} (s : State) : Acc α := .fail 0x21 (bump s Fld.SEC_FAB_STATUS_NO_OUT_SLOT)

/-- A remote access waits: the endpoint it leaves by is drained, or has its 4,096 cells outstanding (R28, R271). -/
def remoteHeld (s : State) (node : Nat) : Bool :=
  match requestPort s node with
  | some (p, _) => bitAt (rd s Fld.FAB_ROUTE_STATUS_DRAIN_MASK) p || decide (4096 ≤ outstanding s p)
  | none => false

/-- How a remote access that was not answered as asked ends (R165, R179). -/
def remoteFails {α : Type} (r : RemoteRes) (s : State) : Acc α :=
  match r with
  | .refused => .fail 0x21 s
  | _ => .fail 0x22 s

/-- A read of the line at a virtual address, with `RD_CUR` in this part (R137). -/
def readVa (w : Who) (va : Nat) (s : State) : Acc Line :=
  let xk := xltKind w va s
  let r := translate w.eng w.tenant va false s
  match r.1 with
  | .stack la =>
    let h := takenAtHome w.key (la / 64) r.2
    if h.1 then
      let l := homeRead (la / 64) w.x h.2
      .ok l.1 (sampleLocal w 0 xk 0 va la l.2)
    else .busy h.2
  | .remote node addr =>
    if encBlocked r.2 w.tenant node then notSent r.2 else
    if remoteHeld r.2 node then .busy r.2 else
    let s := sendRemote node addr "READ" none r.2
    match remoteAnswer w.x node addr with
    | .data l => .ok l (sampleAccess w 0 xk 2 va node addr node s)
    | other => remoteFails other s
  | bad => .park (parkAccess w.eng w.task va false bad r.2)

/-- A write of the bytes of a mask to the line at a virtual address, with `WR_LINE` in this part (R137); a remote write is
performed once its target acknowledges it (R163). -/
def writeVa (w : Who) (va mask : Nat) (l : Line) (s : State) : Acc Unit :=
  let xk := xltKind w va s
  let r := translate w.eng w.tenant va true s
  match r.1 with
  | .stack la =>
    let h := takenAtHome w.key (la / 64) r.2
    if h.1 then .ok () (sampleLocal w 1 xk 0 va la (homeWrite (la / 64) mask l w.x h.2)) else .busy h.2
  | .remote node addr =>
    if encBlocked r.2 w.tenant node then notSent r.2 else
    if remoteHeld r.2 node then .busy r.2 else
    let s := sendRemote node addr "WRITE" (some l) r.2
    match remoteAnswer w.x node addr with
    | .done => .ok () (sampleAccess w 1 xk 2 va node addr node s)
    | other => remoteFails other s
  | bad => .park (parkAccess w.eng w.task va true bad r.2)

/-- The ELC of the engine's die asks for a line that is at work elsewhere; the task waits for the grant (R136, R141). A line the
ELC has released is asked for once its eviction record is freed (R132; log entry 20). -/
def askElc (w : Who) (ln : Nat) (op : CohOp) (s : State) : Acc (Nat × Bool) :=
  let k := elcKey w.eng.die ln
  if (s.coh.pend.find k).isSome || (s.coh.evicting.find k).isSome then .busy s
  else
    let s := setCoh { s.coh with pend := s.coh.pend.put k { op := op, task := some w.key } } s
    .park (homeRequest { aid := ownAid s w.eng.die, op := .rdOwn } ln (setTaskState w.key .wait s))

/-- The ELC of a die holds a line in E or M. -/
def elcOwns (s : State) (die ln : Nat) : Bool :=
  match s.coh.elc.find (elcKey die ln) with
  | some c => c.st ≠ .s
  | none => false

/-- The ELC of a die can perform an atomic on a line within the step: it owns the line, or gains it at once. -/
def elcReady (s : State) (die ln : Nat) : Bool :=
  let k := elcKey die ln
  elcOwns s die ln ||
    (!lineBusy s ln && !homeFull s ln && !needsEviction s ln && (s.coh.pend.find k).isNone && (s.coh.evicting.find k).isNone)

/-- An atomic at a virtual address (R140, R141): the old value, and whether the word was poison; `ALIGN_ERROR` off its size. -/
def atomicVa (w : Who) (va code : Nat) (size8 : Bool) (operand cmp : Nat) (s : State) : Acc (Nat × Bool) :=
  if va % (if size8 then 8 else 4) ≠ 0 then .fail 0x12 s else
  let xk := xltKind w va s
  let r := translate w.eng w.tenant va true s
  match r.1 with
  | .stack la =>
    let ln := la / 64
    let s := r.2
    if elcReady s w.eng.die ln then
      let a := elcAtomicNow w.eng.die ln code size8 (la % 64) operand cmp w.x s
      .ok (a.1, a.2.1) (sampleLocal w 2 xk 1 va la a.2.2)
    else
      askElc w ln (.atomic (BitVec.ofNat 4 code) size8 (BitVec.ofNat 6 (la % 64)) (BitVec.ofNat 64 operand)
        (BitVec.ofNat 64 cmp)) s
  | .remote node addr =>
    if encBlocked r.2 w.tenant node then notSent r.2 else
    if remoteHeld r.2 node then .busy r.2 else
    let s := sendRemote node addr "ATOMIC" none r.2
    match remoteAnswer w.x node addr with
    | .old v => .ok (v.toNat, false) (sampleAccess w 2 xk 2 va node addr node s)
    | .data l => .ok (0, l.poison ≠ 0) s
    | other => remoteFails other s
  | bad => .park (parkAccess w.eng w.task va true bad r.2)

/-! ### Spans -/

/-- The lines that hold n bytes from a virtual address. -/
def spanLines (va n : Nat) : Nat := if n = 0 then 0 else (va + n - 1) / 64 - va / 64 + 1

/-- Consecutive lines from the line of a virtual address; fuel is their number. -/
def readLinesVa (w : Who) : Nat → Nat → State → Acc (List Line)
  | 0, _, s => .ok [] s
  | n + 1, va, s =>
    (readVa w va s).bind fun l s =>
      (readLinesVa w n (alignDown va 64 + 64) s).bind fun r s => .ok (l :: r) s

/-- Lines joined: data and metadata as numbers, and the poison marks, eight to a line. -/
def linesData : List Line → Nat
  | [] => 0
  | l :: r => l.data.toNat + 2 ^ 512 * linesData r
def linesMeta : List Line → Nat
  | [] => 0
  | l :: r => l.meta2.toNat + 2 ^ 16 * linesMeta r
def linesPoison : List Line → Nat
  | [] => 0
  | l :: r => l.poison.toNat + 2 ^ 8 * linesPoison r

/-- Bytes read from lines at an offset into the first: the number they spell, the metadata bits and the poison marks of the
words from the word of the offset on. -/
structure Span where
  off : Nat
  data : Nat
  md : Nat
  poison : Nat
  deriving DecidableEq, Repr

/-- The span of some lines. -/
def spanOf (va : Nat) (ls : List Line) : Span :=
  { off := va % 64, data := linesData ls, md := linesMeta ls, poison := linesPoison ls }

/-- n bytes at an offset of a span, little-endian. -/
def Span.num (p : Span) (at_ n : Nat) : Nat := bitsOf p.data (8 * (p.off + at_)) (8 * n)

/-- Any word that holds one of n bytes at an offset is poison. -/
def Span.bad (p : Span) (at_ n : Nat) : Bool :=
  if n = 0 then false
  else
    let lo := (p.off + at_) / 8
    let hi := (p.off + at_ + n - 1) / 8
    bitsOf p.poison lo (hi - lo + 1) ≠ 0

/-- The poison marks of k words from the word of an offset. -/
def Span.marksOf (p : Span) (at_ k : Nat) : Nat := bitsOf p.poison ((p.off + at_) / 8) k

/-- The metadata bits of k words from the word of an offset. -/
def Span.mdOf (p : Span) (at_ k : Nat) : Nat := bitsOf p.md (2 * ((p.off + at_) / 8)) (2 * k)

/-- n bytes from a virtual address. -/
def readSpan (w : Who) (va n : Nat) (s : State) : Acc Span :=
  (readLinesVa w (spanLines va n) va s).bind fun ls s => .ok (spanOf va ls) s

/-- The byte mask of bytes lo..hi − 1 of a line. -/
def byteMask (lo hi : Nat) : Nat := (2 ^ (hi - lo) - 1) * 2 ^ lo

/-- What a span writes: bytes of data, and metadata bits and poison marks by word, word 0 being the one that holds the first
byte, `lead` bytes into it. -/
structure OutSpan where
  lead : Nat := 0
  data : Nat
  md : Nat := 0
  poison : Nat := 0
  deriving DecidableEq, Repr

/-- The line of an output that holds bytes from `at_`, placed at offset `off` of the line. -/
def OutSpan.line (o : OutSpan) (at_ off n : Nat) : Line :=
  let words := ceilDiv (off % 8 + n) 8
  { data := BitVec.ofNat 512 (bitsOf o.data (8 * at_) (8 * n) * 2 ^ (8 * off)),
    meta2 := BitVec.ofNat 16 (bitsOf o.md (2 * ((o.lead + at_) / 8)) (2 * words) * 2 ^ (2 * (off / 8))),
    poison := BitVec.ofNat 8 (bitsOf o.poison ((o.lead + at_) / 8) words * 2 ^ (off / 8)) }

/-- The bytes of the words of a line that are poison: poison is kept by whole words, so it is written by whole words. -/
def poisonMask (l : Line) : Nat := packBits ((List.range 8).map fun i => (8, if bitAt l.poison.toNat i then 0xFF else 0))

/-- Writes n bytes of an output from byte `at_` on to a virtual address; fuel bounds the lines. -/
def writeSpanFrom (w : Who) (o : OutSpan) : Nat → Nat → Nat → Nat → State → Acc Unit
  | 0, _, _, _, s => .ok () s
  | k + 1, va, at_, n, s =>
    if n = 0 then .ok () s
    else
      let off := va % 64
      let m := min n (64 - off)
      let l := o.line at_ off m
      (writeVa w va (byteMask off (off + m) ||| poisonMask l) l s).bind fun _ s =>
        writeSpanFrom w o k (va + m) (at_ + m) (n - m) s

/-- Writes n bytes of an output to a virtual address. -/
def writeSpan (w : Who) (va n : Nat) (o : OutSpan) (s : State) : Acc Unit :=
  writeSpanFrom w { o with lead := va % 8 } (spanLines va n) va 0 n s

/-! ### The task of an accessor -/

/-- The task of a key goes through f. -/
def updTask (key : Nat) (f : Task → Task) (s : State) : State :=
  { s with eng := { s.eng with tasks := s.eng.tasks.upd key f } }

/-- A task has got so far, with the figure it would report now. -/
def setProg (key prog figure : Nat) (s : State) : State := updTask key (fun t => { t with prog := prog, figure := figure }) s

/-- A task has its status and result. -/
def endTask (key status result : Nat) (s : State) : State :=
  setTaskState key (.done (BitVec.ofNat 8 status) (BitVec.ofNat 64 result)) s

/-- A run of accesses is over: done as f says, ended by a remote failure with the task's figure, or left to go on later. -/
def Acc.close {α : Type} (key : Nat) (a : Acc α) (f : α → State → State) : State :=
  match a with
  | .ok v s => f v s
  | .park s => s
  | .busy s => s
  | .fail c s => endTask key c (match taskOf s key with | some t => t.figure | none => 0) s

end Sys2Proof.Machine
end

