-- ==== Sys2Proof/Machine/Ring.lean ====
section
/-! DEFINITION. Rings, engines and descriptors as the engine groups share them (R150-R172): entries and headers, which engine may
run what, the error state, doorbells, deadline reports. -/

namespace Sys2Proof.Machine

/-! ### Engines (R150, R151, R169) -/

/-- Engines of a group in a cluster, and the bitmap base of the group (R150). -/
def unitsOf (group : Nat) : Nat := match group with | 0 => 16 | 1 => 8 | 2 => 4 | 3 => 2 | 4 => 2 | _ => 0
def bitmapBase (group : Nat) : Nat := match group with | 0 => 0 | 1 => 128 | 2 => 192 | 3 => 224 | _ => 240

/-- The R118 code of an engine. -/
def engCode (die cl group unit : Nat) : Nat := packBits [(4, unit), (3, cl), (1, die), (3, group)]

/-- The bit of an engine in the bitmap (R151). -/
def engBit (die cl group unit : Nat) : Nat := 256 * die + bitmapBase group + cl * unitsOf group + unit

/-- An engine exists in this part. -/
def engPresent (s : State) (e : Eng) : Bool :=
  decide (e.die < dies s ∧ e.unit < unitsOf e.group)

/-- An engine is enabled and, where it is a tile, not retired (R151, R252). -/
def engEnabled (s : State) (die cl group unit : Nat) : Bool :=
  let b := engBit die cl group unit
  bitAt (rd s (Fld.ENG_ENABLE_ENABLE (b / 64))) (b % 64) &&
    !(group = 0 && s.ecc.retired.get false (128 * die + 16 * cl + unit))

/-- The part-wide cluster of a task key's engine. -/
def keyCluster (key : Nat) : Nat := bitsOf (key / 32) 4 4

/-- The run queue of an engine, by its code. -/
def runqOf (s : State) (e : Nat) : List QDesc := s.eng.runq.get [] e
def setRunq (e : Nat) (l : List QDesc) (s : State) : State := { s with eng := { s.eng with runq := s.eng.runq.set [] e l } }

/-- The tasks of an engine with their contexts. -/
def tasksOn (s : State) (e : Nat) : Tab Task := s.eng.tasks.keep fun k _ => k / 32 = e

/-- The lowest free task context of an engine (R117). -/
def freeCtx (s : State) (e : Nat) : Option Nat := (List.range 32).find? fun c => (taskOf s (taskKey e c)).isNone

/-- The next number in the order of fetch and of beginning. -/
def nextAge (s : State) : Nat × State := (s.eng.age, { s with eng := { s.eng with age := s.eng.age + 1 } })

/-! ### Ring entries (R152) -/

def Ring.slots (r : Ring) : Nat := 2 ^ bitsOf r.entry.toNat 0 4
def Ring.cqLog (r : Ring) : Nat := bitsOf r.entry.toNat 4 4
def Ring.cqSize (r : Ring) : Nat := 2 ^ r.cqLog
def Ring.group (r : Ring) : Nat := bitsOf r.entry.toNat 8 3
def Ring.die (r : Ring) : Nat := bitsOf r.entry.toNat 11 1
def Ring.cl (r : Ring) : Nat := bitsOf r.entry.toNat 12 3
def Ring.noSteal (r : Ring) : Bool := bitAt r.entry.toNat 15
def Ring.base (r : Ring) : Nat := bitsOf r.entry.toNat 16 28 * 4096
def Ring.cqBase (r : Ring) : Nat := bitsOf r.entry.toNat 48 28 * 4096

/-- Slot s, and record c, of a ring (R153, R154). -/
def Ring.slotAddr (r : Ring) (i : Nat) : Nat := r.base + 128 * (i % r.slots)
def Ring.recordAddr (r : Ring) (c : Nat) : Nat := r.cqBase + 32 * (c % r.cqSize)

/-- Records written and not consumed. -/
def Ring.unread (r : Ring) : Nat := (r.written - r.cqHead).toNat

/-- Descriptors between HEAD and TAIL. -/
def Ring.waiting (r : Ring) : Nat := (r.tail - r.head).toNat

/-- How many descriptors R158 lets the part fetch now. -/
def Ring.room (r : Ring) : Nat := r.cqSize - (r.inflight + r.unread)

def ringOf (s : State) (n : Nat) : Option Ring := s.eng.rings.find n
def putRing (n : Nat) (r : Ring) (s : State) : State := { s with eng := { s.eng with rings := s.eng.rings.put n r } }
def updRing (n : Nat) (f : Ring → Ring) (s : State) : State := { s with eng := { s.eng with rings := s.eng.rings.upd n f } }

/-- The home engine of a ring with unit 0, as a record of a refusal at fetch names it (R164). -/
def Ring.homeEng (r : Ring) : Nat := engCode r.die r.cl r.group 0

/-- ENG_RING_STATE of a ring (R181). -/
def ringStateWord (s : State) (n : Nat) : Nat :=
  match ringOf s n with
  | none => 0
  | some r => packBits [(32, r.head.toNat), (2, r.state.toNat), (16, r.inflight)]

/-- A ring enters the error state (R156, R159); `slot` is that of the descriptor concerned. -/
def ringError (n slot : Nat) (s : State) : State :=
  match ringOf s n with
  | none => s
  | some r =>
    if r.state = 1 then
      raiseFault { cls := 6, code := 2, sev := 1, kind := 8, index := n, detail := packBits [(32, slot)], tenant := r.tenant.toNat }
        (putRing n { r with state := 2 } s)
    else s

/-- A ring error that no descriptor concerns: the SLOT of its record is open. -/
def doorbellError (n : Nat) (s : State) : State :=
  let d := draw s
  ringError n d.1 d.2

/-! ### Descriptor headers (R161) -/

def QDesc.op (q : QDesc) : Nat := bitsOf q.desc.toNat 0 8
def QDesc.group (q : QDesc) : Nat := bitsOf q.desc.toNat 8 3
def QDesc.dropLate (q : QDesc) : Bool := bitAt q.desc.toNat 16
def QDesc.fence (q : QDesc) : Bool := bitAt q.desc.toNat 17
def QDesc.counter (q : QDesc) : Bool := bitAt q.desc.toNat 18
def QDesc.quiet (q : QDesc) : Bool := bitAt q.desc.toNat 19
def QDesc.tag (q : QDesc) : Nat := bitsOf q.desc.toNat 32 32
def QDesc.deadline (q : QDesc) : Nat := bitsOf q.desc.toNat 64 48
def QDesc.counterVa (q : QDesc) : Nat := bitsOf q.desc.toNat 128 57

/-- A field of the body. -/
def QDesc.field (q : QDesc) (lo w : Nat) : Nat := bitsOf q.desc.toNat lo w

/-- An operation of a group (R176, R196, R217, R226). -/
def opKnown (group op : Nat) : Bool :=
  match group with
  | 0 => decide (1 ≤ op ∧ op ≤ 4)
  | 1 => op = 1 || op = 2
  | 2 => decide (1 ≤ op ∧ op ≤ 5)
  | 4 => op = 1
  | _ => false

/-- The RSV bits of a header are 0. -/
def QDesc.rsvOk (q : QDesc) : Bool :=
  q.field 11 5 = 0 && q.field 20 12 = 0 && q.field 112 16 = 0 && q.field 185 71 = 0

/-- The check at fetch (R162): the first status that applies; `poison` marks the 16 words. -/
def fetchCheck (r : Ring) (q : QDesc) (poison : Nat) : Option Nat :=
  if poison ≠ 0 then some 0x10
  else if !q.rsvOk || !opKnown r.group q.op || (q.quiet && !q.counter) || (q.counterVa ≠ 0 && !q.counter) then some 0x10
  else if q.group ≠ r.group then some 0x11
  else if q.counterVa % 8 ≠ 0 then some 0x12
  else none

/-- A descriptor's deadline has passed (R171). -/
def descLate (s : State) (q : QDesc) : Bool := q.deadline ≠ 0 && passed48 s q.deadline

/-- A missed deadline is reported (R172, R412). -/
def reportMiss (q : QDesc) (stage : Nat) (s : State) : State :=
  let d := packBits [(16, q.ring.toNat), (32, q.slot.toNat), (32, q.tag), (48, q.deadline), (3, stage)]
  bump (raiseFault { cls := 2, code := 1, sev := 0, kind := 8, index := q.ring.toNat, tenant := q.tenant.toNat, detail := d } s)
    Fld.ENG_STATUS_DEADLINE_MISSES

/-! ### Where descriptors go (R166, R167, R169) -/

/-- A cluster of a die has an enabled engine of a group that may serve a tenant. -/
def clusterServes (s : State) (die cl group t : Nat) : Bool :=
  mayServe s die cl group t && (List.range (unitsOf group)).any (engEnabled s die cl group)

/-- The clusters of a die in the probe order of R167. -/
def probeOrder (cl : Nat) : List Nat := sortBy (fun c => c ^^^ cl) (List.range 8)

/-- The cluster that a ring's descriptors go to: its home, or the first that serves it. -/
def placeCluster (s : State) (r : Ring) : Option Nat :=
  if clusterServes s r.die r.cl r.group r.tenant.toNat then some r.cl
  else if r.noSteal then none
  else (probeOrder r.cl).find? fun c => clusterServes s r.die c r.group r.tenant.toNat

/-- The engine of a cluster with the fewest queued descriptors, unless every run queue of 8 is full (R150, R166). -/
def pickEngine (s : State) (die cl group : Nat) : Option Nat :=
  let us := (List.range (unitsOf group)).filter fun u =>
    engEnabled s die cl group u && decide ((runqOf s (engCode die cl group u)).length < 8)
  (firstMin (fun u => (runqOf s (engCode die cl group u)).length) us).map (engCode die cl group)

/-- Every descriptor of a ring that waits in a run queue, and every task of it. -/
def queuedOf (s : State) (n : Nat) : List QDesc := s.eng.runq.vals.flatten.filter fun q => q.ring.toNat = n
def tasksOf (s : State) (n : Nat) : List Task := s.eng.tasks.vals.filter fun t => t.q.ring.toNat = n

/-- A fenced descriptor may go on: no earlier one of its ring is uncompleted (R161, R166). -/
def fenceClear (s : State) (n : Nat) : Bool := (queuedOf s n).isEmpty && (tasksOf s n).isEmpty

/-- Descriptors held for a ring go to run queues as far as FENCE and room allow; fuel bounds their number.
DESIGN CHOICE (log entry 56): fetched descriptors that find every run queue full wait with their ring, in order. -/
def placeHeld : Nat → Nat → State → State
  | 0, _, s => s
  | k + 1, n, s =>
    match ringOf s n with
    | none => s
    | some r =>
      match r.held with
      | [] => s
      | q :: rest =>
        if q.fence && !fenceClear s n then s
        else
          match (placeCluster s r).bind fun c => pickEngine s r.die c r.group with
          | none => s
          | some e => placeHeld k n (setRunq e (runqOf s e ++ [q]) (putRing n { r with held := rest } s))

/-- Held descriptors of every ring go to run queues as far as they can. -/
def placeAll (s : State) : State :=
  s.eng.rings.foldl (fun s e => placeHeld e.2.held.length e.1 s) s

/-! ### Doorbells (R155, R156) -/

/-- A doorbell access that the page refuses (R155). -/
def refuseDoorbell (s : State) : State := bump s Fld.ENG_STATUS_DOORBELL_REFUSED

/-- The ring behind a doorbell page as a tenant's access finds it: in use, its own, and not being destroyed (R155, R160). -/
def doorbellRing (s : State) (n t : Nat) : Option Ring :=
  match ringOf s n with
  | some r => if r.tenant.toNat = t && r.state ≠ 3 then some r else none
  | none => none

/-- The ring behind a doorbell page as a tenant's read of DB_STATE finds it: in use and its own, in any state (R155, R181). -/
def doorbellReadable (s : State) (n t : Nat) : Option Ring := (ringOf s n).filter fun r => r.tenant.toNat = t

/-- DB_TAIL receives V (R156); in the error state it is ignored (R159). -/
def doorbellTail (n t : Nat) (v : BitVec 32) (s : State) : State :=
  match doorbellRing s n t with
  | none => refuseDoorbell s
  | some r =>
    if r.state = 2 then s
    else if 2 ^ 31 ≤ (v - r.tail).toNat then bump s Fld.ENG_STATUS_DOORBELL_STALE
    else if r.slots < (v - r.head).toNat then doorbellError n s
    else putRing n { r with tail := v } s

/-- DB_CQ_HEAD receives V (R156). -/
def doorbellCq (n t : Nat) (v : BitVec 32) (s : State) : State :=
  match doorbellRing s n t with
  | none => refuseDoorbell s
  | some r =>
    if r.state = 2 then s
    else if 2 ^ 31 ≤ (v - r.cqHead).toNat then bump s Fld.ENG_STATUS_DOORBELL_STALE
    else if r.unread < (v - r.cqHead).toNat then doorbellError n s
    else putRing n { r with cqHead := v } s

/-- DB_TAIL (R156). -/
def execDbTail (t : Ltc) (ring : BitVec 12) (tenant : BitVec 10) (v : BitVec 32) (s : State) :
    Host.Outcome State Fault Refusal :=
  .next (doorbellTail ring.toNat tenant.toNat v (adv t s))

/-- DB_CQ_HEAD (R156). -/
def execDbCqHead (t : Ltc) (ring : BitVec 12) (tenant : BitVec 10) (v : BitVec 32) (s : State) :
    Host.Outcome State Fault Refusal :=
  .next (doorbellCq ring.toNat tenant.toNat v (adv t s))

end Sys2Proof.Machine
end

