-- ==== Sys2Proof/Machine/DataMover.lean ====
section
/-! DEFINITION. The data movers: lists, FILL, COPY, COMPARE, REDUCE and ATOMIC (R174-R180). -/

namespace Sys2Proof.Machine

/-! ### Elements of a reduction (R178) -/

/-- The width in bits of an element of RFMT. -/
def redWidth (fmt : Nat) : Nat := match fmt with | 0 => 32 | 1 => 16 | 2 => 32 | _ => 64

/-- MIN or MAX of two floating-point patterns; −0 lies below +0, and a NaN operand gives the one NaN pattern. -/
def floatPick (fn nanBits a b : Nat) (x y : FVal) : Nat :=
  if x.isNan || y.isNan then nanBits
  else if fn = 1 then (if flt y x then b else a)
  else if flt x y then b else a

/-- a op b for one element (R178): fn 0 SUM, 1 MIN, 2 MAX. -/
def redElem (fmt fn a b : Nat) : Nat :=
  match fmt with
  | 0 => if fn = 0 then f32Add a b else floatPick fn 0x7FC00000 a b (f32 a) (f32 b)
  | 1 => if fn = 0 then toBf16 (fadd (bf16 a) (bf16 b)) else floatPick fn 0x7FC0 a b (bf16 a) (bf16 b)
  | _ =>
    let w := redWidth fmt
    if fn = 0 then (a + b) % 2 ^ w
    else if fn = 1 then (if toSigned w b < toSigned w a then b else a)
    else if toSigned w a < toSigned w b then b else a

/-- The elements of two numbers of n elements combined in place. -/
def redNum (fmt fn : Nat) : Nat → Nat → Nat → Nat
  | 0, _, _ => 0
  | n + 1, a, b =>
    let w := 2 ^ redWidth fmt
    redElem fmt fn (a % w) (b % w) + w * redNum fmt fn n (a / w) (b / w)

/-! ### Bodies (R175-R177) -/

/-- One side of a body: address, list flag and length. -/
structure MoverSide where
  addr : Nat
  list : Bool
  len : Nat
  deriving DecidableEq, Repr

def moverA (q : QDesc) : MoverSide := ⟨q.field 256 57, q.field 319 1 = 1, q.field 320 32⟩
def moverB (q : QDesc) : MoverSide := ⟨q.field 384 57, q.field 447 1 = 1, q.field 448 32⟩

/-- The fields from OPERAND to RFN. -/
def mvOperand (q : QDesc) : Nat := q.field 512 64
def mvCompare (q : QDesc) : Nat := q.field 576 64
def mvAtop (q : QDesc) : Nat := q.field 640 4
def mvAsize (q : QDesc) : Bool := q.field 644 1 = 1
def mvMeta (q : QDesc) : Nat := q.field 645 2
def mvCmpMeta (q : QDesc) : Bool := q.field 647 1 = 1
def mvRfmt (q : QDesc) : Nat := q.field 648 3
def mvRfn (q : QDesc) : Nat := q.field 651 2

/-- The RSV bits of the body are 0 (R175). -/
def moverRsvOk (q : QDesc) : Bool :=
  q.field 313 6 = 0 && q.field 352 32 = 0 && q.field 441 6 = 0 && q.field 480 32 = 0 && q.field 653 371 = 0

/-- The fields an operation does not use are 0 and its encodings assigned (R175, R176). -/
def moverFieldsOk (q : QDesc) : Bool :=
  let noA := q.field 256 96 = 0
  let noB := q.field 384 96 = 0
  let noOperand := mvOperand q = 0
  let noCompare := mvCompare q = 0
  let noAtomic := mvAtop q = 0 && !mvAsize q
  let noMeta := mvMeta q = 0
  let noCmp := !mvCmpMeta q
  let noRed := mvRfmt q = 0 && mvRfn q = 0
  match q.op with
  | 1 => noA && noCompare && noAtomic && noCmp && noRed
  | 2 => noOperand && noCompare && noAtomic && noMeta && noCmp && noRed
  | 3 => noOperand && noCompare && noAtomic && noMeta && noRed
  | 4 => noOperand && noCompare && noAtomic && noMeta && noCmp && decide (mvRfmt q ≤ 3) && decide (mvRfn q ≤ 2)
  | _ => noB && (noCompare || mvAtop q = 9) && noMeta && noCmp && noRed && decide (mvAtop q ≤ 10)

/-- The checks that need no list: those of R175, then the first four rows of R177. -/
def moverCheck (q : QDesc) : Option Nat :=
  let a := moverA q
  let b := moverB q
  if !moverRsvOk q || !moverFieldsOk q then some 0x10
  else if (a.list && a.len = 0 && q.op ≠ 5) || (b.list && b.len = 0) then some 0x10
  else if (a.list && decide (1024 < a.len)) || (b.list && decide (1024 < b.len)) then some 0x14
  else if q.op = 5 && (a.list || a.len ≠ 0) then some 0x10
  else if q.op = 5 && !atomicAssigned (mvAtop q) (mvAsize q) then some 0x10
  else none

/-! ### Channels (R174) -/

/-- A task is a channel that could issue now or waits for replies: begun, neither parked nor completed. -/
def Task.channelLive (t : Task) : Bool :=
  t.recorded.isNone && (match t.st with | .ready => true | .walking _ _ => true | .wait => true | _ => false)

/-- The channel whose turn it is: the one whose accesses have begun, else the oldest that can run (R174). -/
def turnOf (s : State) (e : Nat) : Option Nat :=
  let live := (tasksOn s e).filter fun x => x.2.channelLive
  match live.find? fun x => x.2.issued with
  | some x => some x.1
  | none => (firstMin (fun x => x.2.order) live).map Prod.fst

/-- The task a command of a group's operation acts on: ready, its record not yet written, its tile store not retained (R240). -/
def readyTask (s : State) (e : Eng) (ctx group op : Nat) : Option Task :=
  match taskOf s (taskKey e.toNat ctx) with
  | some t => if t.st = .ready && t.recorded.isNone && t.chunk.isNone && e.group = group && t.q.op = op && !tileAsleep s e then some t else none
  | none => none

/-! ### Sides -/

/-- The extents of a list as read: raw ADDR and LEN words, so that RSV bits can still be checked. -/
def listEntries (p : Span) (n : Nat) : List Extent :=
  (List.range n).map fun i => { va := p.num (16 * i) 8, len := p.num (16 * i + 8) 8 }

/-- One side's extents: as the descriptor gives them, or read from its list; poison in the list comes back as true. -/
def readSide (w : Who) (m : MoverSide) (s : State) : Acc (List Extent × Bool) :=
  if m.list then
    (readSpan w m.addr (16 * m.len) s).bind fun p s => .ok (listEntries p m.len, p.bad 0 (16 * m.len)) s
  else .ok ([{ va := m.addr, len := m.len }], false) s

/-- RSV bits of list entries are 0. -/
def Extent.rsvOk (x : Extent) : Bool := x.va / 2 ^ 57 = 0 && x.len / 2 ^ 32 = 0

/-- An extent on line boundaries. -/
def Extent.aligned (x : Extent) : Bool := x.va % 64 = 0 && x.len % 64 = 0

/-- The bytes of a side. -/
def sideTotal (l : List Extent) : Nat := l.foldl (fun n x => n + x.len) 0

/-- The virtual address of an offset into a side. -/
def sideAddr : List Extent → Nat → Nat
  | [], _ => 0
  | x :: r, off => if off < x.len then x.va + off else sideAddr r (off - x.len)

/-- The end of the extent that holds an offset of a side. -/
def extentEnd : List Extent → Nat → Nat
  | [], _ => 0
  | x :: r, off => if off < x.len then x.va + x.len else extentEnd r (off - x.len)

/-- The rows of R177 after the lists are read. -/
def listsCheck (q : QDesc) (a b : List Extent × Bool) : Option Nat :=
  if a.2 || b.2 then some 0x10
  else if !(a.1.all Extent.rsvOk && b.1.all Extent.rsvOk) then some 0x10
  else if !(a.1.all Extent.aligned && b.1.all Extent.aligned) || (moverA q).addr % 64 ≠ 0 || (moverB q).addr % 64 ≠ 0 then some 0x12
  else none

/-- Both sides of a descriptor, its lists read once (R177). -/
def loadSides (w : Who) (t : Task) (s : State) : Acc ((List Extent × Bool) × (List Extent × Bool)) :=
  match t.sideA, t.sideB with
  | some a, some b => .ok ((a, false), (b, false)) s
  | _, _ =>
    (readSide w (moverA t.q) s).bind fun a s =>
      (readSide w (moverB t.q) s).bind fun b s => .ok (a, b) s

/-! ### Operations -/

/-- One line of FILL. -/
def fillLine (q : QDesc) : Line :=
  { data := BitVec.ofNat 512 (packBits (List.replicate 8 (64, mvOperand q))),
    meta2 := BitVec.ofNat 16 (packBits (List.replicate 8 (2, mvMeta q))), poison := 0 }

/-- The access 64 KiB before the end of a page has the extent's next page translated, whatever comes of it (R180). -/
def lookAhead (w : Who) (l : List Extent) (off : Nat) (write : Bool) (s : State) : State :=
  let va := sideAddr l off
  match (s.xlt.l1.get [] w.eng.toNat).find? (TlbEntry.hits w.tenant va) with
  | none => s
  | some e =>
    let next := alignDown va (2 ^ e.size) + 2 ^ e.size
    if va + 65536 = next && decide (next < extentEnd l off) then (translate w.eng w.tenant next write s).2 else s

/-- The line at an offset of a side is read by a mover. -/
def moverRead (w : Who) (l : List Extent) (off : Nat) (s : State) : Acc Line :=
  (readVa w (sideAddr l off) s).bind fun x s =>
    .ok x (markPoison w.key (x.poison ≠ 0) (countEv w.eng.cl 0x041 w.tenant 1 (lookAhead w l off false s)))

/-- The whole line at an offset of a side is written by a mover; the next offset is then the lowest not known to have been
written (R179). -/
def moverWrite (w : Who) (l : List Extent) (off : Nat) (x : Line) (s : State) : Acc Unit :=
  (writeVa w (sideAddr l off) allBytes x s).bind fun _ s =>
    .ok () (setProg w.key (off + 64) (off + 64) (countEv w.eng.cl 0x042 w.tenant 1 (lookAhead w l off true s)))

/-- FILL from an offset on; fuel counts lines. -/
def fillFrom (w : Who) (l : Line) (b : List Extent) : Nat → Nat → State → Acc Unit
  | 0, _, s => .ok () s
  | n + 1, off, s => (moverWrite w b off l s).bind fun _ s => fillFrom w l b n (off + 64) s

/-- COPY from an offset on. -/
def copyFrom (w : Who) (a b : List Extent) : Nat → Nat → State → Acc Unit
  | 0, _, s => .ok () s
  | n + 1, off, s =>
    (moverRead w a off s).bind fun l s =>
      (moverWrite w b off l s).bind fun _ s => copyFrom w a b n (off + 64) s

/-- B op A for a line: poison in either word gives poison, metadata of B stays (R178, R179). -/
def reduceLine (fmt fn : Nat) (a b : Line) : Line :=
  { data := BitVec.ofNat 512 (redNum fmt fn (512 / redWidth fmt) b.data.toNat a.data.toNat),
    meta2 := b.meta2, poison := a.poison ||| b.poison }

/-- REDUCE from an offset on. -/
def reduceFrom (w : Who) (fmt fn : Nat) (a b : List Extent) : Nat → Nat → State → Acc Unit
  | 0, _, s => .ok () s
  | n + 1, off, s =>
    (moverRead w a off s).bind fun x s =>
      (moverRead w b off s).bind fun y s =>
        (moverWrite w b off (reduceLine fmt fn x y) s).bind fun _ s =>
          reduceFrom w fmt fn a b n (off + 64) s

/-- Word i of two lines differs: a poisoned word does (R179). -/
def wordDiffers (cmpMeta : Bool) (x y : Line) (i : Nat) : Bool :=
  bitsOf x.data.toNat (64 * i) 64 ≠ bitsOf y.data.toNat (64 * i) 64 || bitAt x.poison.toNat i || bitAt y.poison.toNat i ||
    (cmpMeta && bitsOf x.meta2.toNat (2 * i) 2 ≠ bitsOf y.meta2.toNat (2 * i) 2)

/-- COMPARE from an offset on: the offset of the first differing word. -/
def compareFrom (w : Who) (cmpMeta : Bool) (a b : List Extent) : Nat → Nat → State → Acc (Option Nat)
  | 0, _, s => .ok none s
  | n + 1, off, s =>
    (moverRead w a off s).bind fun x s =>
      (moverRead w b off s).bind fun y s =>
        match (List.range 8).find? (wordDiffers cmpMeta x y) with
        | some i => .ok (some (off + 8 * i)) s
        | none => compareFrom w cmpMeta a b n (off + 64) (setProg w.key (off + 64) (off + 64) s)

/-- A channel whose turn it is runs: its lists are read and checked, then `body` goes on from the offset reached. -/
def runChannel (e : Eng) (ctx op : Nat) (x : Ext)
    (body : Who → Task → List Extent → List Extent → State → State) (s : State) : State :=
  match readyTask s e ctx 2 op with
  | none => s
  | some t =>
    let w : Who := { eng := e, task := ctx, tenant := t.q.tenant.toNat, x := x }
    if turnOf s e.toNat ≠ some w.key then s
    else
      let s := updTask w.key (fun t => { t with issued := true }) s
      (loadSides w t s).close w.key fun r s =>
        match listsCheck t.q r.1 r.2 with
        | some c => endTask w.key c 0 (markPoison w.key (r.1.2 || r.2.2) s)
        | none =>
          if op ≠ 1 && sideTotal r.1.1 ≠ sideTotal r.2.1 then endTask w.key 0x13 0 s
          else body w t r.1.1 r.2.1 (updTask w.key (fun t => { t with sideA := some r.1.1, sideB := some r.2.1 }) s)

/-- The lines still to do. -/
def linesLeft (b : List Extent) (t : Task) : Nat := (sideTotal b - t.prog) / 64

/-- FILL (R176). -/
def execFill (t : Ltc) (eng : Eng) (task : BitVec 5) (x : Ext) (s : State) : Host.Outcome State Fault Refusal :=
  .next (runChannel eng task.toNat 1 x (fun w t _ b s =>
    (fillFrom w (fillLine t.q) b (linesLeft b t) t.prog s).close w.key fun _ s => endTask w.key 0 (sideTotal b) s) (adv t s))

/-- COPY (R176). -/
def execCopy (t : Ltc) (eng : Eng) (task : BitVec 5) (x : Ext) (s : State) : Host.Outcome State Fault Refusal :=
  .next (runChannel eng task.toNat 2 x (fun w t a b s =>
    (copyFrom w a b (linesLeft b t) t.prog s).close w.key fun _ s => endTask w.key 0 (sideTotal b) s) (adv t s))

/-- COMPARE (R176): the offset of the first differing word, all ones for none, 0 for an empty descriptor. -/
def execCompare (t : Ltc) (eng : Eng) (task : BitVec 5) (x : Ext) (s : State) : Host.Outcome State Fault Refusal :=
  .next (runChannel eng task.toNat 3 x (fun w t a b s =>
    (compareFrom w (mvCmpMeta t.q) a b (linesLeft b t) t.prog s).close w.key fun r s =>
      endTask w.key 0 (match r with | some o => o | none => if sideTotal b = 0 then 0 else 2 ^ 64 - 1) s) (adv t s))

/-- REDUCE (R178). -/
def execReduce (t : Ltc) (eng : Eng) (task : BitVec 5) (x : Ext) (s : State) : Host.Outcome State Fault Refusal :=
  .next (runChannel eng task.toNat 4 x (fun w t a b s =>
    (reduceFrom w (mvRfmt t.q) (mvRfn t.q) a b (linesLeft b t) t.prog s).close w.key fun _ s =>
      endTask w.key 0 (sideTotal b) s) (adv t s))

/-- One atomic of a channel whose turn it is (R176, R179). -/
def runAtomic (e : Eng) (ctx : Nat) (x : Ext) (s : State) : State :=
  match readyTask s e ctx 2 5 with
  | none => s
  | some t =>
    let w : Who := { eng := e, task := ctx, tenant := t.q.tenant.toNat, x := x }
    let va := (moverA t.q).addr
    if turnOf s e.toNat ≠ some w.key then s
    else if va % (if mvAsize t.q then 8 else 4) ≠ 0 then endTask w.key 0x12 0 s
    else
      let s := updTask w.key (fun t => { t with issued := true }) s
      (atomicVa w va (mvAtop t.q) (mvAsize t.q) (mvOperand t.q) (mvCompare t.q) s).close w.key fun r s =>
        endTask w.key 0 (if r.2 then 0 else r.1) (markPoison w.key r.2 s)

/-- ATOMIC (R176). -/
def execAtomic (t : Ltc) (eng : Eng) (task : BitVec 5) (x : Ext) (s : State) : Host.Outcome State Fault Refusal :=
  .next (runAtomic eng task.toNat x (adv t s))

end Sys2Proof.Machine
end

