-- ==== Sys2Proof/Machine/Micro.lean ====
section
/-! DEFINITION. Number formats of the engines: microscaled elements and their scales (R23, R182-R184), rows of elements, and the
vector unit's division, exponential and logarithm (R183, R206, R207, R221). -/

namespace Sys2Proof.Machine

/-- The element formats of the tiles and gather engines. -/
inductive NumFmt where
  | fp32
  | bf16
  | e4m3
  | e5m2
  | e2m1
  | int8
  deriving DecidableEq, Repr

/-- The width of an element in bits. -/
def NumFmt.bits : NumFmt → Nat
  | .fp32 => 32
  | .bf16 => 16
  | .e4m3 => 8
  | .e5m2 => 8
  | .e2m1 => 4
  | .int8 => 8

/-- An MXFP8 format, whose scales lie in metadata bits (R23). -/
def NumFmt.isMx8 : NumFmt → Bool
  | .e4m3 => true
  | .e5m2 => true
  | _ => false

/-- An element pattern read without its scale. -/
def NumFmt.elem (f : NumFmt) (x : Nat) : FVal :=
  match f with
  | .fp32 => f32 x
  | .bf16 => Machine.bf16 x
  | .e4m3 => if bitsOf x 0 7 = 0x7F then .nan else fdecode 4 3 false x
  | .e5m2 => fdecode 5 2 true x
  | .e2m1 => fdecode 2 1 false x
  | .int8 => fofInt false (toSigned 8 x) 0

/-- An E8M0 scale. -/
def scaleVal (code : Nat) : FVal := if code = 0xFF then .nan else .fin false 1 ((code : Int) - 127)

/-- Element i of data whose MXFP8 scales lie in metadata bits, 8 for each group of 32 elements (R23). -/
def NumFmt.at (f : NumFmt) (data md i : Nat) : FVal :=
  let e := f.elem (bitsOf data (f.bits * i) f.bits)
  if f.isMx8 then fmul e (scaleVal (bitsOf md (8 * (i / 32)) 8)) else e

/-- The first n elements. -/
def NumFmt.values (f : NumFmt) (data md n : Nat) : List FVal := (List.range n).map (f.at data md)

/-! ### Conversion from FP32 (R184) -/

/-- Exponent bits, mantissa bits, the E of R184 and the pattern of the largest finite element. -/
def NumFmt.shape (f : NumFmt) : Nat × Nat × Nat × Nat :=
  match f with
  | .e5m2 => (5, 2, 15, 0x7B)
  | .e2m1 => (2, 1, 2, 0x7)
  | _ => (4, 3, 8, 0x7E)

/-- A value divided by 2^X, rounded to the nearest element, saturating: bits below the sign. -/
def NumFmt.encodeAbs (f : NumFmt) (x : Int) (v : FVal) : Nat :=
  let h := f.shape
  match v with
  | .nan => 0
  | .inf _ => h.2.2.2
  | .fin _ m e => min h.2.2.2 (fpackRaw h.1 h.2.1 (fround h.1 h.2.1 m (e - x))).2

/-- The sign of a value. -/
def FVal.neg : FVal → Bool
  | .nan => false
  | .inf n => n
  | .fin n _ _ => n

/-- floor(log2 of the magnitude), where there is one; an infinity counts as large. -/
def FVal.log2 : FVal → Option Int
  | .nan => none
  | .inf _ => some 1000
  | .fin _ m e => if m = 0 then none else some (e + bitLen m - 1)

/-- The greatest of some exponents. -/
def maxLog2 : List FVal → Option Int
  | [] => none
  | v :: r =>
    match v.log2, maxLog2 r with
    | some a, some b => some (max a b)
    | some a, none => some a
    | none, b => b

/-- An element saturates beyond the largest finite one, before it is rounded (R184, R200). -/
def NumFmt.saturates (f : NumFmt) (x : Int) (v : FVal) : Bool :=
  match v with
  | .nan => false
  | .inf _ => true
  | .fin _ m e => flt (f.elem f.shape.2.2.2) (.fin false m (e - x))

/-- A NaN element: E4M3 has two patterns, E5M2 six; which one is open. E2M1 has none. -/
def NumFmt.nanBits (f : NumFmt) : Nat :=
  match f with
  | .e4m3 => 0x7F + 128 * (Config.nanElem 1 % 2)
  | .e5m2 => 0x7D + Config.nanElem 2 % 3 + 128 * (Config.nanElem 3 % 2)
  | _ => 0

/-- A group converted (R184): the scale code and the elements. -/
def NumFmt.encodeGroup (f : NumFmt) (vs : List FVal) : Nat × List Nat :=
  if vs.any FVal.isNan then (0xFF, vs.map fun _ => f.nanBits)
  else
    match maxLog2 vs with
    | none => (0, vs.map fun _ => 0)
    | some l =>
      let x := max (-127) (min 127 (l - f.shape.2.2.1))
      ((x + 127).toNat, vs.map fun v => f.encodeAbs x v + b2n v.neg * 2 ^ (f.bits - 1))

/-- Groups of 32. -/
def groupsOf32 {α : Type} : Nat → List α → List (List α)
  | 0, _ => []
  | _, [] => []
  | n + 1, l => l.take 32 :: groupsOf32 n (l.drop 32)

/-- FP32 values laid out as a row: data, and the metadata bits that hold MXFP8 scales. DESIGN CHOICE (log entry 56): the metadata bits
of every other format's words are 0. -/
def NumFmt.encodeRow (f : NumFmt) (vs : List FVal) : Nat × Nat :=
  match f with
  | .fp32 => (packBits (vs.map fun v => (32, toF32 v)), 0)
  | .bf16 => (packBits (vs.map fun v => (16, toBf16 v)), 0)
  | _ =>
    let gs := (groupsOf32 vs.length vs).map f.encodeGroup
    (packBits (gs.flatMap fun g => g.2.map fun e => (f.bits, e)), packBits (gs.map fun g => (8, g.1)))

/-! ### The vector unit -/

/-- The quotient with a sticky bit below at least `mb` + 3 exact bits. -/
def fdivExact (mb : Nat) (a b : FVal) : FVal :=
  match a, b with
  | .nan, _ => .nan
  | _, .nan => .nan
  | .inf _, .inf _ => .nan
  | .inf x, .fin n _ _ => .inf (x != n)
  | .fin n _ _, .inf x => .fin (n != x) 0 0
  | .fin n1 m1 e1, .fin n2 m2 e2 =>
    if m2 = 0 then (if m1 = 0 then .nan else .inf (n1 != n2))
    else
      let k := mb + 3 + bitLen m2
      let n := m1 * 2 ^ k
      .fin (n1 != n2) (2 * (n / m2) + b2n (n % m2 ≠ 0)) (e1 - e2 - k - 1)

/-- FP32 division: an exact quotient as it stands, another rounded to one of its two neighbours, which one is open (R207, R221,
log entry 33). -/
def f32Div (a b : Nat) : Nat :=
  let q := fdivExact 23 (f32 a) (f32 b)
  let p := toF32 q
  match q with
  | .fin _ m e =>
    let v := f32 (p % 2 ^ 31)
    if flt v (.fin false m e) then p + Config.vdiv a b % 2
    else if flt (.fin false m e) v then p - Config.vdiv a b % 2
    else p
  | _ => p

/-- The larger of two FP32 values, −0 below +0; a NaN gives NaN. -/
def f32Max (a b : Nat) : Nat :=
  let x := f32 a
  let y := f32 b
  if x.isNan || y.isNan then 0x7FC00000 else if flt x y then b else a

/-- Not a number, or an infinity. -/
def f32NotFinite (a : Nat) : Bool := match f32 a with | .fin _ _ _ => false | _ => true

/-- −∞ in FP32. -/
def f32NegInf : Nat := 0xFF800000

/-! A fixed-point reference for the exponential, in units of 2^−320. -/

/-- 1 in units of the reference. -/
def expOne : Nat := 2 ^ 320

/-- e^(−x) for 0 ≤ x < 1: the alternating series, positive terms less negative ones. -/
def expNegFrac (x : Nat) : Nat :=
  let terms := (List.range 80).foldl (fun (p : Nat × Nat × Nat) i =>
    let t := p.1
    let p' := if i % 2 = 0 then (p.2.1 + t, p.2.2) else (p.2.1, p.2.2 + t)
    (t * x / expOne / (i + 1), p')) (expOne, 0, 0)
  terms.2.1 - terms.2.2

/-- e^(−n) for a whole n, by repeated multiplication with e^(−1). -/
def expNegWhole : Nat → Nat
  | 0 => expOne
  | n + 1 => expNegWhole n * expNegFrac (expOne - 1) / expOne

/-- The reference exponential of a value that is not positive: 0 below −160, where FP32 holds no such value. -/
def expRef (v : FVal) : Nat :=
  match v with
  | .fin _ m e =>
    let x := if 0 ≤ e then m * 2 ^ (e.toNat + 320) else m * expOne / 2 ^ e.natAbs
    let whole := x / expOne
    if 160 < whole then 0 else expNegWhole whole * expNegFrac (x % expOne) / expOne
  | _ => 0

/-- The greatest FP32 value not above a number of reference units, and the least not below it. -/
def refFloor (n : Nat) : Nat :=
  let v : FVal := .fin false n (-320)
  if flt v (f32 (toF32 v)) then toF32 v - 1 else toF32 v
def refCeil (n : Nat) : Nat :=
  let v : FVal := .fin false n (-320)
  if flt (f32 (toF32 v)) v then toF32 v + 1 else toF32 v

/-- The exponential of a difference that is not positive (R183): which value within a relative 2^−21 of it is open; the
reference's own error is taken off the bound. Where the subnormals hold no value so close, its two neighbours are open. -/
def vecExp (x : Nat) : Nat :=
  match f32 x with
  | .nan => 0x7FC00000
  | .inf _ => 0
  | v =>
    let r := max 1 (expRef v)
    let d := r / 2 ^ 21 - 2 ^ 10
    let lo := refCeil (r - d)
    let hi := refFloor (r + d)
    let c := Config.vexp x
    if hi < lo then (if c % 2 = 0 then hi else lo) else if c < lo then lo else if hi < c then hi else c

/-- The natural logarithm of a positive finite value; its rounding is not stated (R207). -/
def vecLn (x : Nat) : Nat := Config.vln x % 2 ^ 32

end Sys2Proof.Machine
end

