-- ==== Sys2Proof/Machine/Gather.lean ====
section
/-! DEFINITION. Gather engines: GATHER and POOL (R215-R222). -/

namespace Sys2Proof.Machine

/-! ### Bodies (R218, R220) -/

def gaTable (q : QDesc) : Nat := q.field 256 57
def gaIdx (q : QDesc) : Nat := q.field 320 57
def gaOffs (q : QDesc) : Nat := q.field 384 57
def gaOut (q : QDesc) : Nat := q.field 448 57
def gaWgt (q : QDesc) : Nat := q.field 512 57
def gaLines (q : QDesc) : Nat := q.field 576 8
def gaEfmt (q : QDesc) : Nat := q.field 584 3
def gaIdx64 (q : QDesc) : Bool := q.field 587 1 = 1
def gaFn (q : QDesc) : Nat := q.field 588 2
def gaOutFmt (q : QDesc) : Nat := q.field 590 2
def gaRows (q : QDesc) : Nat := q.field 608 32
def gaCount (q : QDesc) : Nat := q.field 640 32

/-- Bytes of an index. -/
def idxBytes (q : QDesc) : Nat := if gaIdx64 q then 8 else 4

/-- The element format of the table, and of the output of POOL (R218). -/
def gaFmt (q : QDesc) : NumFmt := match gaEfmt q with | 1 => .fp32 | 2 => .bf16 | 3 => .e4m3 | _ => .e5m2
def gaOutNum (q : QDesc) : NumFmt := match gaOutFmt q with | 1 => .fp32 | 2 => .bf16 | _ => gaFmt q

/-- Elements of a row, and bytes of an output row. -/
def gaElems (q : QDesc) : Nat := 512 * gaLines q / (gaFmt q).bits
def gaOutBytes (q : QDesc) : Nat := if q.op = 1 then 64 * gaLines q else gaElems q * (gaOutNum q).bits / 8

/-- RSV bits, ranges and fields of the other operation. -/
def gatherFieldsOk (q : QDesc) : Bool :=
  let rsv := q.field 313 7 = 0 && q.field 377 7 = 0 && q.field 441 7 = 0 && q.field 505 7 = 0 && q.field 569 7 = 0 &&
    q.field 592 16 = 0 && q.field 672 352 = 0
  let common := decide (1 ≤ gaLines q ∧ gaLines q ≤ 128) && decide (1 ≤ gaEfmt q ∧ gaEfmt q ≤ 4) && gaRows q ≠ 0 &&
    decide (1 ≤ gaCount q ∧ gaCount q ≤ 65536)
  let own :=
    if q.op = 1 then gaOffs q = 0 && gaWgt q = 0 && gaFn q = 0 && gaOutFmt q = 0
    else gaFn q ≠ 0 && gaOutFmt q ≠ 3 && !(gaWgt q ≠ 0 && gaFn q = 3) &&
      !(gaOutFmt q = 2 && gaEfmt q = 1 && gaLines q % 2 = 1)
  rsv && common && own

/-- The first two rows of R220. -/
def gatherCheck (q : QDesc) : Option Nat :=
  if !gatherFieldsOk q then some 0x10
  else if gaTable q % 64 ≠ 0 || gaIdx q % idxBytes q ≠ 0 || gaOffs q % 4 ≠ 0 || gaOut q % 64 ≠ 0 || gaWgt q % 4 ≠ 0 then some 0x12
  else none

/-! ### Accesses -/

/-- RESULT of a failure: output rows written and the position of the index at fault, all ones for none (R217). -/
def gatherFigure (rows pos : Nat) : Nat := rows + 2 ^ 32 * (pos % 2 ^ 32)
def noPos : Nat := 0xFFFFFFFF

/-- How the work on one output row ends: written, from so many table rows, or the descriptor fails. -/
inductive RowEnd where
  | done (rows : Nat)
  | failed (status result : Nat)
  deriving DecidableEq, Repr

/-- The page of a virtual address is a TIER 0 page of a KIND 1 ingot (R215). -/
inductive TablePage where
  | shared
  | other
  | faults
  deriving DecidableEq, Repr

/-- What R215 makes of a translation: a frame that fails R103 is one of the other pages. -/
def tablePage (s : State) (t : Nat) (x : Xl) : TablePage :=
  match x with
  | .stack la => match ownerOf s la with | .sharedRead _ => .shared | _ => .other
  | .remote _ _ => .other
  | .away page => if demoting s t page then .faults else .other
  | .bad 3 _ _ => .other
  | .bad _ _ _ => .faults
  | .miss => .faults

/-- One line of a table row, or none where its page is no table page (R215, R216). -/
def tableLine (w : Who) (va : Nat) (s : State) : Acc (Option Line) :=
  let r := translate w.eng w.tenant va false s
  match tablePage r.2 w.tenant r.1 with
  | .other => .ok none r.2
  | _ => (readVa w va r.2).bind fun l s => .ok (some l) s

/-- The lines of a row; fuel is their number. -/
def tableLines (w : Who) : Nat → Nat → State → Acc (Option (List Line))
  | 0, _, s => .ok (some []) s
  | n + 1, va, s =>
    (tableLine w va s).bind fun l s =>
      match l with
      | none => .ok none s
      | some l => (tableLines w n (va + 64) s).bind fun r s => .ok (r.map fun r => l :: r) s

/-- A row of the table is read and counted (R234, R417). -/
def readRow (w : Who) (q : QDesc) (row : Nat) (s : State) : Acc (Option (List Line)) :=
  (tableLines w (gaLines q) (gaTable q + 64 * gaLines q * row) s).bind fun r s =>
    match r with
    | none => .ok none s
    | some ls =>
      let bad := ls.any fun l => l.poison ≠ 0
      .ok (some ls) (markPoison w.key bad (countEv w.eng.cl 0x040 w.tenant 1 (bump s Fld.GTH_STATUS_ROWS_READ)))

/-- A poisoned index, offset or weight ends the descriptor with POISON; its status is not stated (R222). -/
def arrayPoison (w : Who) (figure : Nat) (s : State) : RowEnd × State :=
  let d := draw (markPoison w.key true s)
  (.failed (d.1 % 256) figure, d.2)

/-- A descriptor ends on a bad index or bag (R220, R234). -/
def rangeFault (status figure : Nat) (s : State) : RowEnd × State := (.failed status figure, bump s Fld.GTH_STATUS_RANGE_FAULTS)

/-- The figure of a task while it reads for a position. -/
def noteFigure (w : Who) (fig : Nat) (s : State) : State := updTask w.key (fun t => { t with figure := fig }) s

/-! ### GATHER (R217) -/

/-- Lines written one after another. -/
def writeLinesVa (w : Who) : List Line → Nat → State → Acc Unit
  | [], _, s => .ok () s
  | l :: r, va, s => (writeVa w va allBytes l s).bind fun _ s => writeLinesVa w r (va + 64) s

/-- Output row i of GATHER. -/
def gatherRow (w : Who) (q : QDesc) (i : Nat) (s : State) : Acc RowEnd :=
  let ib := idxBytes q
  (readSpan w (gaIdx q + ib * i) ib (noteFigure w (gatherFigure i noPos) s)).bind fun p s =>
    if p.bad 0 ib then
      let r := arrayPoison w (gatherFigure i i) s
      .ok r.1 r.2
    else
      let row := p.num 0 ib
      if gaRows q ≤ row then
        let r := rangeFault 0x46 (gatherFigure i i) s
        .ok r.1 r.2
      else
        (readRow w q row (noteFigure w (gatherFigure i i) s)).bind fun ls s =>
          match ls with
          | none => .ok (.failed 0x49 (gatherFigure i i)) s
          | some ls =>
            (writeLinesVa w ls (gaOut q + 64 * gaLines q * i) (noteFigure w (gatherFigure i noPos) s)).bind fun _ s =>
              .ok (.done 1) s

/-! ### POOL (R219-R222) -/

/-- n numbers of k bytes of a span. -/
def Span.list (p : Span) (k n : Nat) : List Nat := (List.range n).map fun i => p.num (k * i) k

/-- The first of n numbers of k bytes whose word is poison. -/
def Span.firstBad (p : Span) (k n : Nat) : Option Nat := (List.range n).find? fun i => p.bad (k * i) k

/-- The weights of a bag, 1 where there are none. -/
def readWeights (w : Who) (q : QDesc) (lo n : Nat) (s : State) : Acc (List Nat × Option Nat) :=
  if gaWgt q = 0 then .ok (List.replicate n 0x3F800000, none) s
  else (readSpan w (gaWgt q + 4 * lo) (4 * n) s).bind fun p s => .ok (p.list 4 n, p.firstBad 4 n) s

/-- The rows of a bag, or the position of the first that is no table row. -/
def bagRows (w : Who) (q : QDesc) (i : Nat) : List (Nat × Nat) → State → Acc (Except Nat (List (List Line)))
  | [], s => .ok (.ok []) s
  | (pos, row) :: rest, s =>
    (readRow w q row (noteFigure w (gatherFigure i pos) s)).bind fun ls s =>
      match ls with
      | none => .ok (.error pos) s
      | some ls => (bagRows w q i rest s).bind fun r s => .ok (r.map fun r => ls :: r) s

/-- Products summed in the order the rows return, each step rounded (R221). -/
def sumFp32 : List Nat → Nat
  | [] => 0
  | x :: r => r.foldl f32Add x

/-- The pooled value of one element from (weight, element) pairs in order of return (R221). -/
def poolElem (fn n : Nat) (xs : List (Nat × FVal)) : Nat :=
  if xs.isEmpty then 0
  else if fn = 3 then
    match xs.map fun x => toF32 x.2 with
    | [] => 0
    | y :: r => if (f32 y).isNan then 0x7FC00000 else r.foldl f32Max y
  else
    let sum := sumFp32 (xs.map fun x => f32Mul x.1 (toF32 x.2))
    if fn = 2 then f32Div sum (toF32 (fofInt false n 0)) else sum

/-- The order in which n rows return: any order, by keys nothing is known of (R221). -/
def returnOrder (race n : Nat) : List Nat := sortBy (Config.orderKey race) (List.range n)

/-- An output row of a bag: its bytes and metadata bits. -/
def poolRow (q : QDesc) (race : Nat) (weights : List Nat) (rows : List (List Line)) : Nat × Nat :=
  let vals := rows.map fun ls => (gaFmt q).values (linesData ls) (linesMeta ls) (gaElems q)
  let order := returnOrder race rows.length
  let elem (e : Nat) : FVal :=
    f32 (poolElem (gaFn q) rows.length (order.map fun k => (weights.getD k 0, (vals.getD k []).getD e .nan)))
  (gaOutNum q).encodeRow ((List.range (gaElems q)).map elem)

/-- The lines of a row of bytes, all poisoned where `bad`. -/
def rowLines (data md n : Nat) (bad : Bool) : List Line :=
  (List.range n).map fun i =>
    { data := BitVec.ofNat 512 (bitsOf data (512 * i) 512), meta2 := BitVec.ofNat 16 (bitsOf md (16 * i) 16),
      poison := if bad then 255 else 0 }

/-- A bag's rows are pooled and its output row written (R221, R222). -/
def writeBag (w : Who) (q : QDesc) (i : Nat) (weights : List Nat) (rows : List (List Line)) (s : State) : Acc RowEnd :=
  let d := draw (noteFigure w (gatherFigure i noPos) s)
  let bad := rows.any fun ls => ls.any fun l => l.poison ≠ 0
  let out := poolRow q d.1 weights rows
  let n := gaOutBytes q / 64
  (writeLinesVa w (rowLines out.1 out.2 n bad) (gaOut q + gaOutBytes q * i) d.2).bind fun _ s =>
    .ok (.done rows.length) (if rows.isEmpty then bump s Fld.GTH_STATUS_EMPTY_BAGS else s)

/-- The indices and weights of a bag are read and checked, then its rows (R219, R220). -/
def poolBag (w : Who) (q : QDesc) (i lo n : Nat) (s : State) : Acc RowEnd :=
  let ib := idxBytes q
  (readSpan w (gaIdx q + ib * lo) (ib * n) s).bind fun p s =>
    (readWeights w q lo n s).bind fun ws s =>
      match p.firstBad ib n, ws.2 with
      | some k, _ =>
        let r := arrayPoison w (gatherFigure i (lo + k)) s
        .ok r.1 r.2
      | none, some k =>
        let r := arrayPoison w (gatherFigure i (lo + k)) s
        .ok r.1 r.2
      | none, none =>
        let idx := p.list ib n
        match (List.range n).find? fun k => decide (gaRows q ≤ idx.getD k 0) with
        | some k =>
          let r := rangeFault 0x46 (gatherFigure i (lo + k)) s
          .ok r.1 r.2
        | none =>
          (bagRows w q i ((List.range n).map fun k => (lo + k, idx.getD k 0)) s).bind fun rows s =>
            match rows with
            | .error pos => .ok (.failed 0x49 (gatherFigure i pos)) s
            | .ok rows => writeBag w q i ws.1 rows s

/-- Bag i as the begin of the descriptor kept it. -/
def bagOf (s : State) (key i : Nat) : Extent :=
  match (taskOf s key).bind Task.sideA with
  | some l => l.getD i ⟨0, 0⟩
  | none => ⟨0, 0⟩

/-- Output row i of POOL. -/
def poolOne (w : Who) (q : QDesc) (i : Nat) (s : State) : Acc RowEnd :=
  let b := bagOf s w.key i
  poolBag w q i b.va b.len (noteFigure w (gatherFigure i noPos) s)

/-! ### What is checked at the begin (R220) -/

/-- The page of a virtual address is translated; a fault parks the task (R117, R220). -/
def touchVa (w : Who) (va : Nat) (write : Bool) (s : State) : Acc Unit :=
  let r := translate w.eng w.tenant va write s
  match r.1 with
  | .stack _ => .ok () r.2
  | .remote _ _ => .ok () r.2
  | bad => .park (parkAccess w.eng w.task va write bad r.2)

/-- Addresses 2 MiB apart, the smallest page; fuel is their number. -/
def touchPages (w : Who) (write : Bool) : Nat → Nat → State → Acc Unit
  | 0, _, s => .ok () s
  | n + 1, va, s => (touchVa w va write s).bind fun _ s => touchPages w write n (alignDown va mib2 + mib2) s

/-- Every page of n bytes from a virtual address. -/
def touchSpan (w : Who) (va n : Nat) (write : Bool) (s : State) : Acc Unit :=
  touchPages w write (if n = 0 then 0 else (va + n - 1) / mib2 - va / mib2 + 1) va s

/-- The bags of COUNT + 1 offsets: the first index of each and the offset after its last (R219). -/
def bagsOf : List Nat → List (Nat × Nat)
  | a :: b :: r => (a, b) :: bagsOf (b :: r)
  | _ => []

/-- A bag neither the offsets nor its length refuse (R220). -/
def bagOk (b : Nat × Nat) : Bool := decide (b.1 ≤ b.2 ∧ b.2 - b.1 ≤ 4096)

/-- The indices and weights of bags are translated. -/
def touchBags (w : Who) (q : QDesc) : List (Nat × Nat) → State → Acc Unit
  | [], s => .ok () s
  | b :: r, s =>
    let n := b.2 - b.1
    (touchSpan w (gaIdx q + idxBytes q * b.1) (idxBytes q * n) false s).bind fun _ s =>
      (touchSpan w (gaWgt q + 4 * b.1) (if gaWgt q = 0 then 0 else 4 * n) false s).bind fun _ s => touchBags w q r s

/-- What a descriptor keeps of its begin: its bags as first index and length. -/
def keepBags (w : Who) (bags : List (Nat × Nat)) (s : State) : State :=
  updTask w.key (fun t => { t with sideA := some (bags.map fun b => ⟨b.1, b.2 - b.1⟩) }) s

/-- Rows 3 to 5 of R220 for POOL: faults of its arrays and its output, then offsets that fall, then bags too long. -/
def beginPool (w : Who) (q : QDesc) (s : State) : Acc RowEnd :=
  let n := gaCount q + 1
  (readSpan w (gaOffs q) (4 * n) s).bind fun p s =>
    (touchSpan w (gaOut q) (gaOutBytes q * gaCount q) true s).bind fun _ s =>
      if p.bad 0 (4 * n) then
        let r := arrayPoison w (gatherFigure 0 noPos) s
        .ok r.1 r.2
      else
        let bags := bagsOf ((List.range n).map fun i => p.num (4 * i) 4)
        (touchBags w q (bags.filter bagOk) s).bind fun _ s =>
          if bags.any fun b => decide (b.2 < b.1) then
            let r := rangeFault 0x48 (gatherFigure 0 noPos) s
            .ok r.1 r.2
          else if bags.any fun b => !bagOk b then
            let r := rangeFault 0x47 (gatherFigure 0 noPos) s
            .ok r.1 r.2
          else .ok (.done 0) (keepBags w bags s)

/-- Row 3 of R220 for GATHER: faults of its indices and its output. -/
def beginGather (w : Who) (q : QDesc) (s : State) : Acc RowEnd :=
  (touchSpan w (gaIdx q) (idxBytes q * gaCount q) false s).bind fun _ s =>
    (touchSpan w (gaOut q) (gaOutBytes q * gaCount q) true s).bind fun _ s => .ok (.done 0) (keepBags w [] s)

/-- The checks of the begin, once (R220). -/
def gatherBegin (w : Who) (q : QDesc) (s : State) : Acc RowEnd :=
  match (taskOf s w.key).bind Task.sideA with
  | some _ => .ok (.done 0) s
  | none =>
    let s := noteFigure w (gatherFigure 0 noPos) s
    if q.op = 1 then beginGather w q s else beginPool w q s

/-! ### The operations -/

/-- Output rows from the one reached on; fuel counts rows. -/
def rowsFrom (w : Who) (one : Nat → State → Acc RowEnd) : Nat → Nat → State → Acc RowEnd
  | 0, _, s => .ok (.done 0) s
  | f + 1, i, s =>
    (one i s).bind fun r s =>
      match r with
      | .done n =>
        let s := updTask w.key (fun t => { t with tally := t.tally + n }) s
        rowsFrom w one f (i + 1) (setProg w.key (i + 1) (gatherFigure (i + 1) noPos) s)
      | bad => .ok bad s

/-- A gather descriptor goes on from the output row it reached. -/
def runGather (e : Eng) (ctx op : Nat) (x : Ext) (one : Who → QDesc → Nat → State → Acc RowEnd) (result : Task → Nat)
    (s : State) : State :=
  match readyTask s e ctx 1 op with
  | none => s
  | some t =>
    let w : Who := { eng := e, task := ctx, tenant := t.q.tenant.toNat, x := x }
    let rows := (gatherBegin w t.q s).bind fun r s =>
      match r with
      | .done _ => rowsFrom w (one w t.q) (gaCount t.q - t.prog) t.prog s
      | bad => .ok bad s
    rows.close w.key fun r s =>
      match r with
      | .failed c v => endTask w.key c v s
      | .done _ => endTask w.key 0 (match taskOf s w.key with | some t => result t | none => 0) s

/-- GATHER (R217). -/
def execGather (t : Ltc) (eng : Eng) (task : BitVec 5) (x : Ext) (s : State) : Host.Outcome State Fault Refusal :=
  .next (runGather eng task.toNat 1 x gatherRow (fun t => gaCount t.q) (adv t s))

/-- POOL (R221). -/
def execPool (t : Ltc) (eng : Eng) (task : BitVec 5) (x : Ext) (s : State) : Host.Outcome State Fault Refusal :=
  .next (runGather eng task.toNat 2 x poolOne (fun t => t.tally) (adv t s))

end Sys2Proof.Machine
end

