-- ==== Sys2Proof/Machine/Crucible.lean ====
section
/-! DEFINITION. Crucible tiles: sequence contexts, the checks at begin, layer locks, appends and sketches (R185-R200). -/

namespace Sys2Proof.Machine

/-! ### Sequence descriptors (R189) -/

def SeqCtx.f (c : SeqCtx) (lo w : Nat) : Nat := bitsOf c.desc.toNat lo w
def kvFmt (code : Nat) : NumFmt := match code with | 1 => .e4m3 | 2 => .e5m2 | _ => .bf16
def SeqCtx.kv (c : SeqCtx) : NumFmt := kvFmt (c.f 0 2)
def SeqCtx.io (c : SeqCtx) : NumFmt := kvFmt (c.f 2 2)
def SeqCtx.latent (c : SeqCtx) : Bool := c.f 4 1 = 1
def SeqCtx.dim (c : SeqCtx) : Nat := 32 * c.f 8 6
def SeqCtx.rope (c : SeqCtx) : Nat := 32 * c.f 16 5
def SeqCtx.heads (c : SeqCtx) : Nat := c.f 24 5
def SeqCtx.perKv (c : SeqCtx) : Nat := c.f 32 8
def SeqCtx.layers (c : SeqCtx) : Nat := c.f 40 7
def SeqCtx.blocksMax (c : SeqCtx) : Nat := c.f 48 16
def SeqCtx.btVa (c : SeqCtx) : Nat := c.f 64 57
def SeqCtx.skVa (c : SeqCtx) : Nat := c.f 128 57
def SeqCtx.seed (c : SeqCtx) : Nat := c.f 192 32
def SeqCtx.softmax (c : SeqCtx) : Nat := c.f 224 32
def SeqCtx.fill (c : SeqCtx) (l : Nat) : Nat := c.f (512 + 32 * l) 32
def SeqCtx.skScale (c : SeqCtx) (l h : Nat) : Nat := c.f (8 * (512 + l * c.heads + h)) 8

/-- The value dimension, bytes of a row of D elements, of a block and of one head's part of it (R189, R191). -/
def SeqCtx.vdim (c : SeqCtx) : Nat := c.dim - c.rope
def SeqCtx.rowBytes (c : SeqCtx) : Nat := c.dim * c.kv.bits / 8
def SeqCtx.headBytes (c : SeqCtx) : Nat := (if c.latent then 16 else 32) * c.rowBytes
def SeqCtx.blockBytes (c : SeqCtx) : Nat := c.heads * c.headBytes

/-- Bytes of the new keys and values of a token (R197). -/
def SeqCtx.tokenBytes (c : SeqCtx) : Nat := c.heads * (if c.latent then 1 else 2) * c.rowBytes

/-- RSV bits and ranges of R189, and LAYERS × KV_HEADS (R188). -/
def seqDescOk (c : SeqCtx) : Bool :=
  let rsv := c.f 5 3 = 0 && c.f 14 2 = 0 && c.f 21 3 = 0 && c.f 29 3 = 0 && c.f 47 1 = 0 && c.f 121 7 = 0 && c.f 185 7 = 0 &&
    c.f 288 224 = 0 && c.f 2560 1536 = 0
  let d := c.f 8 6
  let shape :=
    if c.latent then decide (1 ≤ d ∧ d ≤ 32) && decide (c.rope < c.dim) && c.heads = 1 && decide (1 ≤ c.perKv ∧ c.perKv ≤ 128)
    else (d = 2 || d = 4 || d = 8) && c.rope = 0 && decide (1 ≤ c.heads ∧ c.heads ≤ 16) && decide (1 ≤ c.perKv ∧ c.perKv ≤ 16)
  rsv && shape && c.f 0 2 ≠ 0 && c.f 2 2 ≠ 0 && decide (1 ≤ c.layers ∧ c.layers ≤ 64) && c.blocksMax ≠ 0 && c.btVa % 64 = 0 &&
    c.skVa % 64 = 0 && decide (c.layers * c.heads ≤ 512)

/-! ### Contexts (R187-R190) -/

def ctxOf (s : State) (n : Nat) : Option SeqCtx := s.cru.ctxs.find n
def putCtx (n : Nat) (c : SeqCtx) (s : State) : State := { s with cru := { s.cru with ctxs := s.cru.ctxs.put n c } }
def updCtx (n : Nat) (f : SeqCtx → SeqCtx) (s : State) : State := { s with cru := { s.cru with ctxs := s.cru.ctxs.upd n f } }

/-- Contexts of the part (R187). -/
def ctxCount (s : State) : Nat := 1024 * dies s

/-- Words of a context that are uncorrectable fail the descriptors that name it until it is released (R245). -/
def loseCtx (n : Nat) (bad : List Nat) (s : State) : State := if bad.isEmpty then s else updCtx n (fun c => { c with lost := true }) s

/-- The place of context n in the shared scratch (R187, R236). -/
def ctxPlace (n : Nat) : Nat × Nat := (n / 1024, 0x400000 + 1024 * (n % 1024))

/-- The words of a context are read, for a descriptor that names it. -/
def readCtx (n : Nat) (s : State) : State :=
  let r := scratchRead (ctxPlace n).1 (ctxPlace n).2 1024 s
  loseCtx n r.1 r.2

/-- Bytes of a context are written through a port. -/
def writeCtx (n off bytes port : Nat) (s : State) : State :=
  let r := scratchWrite (ctxPlace n).1 ((ctxPlace n).2 + off) bytes port s
  loseCtx n r.1 r.2

/-- The local address behind a TIER 0 page that a tenant may read and write (R188). -/
def plainPage (t va : Nat) (s : State) : Option Nat × State :=
  if 2 ^ 57 ≤ va then (none, s)
  else
    let w := walkPlain t va s
    match w.1 with
    | .leaf p _ _ size =>
      if p.tier = 0 && p.w && framesAllowed w.2 t p size true then (some (p.addr + va % 2 ^ size), w.2) else (none, w.2)
    | .bad _ _ _ => (none, w.2)

/-- n lines read with `RD_CUR`. -/
def homeLines (x : Ext) : Nat → Nat → State → List Line × State
  | 0, _, s => ([], s)
  | n + 1, ln, s =>
    let l := homeRead ln x s
    let r := homeLines x n (ln + 1) l.2
    (l.1 :: r.1, r.2)

/-- SEQCTX_BIND once the context is free: the descriptor is read and checked (R188). -/
def bindCtx (h : CmdHdr) (n va : Nat) (x : Ext) (s : State) : State :=
  let p := plainPage h.tenant.toNat va s
  match p.1 with
  | none => refuseCmd h Status.BAD_PARAM p.2
  | some la =>
    let r := homeLines x 16 (la / 64) p.2
    let c : SeqCtx := { tenant := BitVec.ofNat 10 h.tenant.toNat, va := BitVec.ofNat 64 va,
                        desc := BitVec.ofNat 8192 (linesData r.1) }
    if linesPoison r.1 ≠ 0 || !seqDescOk c then refuseCmd h Status.BAD_PARAM r.2
    else okCmd h [] (writeCtx n 0 1024 csrPort (putCtx n c r.2))

/-- SEQCTX_BIND (R188). -/
def execSeqctxBind (t : Ltc) (h : CmdHdr) (ctx : BitVec 16) (va : Word) (x : Ext) (s : State) :
    Host.Outcome State Fault Refusal :=
  opcode t h .tenant false (fun s =>
    if ctxCount s ≤ ctx.toNat then refuseCmd h Status.BAD_PARAM s
    else if (ctxOf s ctx.toNat).isSome then refuseCmd h Status.IN_USE s
    else if va.toNat % 1024 ≠ 0 then refuseCmd h Status.BAD_PARAM s
    else bindCtx h ctx.toNat va.toNat x s) s

/-- A task waits for a lock of a context. -/
def waitsLock (n : Nat) (t : Task) : Bool := match t.st with | .lock c _ => c = n | _ => false

/-- A descriptor holds a layer lock of a context, or has begun and waits for one. -/
def ctxBusy (s : State) (n : Nat) : Bool :=
  (match ctxOf s n with | some c => !c.locks.isEmpty | none => false) || s.eng.tasks.vals.any (waitsLock n)

/-- One line of a write-back, with what its owner outside returns where it answers within the step. -/
def backLine (x : Ext) (ln mask : Nat) (l : Line) (s : State) : State :=
  if lineBusy s ln || (ownerLine x ln).isNone then homePost ln mask l s else homeWrite ln mask l x s

/-- FILL and SK_SAT go back into the descriptor, bytes 64..319 and 32..35, at a local address (R190). Whole words keep the
metadata bits they have: only the bytes of FILL are rewritten. -/
def writeBackCtx (c : SeqCtx) (la : Nat) (x : Ext) (s : State) : State :=
  let ln := la / 64
  let line (i : Nat) : Line := dataLine (bitsOf c.desc.toNat (512 * i) 512)
  let s := backLine x ln (byteMask 32 36) (line 0) s
  (List.range 4).foldl (fun s i =>
    let old := homeRead (ln + 1 + i) x s
    backLine x (ln + 1 + i) allBytes { line (i + 1) with meta2 := old.1.meta2 } old.2) s

/-- A release whose write-back fails its check raises a FAULT event; its class and code are not listed, so they are open, but
that class 2 has an event of its own (R190, R411). -/
def releaseFault (n : Nat) (c : SeqCtx) (s : State) : State :=
  let d := draw s
  let e := draw d.2
  let cls := d.1 % 255
  raiseFault { cls := if cls < 2 then cls else cls + 1, code := e.1 % 256, sev := 1, kind := 11, index := n,
               tenant := c.tenant.toNat } e.2

/-- The number of a sequence context among the requesters of this part (R134). -/
def ctxRequester (n : Nat) : Nat := 2 ^ 21 + n

/-- The homes of a write-back's lines have room for it (R134). -/
def backTaken (n la : Nat) (s : State) : Bool × State :=
  if backedOff s (ctxRequester n) then (false, s)
  else
    match ((List.range 5).map (la / 64 + ·)).find? (homeFull s) with
    | some ln => (false, nackRequester (ctxRequester n) ln s)
    | none => (true, setCoh { s.coh with backoffs := s.coh.backoffs.del (ctxRequester n) } s)

/-- SEQCTX_RELEASE ends: write-back, the context is free, the reply (R190). A write-back answered `NACK` is tried again. -/
def finishCtx (n : Nat) (c : SeqCtx) (h : CmdHdr) (x : Ext) (s : State) : State :=
  let free (s : State) : State := okCmd h [] { s with cru := { s.cru with ctxs := s.cru.ctxs.del n } }
  let p := plainPage c.tenant.toNat c.va.toNat s
  if c.lost then free p.2
  else
    match p.1 with
    | some la =>
      let b := backTaken n la p.2
      if b.1 then free (writeBackCtx c la x b.2) else b.2
    | none => free (releaseFault n c p.2)

/-- A release that waits ends once no lock is held (R190). -/
def tryFinishCtx (n : Nat) (x : Ext) (s : State) : State :=
  match ctxOf s n with
  | none => s
  | some c =>
    match c.releasing with
    | some h => if ctxBusy s n then s else finishCtx n c h x s
    | none => s

/-- SEQCTX_RELEASE (R190). -/
def execSeqctxRelease (t : Ltc) (h : CmdHdr) (ctx : BitVec 16) (x : Ext) (s : State) : Host.Outcome State Fault Refusal :=
  opcode t h .tenant false (fun s =>
    match ctxOf s ctx.toNat with
    | none => refuseCmd h Status.NOT_FOUND s
    | some c =>
      if c.tenant.toNat ≠ h.tenant.toNat || c.releasing.isSome then refuseCmd h Status.NOT_FOUND s
      else tryFinishCtx ctx.toNat x (beginLong h (putCtx ctx.toNat { c with releasing := some h } s))) s

/-! ### Bodies (R197, R198) -/

def cbCtx (q : QDesc) : Nat := q.field 256 11
def cbLayer (q : QDesc) : Nat := q.field 272 6
def cbVariant (q : QDesc) : Nat := q.field 280 3
def cbNew (q : QDesc) : Nat := q.field 288 5
def cbKsel (q : QDesc) : Nat := q.field 296 7
def cbFirst (q : QDesc) : Nat := q.field 304 3
def cbNewest (q : QDesc) : Nat := q.field 307 3
def cbChunk (q : QDesc) : Nat := q.field 312 7
def cbPos (q : QDesc) : Nat := q.field 320 32
def cbCount (q : QDesc) : Nat := q.field 352 32
def cbQ (q : QDesc) : Nat := q.field 384 57
def cbKv (q : QDesc) : Nat := q.field 448 57
def cbOut (q : QDesc) : Nat := q.field 512 57
def cbLse (q : QDesc) : Nat := q.field 576 57

/-- Tokens an ATTEND or APPEND writes. -/
def cbTokens (q : QDesc) : Nat := if q.op = 1 then cbNew q else cbCount q

/-- RSV bits of the body. -/
def tileRsvOk (q : QDesc) : Bool :=
  q.field 267 5 = 0 && q.field 278 2 = 0 && q.field 283 5 = 0 && q.field 293 3 = 0 && q.field 303 1 = 0 && q.field 310 2 = 0 &&
    q.field 319 1 = 0 && q.field 441 7 = 0 && q.field 505 7 = 0 && q.field 569 7 = 0 && q.field 633 391 = 0

/-- Fields within their ranges, and 0 where marked for other operations (R197); a field marked for one variant is looked at
in that variant. -/
def tileFieldsOk (q : QDesc) : Bool :=
  let no01 := q.field 280 40 = 0 && cbQ q = 0 && cbOut q = 0 && cbLse q = 0
  match q.op with
  | 1 =>
    let common := decide (1 ≤ cbNew q ∧ cbNew q ≤ 16) && decide (1 ≤ cbChunk q ∧ cbChunk q ≤ 64)
    match cbVariant q with
    | 1 => common
    | 2 => common && decide (cbFirst q ≤ 4) && cbCount q ≠ 0
    | 3 => common && decide (cbFirst q ≤ 4) && decide (2 ≤ cbNewest q ∧ cbNewest q ≤ 4) && decide (1 ≤ cbKsel q ∧ cbKsel q ≤ 64) &&
        decide (cbFirst q + cbNewest q ≤ cbKsel q)
    | _ => false
  | 2 => no01 && decide (1 ≤ cbCount q ∧ cbCount q ≤ 65536)
  | _ => no01 && cbKv q = 0 && decide (1 ≤ cbCount q ∧ cbCount q ≤ 65535)

/-- Rows of an ATTEND (R198). -/
def attendRows (c : SeqCtx) (q : QDesc) : Nat := cbNew q * c.heads * c.perKv
def queryBytes (c : SeqCtx) (q : QDesc) : Nat := attendRows c q * c.dim * c.io.bits / 8
def accBytes (c : SeqCtx) (q : QDesc) : Nat := attendRows c q * (c.vdim + 2) * 4
def attendArea (c : SeqCtx) (q : QDesc) : Nat := queryBytes c q + cbNew q * c.tokenBytes + accBytes c q

/-- SHAPE_ERROR of R198. -/
def shapeBad (c : SeqCtx) (q : QDesc) : Bool :=
  q.op = 1 && (decide (2 ^ 18 < queryBytes c q) || decide (2 ^ 19 < accBytes c q) || decide (2 ^ 20 < attendArea c q) ||
    decide (2 ^ 19 < cbChunk q * c.headBytes))

/-- The context a body names, where the ring's tenant has it bound and not being released (R187, R190). -/
def namedCtx (s : State) (q : QDesc) : Option SeqCtx :=
  match ctxOf s (cbCtx q) with
  | some c => if c.tenant = q.tenant && c.releasing.isNone then some c else none
  | none => none

/-- The last rows of R198, on a context that may be named. -/
def seqRowsCheck (c : SeqCtx) (q : QDesc) : Option Nat :=
  if c.layers ≤ cbLayer q || !tileRsvOk q || !tileFieldsOk q then some 0x10
  else if q.op ≠ 3 && decide (c.fill (cbLayer q) < cbPos q) then some 0x42
  else if (q.op ≠ 3 && decide (16 * c.blocksMax < cbPos q + cbTokens q)) || (q.op = 3 && decide (c.blocksMax < cbPos q + cbCount q)) then
    some 0x43
  else if shapeBad c q then some 0x45
  else none

/-- The checks of R198 in order; a context whose words were lost fails the descriptor (R245). -/
def seqCheck (s : State) (q : QDesc) : Option Nat :=
  if ctxCount s ≤ cbCtx q then some 0x40
  else
    match namedCtx s q with
    | none => some 0x40
    | some c =>
      let die := match ringOf s q.ring.toNat with | some r => r.die | none => 0
      if cbCtx q / 1024 ≠ die then some 0x41
      else if c.lost then some 0xFF
      else seqRowsCheck c q

/-- RESULT of an ATTEND or APPEND that fails: FILL as it stands and the stage (R196). -/
def seqFigure (s : State) (q : QDesc) (stage : Nat) : Nat :=
  (match ctxOf s (cbCtx q) with | some c => c.fill (cbLayer q) | none => 0) + 2 ^ 32 * stage

/-- RESULT of a refusal at begin; with no context of the tenant's there is no FILL, and the value is open. -/
def refusalFigure (q : QDesc) (s : State) : Nat × State :=
  if q.op = 3 then (0, s)
  else if (namedCtx s q).isSome then (seqFigure s q 0, s)
  else
    let d := draw s
    (d.1 % 2 ^ 32, d.2)

/-! ### Streaming matrix multiply: the body (R210) -/

def mmA (q : QDesc) : Nat := q.field 256 57
def mmB (q : QDesc) : Nat := q.field 320 57
def mmC (q : QDesc) : Nat := q.field 384 57
def mmM (q : QDesc) : Nat := q.field 448 7
def mmAfmt (q : QDesc) : Nat := q.field 456 4
def mmBfmt (q : QDesc) : Nat := q.field 460 4
def mmCfmt (q : QDesc) : Nat := q.field 464 2
def mmAccum (q : QDesc) : Bool := q.field 466 1 = 1
def mmK (q : QDesc) : Nat := q.field 480 32
def mmN (q : QDesc) : Nat := q.field 512 32
def mmChunk (q : QDesc) : Nat := q.field 544 16

/-- Bytes of a row of K elements, and of N elements of C, each padded to a line (R210). -/
def mmRowBytes (fmt k : Nat) : Nat := match fmt with | 1 => k / 2 + k / 32 | 4 => 2 * k | _ => k
def mmStride (fmt k : Nat) : Nat := ceilDiv (mmRowBytes fmt k) 64 * 64
def mmCbytes (q : QDesc) : Nat := match mmCfmt q with | 0 => 4 | 1 => 2 | _ => 1
def mmCstride (q : QDesc) : Nat := ceilDiv (mmN q * mmCbytes q) 64 * 64

/-- Formats, ranges and RSV bits (R210). -/
def matmulOk (q : QDesc) : Bool :=
  let rsv := q.field 313 7 = 0 && q.field 377 7 = 0 && q.field 441 7 = 0 && q.field 455 1 = 0 && q.field 467 13 = 0 &&
    q.field 560 464 = 0
  let fmts := decide (1 ≤ mmAfmt q ∧ mmAfmt q ≤ 5) && decide (1 ≤ mmBfmt q ∧ mmBfmt q ≤ 5) && decide (mmCfmt q ≤ 2) &&
    (mmAfmt q = mmBfmt q || ((mmAfmt q = 2 || mmAfmt q = 3) && mmBfmt q = 1)) && (!mmAccum q || mmCfmt q = 0)
  let sizes := decide (1 ≤ mmM q ∧ mmM q ≤ 64) && decide (32 ≤ mmK q ∧ mmK q ≤ 65536) && mmK q % 32 = 0 &&
    decide (16 ≤ mmN q ∧ mmN q ≤ 2 ^ 24) && mmN q % 16 = 0 && !(mmCfmt q = 2 && mmN q % 32 ≠ 0) &&
    decide (16 ≤ mmChunk q ∧ mmChunk q ≤ 4096) && mmChunk q % 16 = 0
  rsv && fmts && sizes && mmA q % 64 = 0 && mmB q % 64 = 0 && mmC q % 64 = 0

/-- Bytes of operand A in its area. -/
def matmulArea (q : QDesc) : Nat := mmM q * mmStride (mmAfmt q) (mmK q)

/-- The checks of R210. -/
def matmulCheck (q : QDesc) : Option Nat :=
  if !matmulOk q then some 0x10 else if 2 ^ 19 < matmulArea q then some 0x45 else none

/-- The check of a tile's body. -/
def tileCheck (s : State) (q : QDesc) : Option Nat := if q.op = 4 then matmulCheck q else seqCheck s q

/-- The room a descriptor takes in a tile's areas (R185); a refused one takes none. -/
def tileArea (s : State) (q : QDesc) : Nat :=
  if (tileCheck s q).isSome then 0
  else if q.op = 4 then matmulArea q
  else if q.op = 1 then (match ctxOf s (cbCtx q) with | some c => attendArea c q | none => 0)
  else 0

/-- A tile's areas have room for a descriptor (R186). -/
def tileRoom (s : State) (e : Nat) (q : QDesc) : Bool :=
  decide ((tasksOn s e).foldl (fun n x => n + x.2.area) 0 + tileArea s q ≤ 2 ^ 20)

/-! ### Layer locks (R195) -/

/-- A descriptor that has begun takes its layer's lock, or waits for it. -/
def takeLock (q : QDesc) (key : Nat) (s : State) : TaskState × State :=
  match ctxOf s (cbCtx q) with
  | none => (.ready, s)
  | some c =>
    if (c.locks.find (cbLayer q)).isSome || s.eng.tasks.vals.any (fun t => t.st = .lock (cbCtx q) (cbLayer q)) then
      (.lock (cbCtx q) (cbLayer q), bump s Fld.CRU_STATUS_LOCK_WAITS)
    else (.ready, putCtx (cbCtx q) { c with locks := c.locks.put (cbLayer q) key } s)

/-- A completing descriptor frees its lock (R195, R190). -/
def freeLock (q : QDesc) (key : Nat) (x : Ext) (s : State) : State :=
  if q.op = 4 then s
  else
    let n := cbCtx q
    tryFinishCtx n x (updCtx n (fun c => { c with locks := c.locks.keep fun _ k => k ≠ key }) s)

/-- LAYER_LOCK_GRANT (R195): the waiting descriptor that began first takes a lock that is free; a failure from then on reports
FILL as it stands now (R196). -/
def grantLock (ctx layer : Nat) (s : State) : State :=
  match ctxOf s ctx with
  | none => s
  | some c =>
    if (c.locks.find layer).isSome then s
    else
      match firstMin (fun e => e.2.order) (s.eng.tasks.keep fun _ t => t.st = .lock ctx layer) with
      | none => s
      | some (key, t) =>
        let s := setTaskState key .ready (putCtx ctx { c with locks := c.locks.put layer key } s)
        updTask key (fun x => { x with figure := if t.q.op = 3 then 0 else seqFigure s t.q 0 }) s

/-- LAYER_LOCK_GRANT (R195). -/
def execLayerLockGrant (t : Ltc) (ctx : BitVec 11) (layer : BitVec 6) (s : State) : Host.Outcome State Fault Refusal :=
  .next (grantLock ctx.toNat layer.toNat (adv t s))

/-! ### Blocks and rows (R191, R192) -/

/-- The address of a block from its table entry (R191, R192); a poisoned entry is not VALID. -/
def blockAddr (w : Who) (c : SeqCtx) (l b : Nat) (s : State) : Acc Nat :=
  (readSpan w (c.btVa + 8 * (l * c.blocksMax + b)) 8 s).bind fun p s =>
    let e := p.num 0 8
    let va := bitsOf e 0 57
    if p.bad 0 8 then .fail 0x44 (markPoison w.key true s)
    else if bitsOf e 57 6 ≠ 0 then .fail 0x10 s
    else if !bitAt e 63 then .fail 0x44 s
    else if va % 64 ≠ 0 || va / mib2 ≠ (va + c.blockBytes - 1) / mib2 then .fail 0x12 s
    else .ok va s

/-- A row of n elements of a span. -/
def Span.row (p : Span) (f : NumFmt) (at_ n : Nat) : List FVal :=
  f.values (p.num at_ (n * f.bits / 8)) (p.mdOf at_ (ceilDiv (n * f.bits) 64)) n

/-- Bytes of a span as an output. -/
def Span.out (p : Span) (at_ n : Nat) : OutSpan :=
  { data := p.num at_ n, md := p.mdOf at_ (ceilDiv n 8), poison := p.marksOf at_ (ceilDiv n 8) }

/-! ### Sketches (R193, R194, R200) -/

/-- Whether entry (i, j) of the projection of (l, h) is −1 (R200). -/
def projNeg (c : SeqCtx) (l h i j : Nat) : Bool :=
  let m := 2 ^ 32
  let u := (c.seed + 4096 * (c.heads * l + h) + 128 * i + j) % m
  let u := u ^^^ (u / 2 ^ 16)
  let u := u * 0x7FEB352D % m
  let u := u ^^^ (u / 2 ^ 15)
  let u := u * 0x846CA68B % m
  let u := u ^^^ (u / 2 ^ 16)
  bitAt u 31

/-- An FP32 pattern with its sign changed. -/
def f32Neg (x : Nat) : Nat := toF32 (fneg (f32 x))

/-- P x for one row of the projection: the signed terms. -/
def projTerms (c : SeqCtx) (l h i : Nat) (xs : List Nat) : List Nat :=
  xs.zipIdx.map fun x => if projNeg c l h i x.2 then f32Neg x.1 else x.1

/-- The mean of 16 rows, column by column (R200). -/
def meanRow (n : Nat) (rows : List (List FVal)) : List Nat :=
  (List.range n).map fun j => f32Mul (sumFp32 (rows.map fun r => toF32 (r.getD j .nan))) 0x3D800000

/-- The 32 elements of a sketch and how many saturated (R200). -/
def sketchOf (c : SeqCtx) (l h : Nat) (rows : List (List FVal)) : Nat × Nat :=
  let mean := meanRow c.dim rows
  let x : Int := (c.skScale l h : Int) - 127
  let vs := (List.range 32).map fun i => f32 (sumFp32 (projTerms c l h i mean))
  (packBits (vs.map fun v => (4, NumFmt.e2m1.encodeAbs x v + 8 * b2n (v.neg && !v.isNan))),
   (vs.filter (NumFmt.e2m1.saturates x)).length)

/-- The sketch address (R193). -/
def sketchVa (c : SeqCtx) (l b h : Nat) : Nat := c.skVa + 16 * ((l * c.blocksMax + b) * c.heads + h)

/-- Saturated elements are counted, by a tile of a cluster (R200). -/
def countSaturated (cl ctx n : Nat) (s : State) : State :=
  let s := updCtx ctx (fun c => { c with desc := BitVec.ofNat 8192 (putBits c.desc.toNat 256 32 (min (2 ^ 32 - 1) (c.f 256 32 + n))) }) s
  bumpBy (if n = 0 then s else writeCtx ctx 32 4 (clusterPort cl) s) Fld.CRU_STATUS2_SK_SATURATED n

/-- A task has written one more sketch; SKETCH reports them also where it fails. -/
def countSketch (key : Nat) (s : State) : State :=
  updTask key (fun t => { t with tally := t.tally + 1, figure := if t.q.op = 3 then t.tally + 1 else t.figure }) s

/-- The sketch of one head of a block; a poisoned key makes it poison. DESIGN CHOICE (log entry 56): the metadata bits of its words are
0. -/
def writeSketch (w : Who) (ctx : Nat) (c : SeqCtx) (l b va h : Nat) (s : State) : Acc Unit :=
  let base := va + (if c.latent then 0 else h * c.headBytes)
  let n := 16 * c.rowBytes
  (readSpan w base n s).bind fun p s =>
    let rows := (List.range 16).map fun r => p.row c.kv (r * c.rowBytes) c.dim
    let k := sketchOf c l h rows
    let bad := p.bad 0 n
    let s := markPoison w.key bad s
    (writeSpan w (sketchVa c l b h) 16 { data := k.1, poison := if bad then 3 else 0 } s).bind fun _ s =>
      .ok () (bump (countSaturated w.eng.cluster ctx k.2 (countSketch w.key s))
        Fld.CRU_STATUS2_SKETCHES_WRITTEN)

/-- The stage an operation is in, and the index within it, both kept in `prog`. -/
def stageNo (stage i : Nat) : Nat := stage * 2 ^ 32 + i
def Task.stage (t : Task) : Nat := t.prog / 2 ^ 32
def Task.index (t : Task) : Nat := t.prog % 2 ^ 32
def setStage (key stage i : Nat) (s : State) : State := updTask key (fun t => { t with prog := stageNo stage i }) s

/-- The sketches of (block, head) pairs first.. of a list of blocks; the index counts pairs. -/
def sketchesFrom (w : Who) (ctx : Nat) (c : SeqCtx) (l stage : Nat) (blocks : List Nat) : Nat → Nat → State → Acc Unit
  | 0, _, s => .ok () s
  | f + 1, i, s =>
    let b := blocks.getD (i / c.heads) 0
    (blockAddr w c l b s).bind fun va s =>
      (writeSketch w ctx c l b va (i % c.heads) s).bind fun _ s =>
        sketchesFrom w ctx c l stage blocks f (i + 1) (setStage w.key stage (i + 1) s)

/-! ### Appends (R199) -/

/-- The writes of an append: one for each (token, head, key or value). -/
def appendWrites (c : SeqCtx) (n : Nat) : Nat := n * c.heads * (if c.latent then 1 else 2)

/-- Write i of an append: the token's offset, the head, and whether it is the value row. -/
def appendWrite (c : SeqCtx) (i : Nat) : Nat × Nat × Nat :=
  let k := if c.latent then 1 else 2
  (i / (k * c.heads), i / k % c.heads, i % k)

/-- Rows are written into their blocks from write i on (R191, R199). -/
def appendFrom (w : Who) (q : QDesc) (c : SeqCtx) (news : Span) : Nat → Nat → State → Acc Unit
  | 0, _, s => .ok () s
  | f + 1, i, s =>
    let a := appendWrite c i
    let t := cbPos q + a.1
    (blockAddr w c (cbLayer q) (t / 16) s).bind fun va s =>
      let at_ := va + a.2.1 * c.headBytes + 16 * a.2.2 * c.rowBytes + t % 16 * c.rowBytes
      (writeSpan w at_ c.rowBytes (news.out (i * c.rowBytes) c.rowBytes) s).bind fun _ s =>
        let s := updTask w.key (fun t => { t with figure := seqFigure s q 1 }) s
        appendFrom w q c news f (i + 1) (setStage w.key 1 (i + 1) s)

/-- FILL of a layer takes a value, written by a tile of a cluster (R199). -/
def setFill (cl ctx l n : Nat) (s : State) : State :=
  writeCtx ctx (64 + 4 * l) 4 (clusterPort cl) <| updCtx ctx (fun c => { c with desc := BitVec.ofNat 8192 (putBits c.desc.toNat (512 + 32 * l) 32 n) }) s

/-- The blocks an append of n tokens from pos leaves full (R194). -/
def filledBlocks (pos n : Nat) : List Nat := (List.range ((pos + n) / 16 - pos / 16)).map fun i => pos / 16 + i

/-- The area of a task. -/
def areaOf (s : State) (key : Nat) : Attend := s.cru.areas.get {} key
def setArea (key : Nat) (a : Attend) (s : State) : State := { s with cru := { s.cru with areas := s.cru.areas.set {} key a } }

/-- The new keys and values of a descriptor, as its area holds them. -/
def newsSpan (q : QDesc) (a : Attend) : Span := spanOf (cbKv q) a.news

/-- Stage 0 of an append: the new keys and values are read. -/
def readNews (w : Who) (q : QDesc) (c : SeqCtx) (s : State) : Acc Unit :=
  let n := cbTokens q * c.tokenBytes
  (readLinesVa w (spanLines (cbKv q) n) (cbKv q) s).bind fun ls s =>
    let s := markPoison w.key ((spanOf (cbKv q) ls).bad 0 n) s
    .ok () (setArea w.key { areaOf s w.key with news := ls } s)

/-- Once every append write is performed: FILL, and the figure (R199). -/
def appendDone (w : Who) (q : QDesc) (s : State) : State :=
  let s := setFill w.eng.cluster (cbCtx q) (cbLayer q) (cbPos q + cbTokens q) s
  setStage w.key 2 0 (updTask w.key (fun t => { t with figure := seqFigure s q 1 }) s)

/-- The stages of an append from the one reached: 0 new rows read, 1 rows written and FILL set, 2 sketches written. -/
def runAppend (w : Who) (q : QDesc) (c : SeqCtx) (t : Task) (s : State) : Acc Unit :=
  let stage0 := if t.stage = 0 then (readNews w q c s).bind fun _ s => .ok () (setStage w.key 1 0 s) else .ok () s
  let n := appendWrites c (cbTokens q)
  let stage1 := stage0.bind fun _ s =>
    if t.stage ≤ 1 then
      (appendFrom w q c (newsSpan q (areaOf s w.key)) (n - t.index) t.index s).bind fun _ s => .ok () (appendDone w q s)
    else .ok () s
  stage1.bind fun _ s =>
    let bs := filledBlocks (cbPos q) (cbTokens q)
    let i := if t.stage = 2 then t.index else 0
    if t.stage ≤ 2 then sketchesFrom w (cbCtx q) c (cbLayer q) 2 bs (bs.length * c.heads - i) i s else .ok () s

/-- The task and context of a tile operation that can go on. -/
def tileTask (s : State) (e : Eng) (ctx op : Nat) : Option (Task × SeqCtx) :=
  match readyTask s e ctx 0 op with
  | none => none
  | some t => (ctxOf s (cbCtx t.q)).map fun c => (t, c)

/-- APPEND runs (R199): RESULT is FILL and the sketches written. -/
def runAppendOp (e : Eng) (ctx : Nat) (x : Ext) (s : State) : State :=
  match tileTask s e ctx 2 with
  | none => s
  | some (t, c) =>
    let w : Who := { eng := e, task := ctx, tenant := t.q.tenant.toNat, x := x }
    (runAppend w t.q c t s).close w.key fun _ s =>
      let n := match taskOf s w.key with | some t => t.tally | none => 0
      endTask w.key 0 (seqFigure s t.q 0 + 2 ^ 32 * n) s

/-- APPEND (R199). -/
def execAppend (t : Ltc) (eng : Eng) (task : BitVec 5) (x : Ext) (s : State) : Host.Outcome State Fault Refusal :=
  .next (runAppendOp eng task.toNat x (adv t s))

/-- SKETCH runs: the full blocks among COUNT blocks from block POS (R194, R196). -/
def runSketchOp (e : Eng) (ctx : Nat) (x : Ext) (s : State) : State :=
  match tileTask s e ctx 3 with
  | none => s
  | some (t, c) =>
    let w : Who := { eng := e, task := ctx, tenant := t.q.tenant.toNat, x := x }
    let l := cbLayer t.q
    let n := min (cbCount t.q) (c.fill l / 16 - cbPos t.q)
    let bs := (List.range n).map fun i => cbPos t.q + i
    let s := updTask w.key (fun t => { t with figure := t.tally }) s
    (sketchesFrom w (cbCtx t.q) c l 0 bs (n * c.heads - t.index) t.index s).close w.key fun _ s =>
      endTask w.key 0 (match taskOf s w.key with | some t => t.tally | none => 0) s

/-- SKETCH (R196). -/
def execSketch (t : Ltc) (eng : Eng) (task : BitVec 5) (x : Ext) (s : State) : Host.Outcome State Fault Refusal :=
  .next (runSketchOp eng task.toNat x (adv t s))

end Sys2Proof.Machine
end

