-- ==== Sys2Proof/Machine/Attend.lean ====
section
/-! DEFINITION. ATTEND: selection, chunks, exact attention, the merge and the outputs; MATMUL (R201-R211). -/

namespace Sys2Proof.Machine

/-! ### Sums whose order is open (R183, R209) -/

/-- A sum of FP32 terms in an order nothing is known of: at each step two terms are replaced by their rounded sum. -/
def raceSum (race : Nat) : Nat → List Nat → Nat
  | 0, l => l.headD 0
  | f + 1, l =>
    if l.length ≤ 1 then l.headD 0
    else
      let i := Config.orderKey race (2 * f) % l.length
      let r := l.eraseIdx i
      let j := Config.orderKey race (2 * f + 1) % r.length
      raceSum race f (f32Add (l.getD i 0) (r.getD j 0) :: r.eraseIdx j)

/-- The k-th of the races of one draw. -/
def raceNo (race k : Nat) : Nat := race * 2 ^ 64 + k

/-- The sum of all of a list. -/
def sumRace (race k : Nat) (l : List Nat) : Nat := raceSum (raceNo race k) l.length l

/-- Products of two rows, each as FP32 (exact under R183), summed. -/
def dotRace (race k : Nat) (a b : List FVal) : Nat := sumRace race k ((a.zip b).map fun p => toF32 (fmul p.1 p.2))

/-! ### Selection (R201-R203) -/

/-- A query row: query head j of position p (R197). -/
def queryRow (c : SeqCtx) (q : QDesc) (a : Attend) (p j : Nat) : List FVal :=
  (spanOf (cbQ q) a.lines).row c.io ((p * c.heads * c.perKv + j) * (c.dim * c.io.bits / 8)) c.dim

/-- Blocks an ATTEND sees (R201). -/
def blocksSeen (q : QDesc) : Nat := ceilDiv (cbPos q + cbNew q) 16

/-- The forced set of variant 3. -/
def forced (q : QDesc) (b : Nat) : Bool := decide (b < cbFirst q) || decide (blocksSeen q ≤ b + cbNewest q)

/-- w_p for head h: the projected sum of its queries, through E4M3 (R202). -/
def scoreVector (c : SeqCtx) (q : QDesc) (a : Attend) (race h p : Nat) : List FVal :=
  let rows := (List.range c.perKv).map fun g => queryRow c q a p (h * c.perKv + g)
  let no (i : Nat) : Nat := ((h * 16 + p) * 64 + i) * 2048
  let qt := (List.range c.dim).map fun j => sumRace race (no 32 + j) (rows.map fun r => toF32 (r.getD j .nan))
  let w := (List.range 32).map fun i => f32 (sumRace race (no i) (projTerms c (cbLayer q) h i qt))
  let g := NumFmt.e4m3.encodeGroup w
  g.2.map fun e => fmul (NumFmt.e4m3.elem e) (scaleVal g.1)

/-- Scores as the selector compares them: a poisoned sketch (none) lies above every other, −0 and +0 are equal. -/
def scoreLess (a b : Option FVal) : Bool :=
  match a, b with
  | some x, some y => flt x y && !(match x, y with | .fin _ m _, .fin _ n _ => m = 0 && n = 0 | _, _ => false)
  | some _, none => true
  | none, _ => false

/-- The score of a candidate block for head h (R202). -/
def blockScore (c : SeqCtx) (race : Nat) (ws : List (List FVal)) (sk : Span) (h b : Nat) : Option FVal :=
  let at_ := 16 * (b * c.heads + h)
  if sk.bad at_ 16 then none
  else
    let es := NumFmt.e2m1.values (sk.num at_ 16) 0 32
    let scores := ws.zipIdx.map fun w => dotRace race (2 ^ 40 + (b * 16 + h) * 16 + w.2) w.1 es
    match scores with
    | [] => some .nan
    | x :: r => some (f32 (r.foldl f32Max x))

/-- The lowest score held; of equal ones the latest arrival. -/
def lowestHeld : List (Option FVal × Nat) → Option (Option FVal × Nat)
  | [] => none
  | x :: r =>
    match lowestHeld r with
    | none => some x
    | some y => if scoreLess x.1 y.1 then some x else some y

/-- One candidate reaches the selector, which keeps the k highest (R203). -/
def offer (k : Nat) (held : List (Option FVal × Nat)) (x : Option FVal × Nat) : List (Option FVal × Nat) :=
  if held.length < k then held ++ [x]
  else
    match lowestHeld held with
    | none => held
    | some low => if scoreLess low.1 x.1 then held.erase low ++ [x] else held

/-- The blocks variant 3 selects for head h, ascending (R201-R203): scores arrive in any order. -/
def selectBlocks (c : SeqCtx) (q : QDesc) (a : Attend) (race : Nat) (sk : Span) (h : Nat) : List Nat :=
  let nb := blocksSeen q
  if nb ≤ cbKsel q then List.range nb
  else
    let fs := (List.range nb).filter (forced q)
    let ws := (List.range (cbNew q)).map (scoreVector c q a race h)
    let cands := sortBy (Config.orderKey (raceNo race (2 ^ 50 + h))) ((List.range nb).filter fun b => !forced q b)
    let held := cands.foldl (fun l b => offer (cbKsel q - fs.length) l (blockScore c race ws sk h b, b)) []
    (List.range nb).filter fun b => forced q b || held.any fun x => x.2 = b

/-- The blocks of variants 1 and 2 (R204). -/
def plainBlocks (q : QDesc) : List Nat :=
  let nb := blocksSeen q
  if cbVariant q = 1 then List.range nb
  else
    let lo := (cbPos q + 1 - cbCount q) / 16
    (List.range nb).filter fun b => decide (b < cbFirst q) || decide (lo ≤ b)

/-- Stage 3: the attended blocks of each head (R201, R204); scored candidates are counted. -/
def selectStage (w : Who) (q : QDesc) (c : SeqCtx) (s : State) : Acc Unit :=
  let nb := blocksSeen q
  if cbVariant q ≠ 3 then
    .ok () (setArea w.key { areaOf s w.key with attended := (List.range c.heads).map fun _ => plainBlocks q } s)
  else if nb ≤ cbKsel q then
    .ok () (setArea w.key { areaOf s w.key with attended := (List.range c.heads).map fun _ => List.range nb } s)
  else
    let n := 16 * nb * c.heads
    (readSpan w (sketchVa c (cbLayer q) 0 0) n s).bind fun sk s =>
      let d := draw s
      let a := areaOf d.2 w.key
      let sel := (List.range c.heads).map (selectBlocks c q a d.1 sk)
      let cands := ((List.range nb).filter fun b => !forced q b).length * c.heads
      let s := markPoison w.key (sk.bad 0 n) (countEv w.eng.cl 0x035 w.tenant cands d.2)
      .ok () (setArea w.key { a with attended := sel } s)

/-! ### Chunks (R205) -/

/-- The addresses of blocks are read from the table, one entry at a time (R192). -/
def readAddrs (w : Who) (q : QDesc) (c : SeqCtx) : List Nat → State → Acc Unit
  | [], s => .ok () s
  | b :: r, s =>
    (blockAddr w c (cbLayer q) b s).bind fun va s =>
      let a := areaOf s w.key
      readAddrs w q c r (setArea w.key { a with addrs := a.addrs.put b va } s)

/-- A list cut into pieces of k. -/
def cutEvery {α : Type} (k : Nat) : Nat → List α → List (List α)
  | 0, _ => []
  | _, [] => []
  | f + 1, l => l.take k :: cutEvery k f (l.drop k)

/-- The chunks of an ATTEND: ascending blocks of one head each (R205). -/
def attendChunks (key : Nat) (q : QDesc) (a : Attend) : List Chunk :=
  a.attended.zipIdx.flatMap fun h => (cutEvery (max 1 (cbChunk q)) h.1.length h.1).map fun bs =>
    { parent := key, head := h.2, blocks := bs.map fun b => (b, a.addrs.get 0 b) }

/-- The chunk queue of a part-wide cluster. -/
def chunkqOf (s : State) (cl : Nat) : List Chunk := s.cru.chunkq.get [] cl
def setChunkq (cl : Nat) (l : List Chunk) (s : State) : State := { s with cru := { s.cru with chunkq := s.cru.chunkq.set [] cl l } }

/-- A parent posts as many of its chunks as the queue of 64 takes (R205). -/
def postChunks (cl key : Nat) (s : State) : State :=
  let a := areaOf s key
  let l := chunkqOf s cl
  let k := min a.own.length (64 - l.length)
  if k = 0 then s
  else bumpBy (setArea key { a with own := a.own.drop k } (setChunkq cl (l ++ a.own.take k) s)) Fld.CRU_STATUS_CHUNKS_POSTED k

/-- Parents of a cluster that still have chunks to post, in the order they began. -/
def postingParents (s : State) (cl : Nat) : List Nat :=
  let l := s.cru.areas.filter fun e => !e.2.own.isEmpty && keyCluster e.1 = cl
  (sortBy (fun e => match taskOf s e.1 with | some t => t.order | none => 0) l).map Prod.fst

/-- Room in a cluster's queue goes to the parents that have chunks to post. -/
def topUp (cl : Nat) (s : State) : State := (postingParents s cl).foldl (fun s k => postChunks cl k s) s

/-- Chunks are formed and posted; the parent waits for them. -/
def startChunks (key cl : Nat) (cs : List Chunk) (s : State) : State :=
  let s := setArea key { areaOf s key with own := cs, chunks := cs.length, left := cs.length } s
  topUp cl (setTaskState key .wait s)

/-- The heads whose queries or new rows hold poison (R208). -/
def poisonedHeads (c : SeqCtx) (q : QDesc) (a : Attend) : List Nat :=
  let qs := spanOf (cbQ q) a.lines
  let ns := newsSpan q a
  let qb := c.dim * c.io.bits / 8
  (List.range c.heads).filter fun h =>
    (List.range (cbNew q)).any fun p =>
      qs.bad ((p * c.heads + h) * c.perKv * qb) (c.perKv * qb) ||
        ns.bad (p * c.tokenBytes + h * (c.tokenBytes / c.heads)) (c.tokenBytes / c.heads)

/-- Stage 0 of an ATTEND reads the queries beside the new keys and values. -/
def readQueries (w : Who) (q : QDesc) (c : SeqCtx) (s : State) : Acc Unit :=
  let n := queryBytes c q
  (readLinesVa w (spanLines (cbQ q) n) (cbQ q) s).bind fun ls s =>
    let s := markPoison w.key ((spanOf (cbQ q) ls).bad 0 n) s
    .ok () (setArea w.key { areaOf s w.key with lines := ls } s)

/-- The rows of the merge accumulators at their start (R207). -/
def emptyRow (c : SeqCtx) : MergeRow := { m := f32NegInf, l := 0, o := List.replicate c.vdim 0 }

/-- Blocks of every head, each once. -/
def blocksNeeded (a : Attend) : List Nat := a.attended.flatten.eraseDups

/-- Stage 4: block addresses, then chunks. -/
def postStage (w : Who) (q : QDesc) (c : SeqCtx) (s : State) : Acc Unit :=
  (readAddrs w q c (blocksNeeded (areaOf s w.key)) s).bind fun _ s =>
    let a := areaOf s w.key
    let s := setArea w.key { a with poisoned := poisonedHeads c q a, rows := List.replicate (attendRows c q) (emptyRow c) } s
    .ok () (startChunks w.key w.eng.cl (attendChunks w.key q a) (setStage w.key 5 0 s))

/-- ATTEND runs from the stage reached: queries, append, sketches, selection, chunks (R196-R205). -/
def attendStages (w : Who) (c : SeqCtx) (t : Task) (s : State) : Acc Unit :=
  let q := t.q
  let first := if t.stage = 0 then readQueries w q c s else .ok () s
  let mid := first.bind fun _ s =>
    if t.stage ≤ 2 then (runAppend w q c t s).bind fun _ s => .ok () (setStage w.key 3 0 s) else .ok () s
  let sel := mid.bind fun _ s =>
    if t.stage ≤ 3 then (selectStage w q ((ctxOf s (cbCtx q)).getD c) s).bind fun _ s => .ok () (setStage w.key 4 0 s) else .ok () s
  sel.bind fun _ s => if t.stage ≤ 4 then postStage w q c s else .ok () s

/-- ATTEND (R196). -/
def runAttend (e : Eng) (ctx : Nat) (x : Ext) (s : State) : State :=
  match tileTask s e ctx 1 with
  | none => s
  | some (t, c) =>
    let w : Who := { eng := e, task := ctx, tenant := t.q.tenant.toNat, x := x }
    if 5 ≤ t.stage then s else (attendStages w c t s).close w.key fun _ s => s

/-- ATTEND (R196). -/
def execAttend (t : Ltc) (eng : Eng) (task : BitVec 5) (x : Ext) (s : State) : Host.Outcome State Fault Refusal :=
  .next (runAttend eng task.toNat x (adv t s))

/-! ### One chunk (R204, R206) -/

/-- A token of an attended block as a chunk sees it: its position, key row, value row. -/
structure Token where
  pos : Nat
  key : List FVal
  val : List FVal

/-- A token is visible to the query at position p (R204); a leading block of variant 2 is attended whole. -/
def visible (q : QDesc) (p t : Nat) : Bool :=
  decide (t ≤ p) && (cbVariant q ≠ 2 || decide (t / 16 < cbFirst q) || decide (p + 1 ≤ t + cbCount q))

/-- The tokens of a block of head h from a span of its part of the block. -/
def blockTokens (c : SeqCtx) (b : Nat) (p : Span) : List Token :=
  (List.range 16).map fun r =>
    let key := p.row c.kv (r * c.rowBytes) c.dim
    { pos := 16 * b + r, key := key,
      val := if c.latent then key.take c.vdim else p.row c.kv ((16 + r) * c.rowBytes) c.dim }

/-- Any row of a block that some query can see is poison. -/
def blockPoison (c : SeqCtx) (q : QDesc) (b : Nat) (p : Span) : Bool :=
  (List.range 16).any fun r =>
    decide (16 * b + r < cbPos q + cbNew q) &&
      (p.bad (r * c.rowBytes) c.rowBytes || (!c.latent && p.bad ((16 + r) * c.rowBytes) c.rowBytes))

/-- The blocks of a chunk are read: tokens, and whether poison was met. -/
def readBlocks (w : Who) (q : QDesc) (c : SeqCtx) (h : Nat) : List (Nat × Nat) → State → Acc (List Token × Bool)
  | [], s => .ok ([], false) s
  | (b, va) :: r, s =>
    (readSpan w (va + (if c.latent then 0 else h * c.headBytes)) c.headBytes s).bind fun p s =>
      (readBlocks w q c h r s).bind fun x s => .ok (blockTokens c b p ++ x.1, blockPoison c q b p || x.2) s

/-- Weights rounded for the product with the values: E4M3 with one scale per 32 tokens, or BF16 (R206). -/
def roundWeights (f : NumFmt) (ws : List Nat) : List FVal :=
  if f = .bf16 then ws.map fun x => bf16 (toBf16 (f32 x))
  else (groupsOf32 ws.length ws).flatMap fun g =>
    let e := NumFmt.e4m3.encodeGroup (g.map f32)
    e.2.map fun x => fmul (NumFmt.e4m3.elem x) (scaleVal e.1)

/-- One row of a partial (R206). -/
def chunkRow (c : SeqCtx) (q : QDesc) (race id p : Nat) (query : List FVal) (ts : List Token) : MergeRow :=
  let base := id * 2 ^ 20
  let seen := ts.zipIdx.filter fun t => visible q p t.1.pos
  if seen.isEmpty then emptyRow c
  else
    let score (t : Token × Nat) : Nat := f32Mul (dotRace race (base + t.2) query t.1.key) c.softmax
    let ss := seen.map fun t => (t.2, score t)
    let m := (ss.map Prod.snd).foldl f32Max f32NegInf
    let weight (i : Nat) : Nat := match ss.find? fun x => x.1 = i with
      | some x => vecExp (f32Add x.2 (f32Neg m))
      | none => 0
    let es := (List.range ts.length).map weight
    let l := sumRace race (base + 2 ^ 16) (ss.map fun x => es.getD x.1 0)
    let rw := roundWeights c.kv es
    let o := (List.range c.vdim).map fun j =>
      sumRace race (base + 2 ^ 17 + j) (seen.map fun t => toF32 (fmul (rw.getD t.2 .nan) (t.1.val.getD j .nan)))
    let bad := ss.any (fun x => f32NotFinite x.2) || f32NotFinite l || o.any f32NotFinite
    { m := m, l := l, o := o, bad := bad }

/-- The rows of a chunk: every position and query head of its head, in that order. -/
def chunkRows (c : SeqCtx) (q : QDesc) (a : Attend) (race h : Nat) (ts : List Token) : List MergeRow :=
  (List.range (cbNew q)).flatMap fun p => (List.range c.perKv).map fun g =>
    chunkRow c q race (p * c.perKv + g) (cbPos q + p) (queryRow c q a p (h * c.perKv + g)) ts

/-- A chunk that has ended leaves its tile. -/
def dropTask (key : Nat) (s : State) : State := { s with eng := { s.eng with tasks := s.eng.tasks.del key } }

/-- A chunk of an ATTEND is computed and its partial sent to the parent (R206). -/
def runAttendChunk (w : Who) (p : Task) (c : SeqCtx) (k : Chunk) (s : State) : Acc Unit :=
  (readBlocks w p.q c k.head k.blocks s).bind fun x s =>
    let d := draw s
    let rows := chunkRows c p.q (areaOf d.2 k.parent) d.1 k.head x.1
    let out : Partial := { parent := k.parent, unit := w.eng.unit, head := k.head, rows := rows, poison := x.2 }
    .ok () { d.2 with cru := { d.2.cru with partials := d.2.cru.partials ++ [out] } }

/-! ### MATMUL (R210, R211) -/

/-- The element formats of A and B. -/
def mmFmt (code : Nat) : NumFmt := match code with | 1 => .e2m1 | 2 => .e4m3 | 3 => .e5m2 | 4 => .bf16 | _ => .int8

/-- Row i of an operand in a span, K elements; MXFP4 scales follow the elements (R210). -/
def mmRow (code k : Nat) (p : Span) (i : Nat) : List FVal :=
  let at_ := i * mmStride code k
  let f := mmFmt code
  if code = 1 then
    let data := p.num at_ (k / 2)
    let scales := p.num (at_ + k / 2) (k / 32)
    (List.range k).map fun j => fmul (f.elem (bitsOf data (4 * j) 4)) (scaleVal (bitsOf scales (8 * (j / 32)) 8))
  else p.row f at_ k

/-- The words of row i hold poison. -/
def mmRowBad (code k : Nat) (p : Span) (i : Nat) : Bool := p.bad (i * mmStride code k) (mmRowBytes code k)

/-- A sum of INT8 products, exact and then rounded to FP32 (R182). -/
def intDot (a b : List FVal) : Nat :=
  toF32 ((a.zip b).foldl (fun acc p => fadd acc (fmul p.1 p.2)) (.fin false 0 0))

/-- One element of A·Bᵀ. -/
def mmDot (q : QDesc) (race id : Nat) (a b : List FVal) : Nat := if mmBfmt q = 5 then intDot a b else dotRace race id a b

/-- The pieces of a chunk's output: rows of C cut at lines, as (row, first column, columns). -/
def mmPieces (q : QDesc) (k : Chunk) : List (Nat × Nat × Nat) :=
  let per := 64 / mmCbytes q
  let lo := k.first / per
  let hi := (k.first + k.rows + per - 1) / per
  (List.range (mmM q)).flatMap fun i => (List.range (hi - lo)).map fun j =>
    let c0 := max k.first ((lo + j) * per)
    (i, c0, min (k.first + k.rows) ((lo + j + 1) * per) - c0)

/-- Columns col.. of a group of 32 as MXFP8 elements and their words' metadata bits, as (width, bits): a group of which a chunk
holds only half has an open scale and open elements. -/
def mmGroup (open_ col : Nat) (vs : List Nat) : (Nat × Nat) × (Nat × Nat) :=
  let n := vs.length
  if n = 32 then
    let r := NumFmt.e4m3.encodeRow (vs.map f32)
    ((8 * n, r.1), (n / 4, r.2))
  else
    let x := open_ / 2 ^ (col % 64 * 10)
    ((8 * n, x % 2 ^ (8 * n)), (n / 4, x / 2 ^ (8 * n) % 2 ^ (n / 4)))

/-- Values from column col cut where groups of 32 columns begin; fuel bounds their number. -/
def cutGroups : Nat → Nat → List Nat → List (Nat × List Nat)
  | 0, _, _ => []
  | _, _, [] => []
  | f + 1, col, vs =>
    let k := 32 - col % 32
    (col, vs.take k) :: cutGroups f (col + k) (vs.drop k)

/-- Columns of C from column col as bytes: FP32, BF16, or MXFP8 by groups of 32. -/
def mmOut (q : QDesc) (col : Nat) (open_ : Nat) (vs : List Nat) : Nat × Nat :=
  match mmCfmt q with
  | 0 => NumFmt.fp32.encodeRow (vs.map f32)
  | 1 => NumFmt.bf16.encodeRow (vs.map f32)
  | _ =>
    let gs := (cutGroups vs.length col vs).map fun g => mmGroup open_ g.1 g.2
    (packBits (gs.map (·.1)), packBits (gs.map (·.2)))

/-- One piece of C: with ACCUM its old elements are read and added (R210); poison in what it is computed from makes poison. -/
def mmPiece (w : Who) (q : QDesc) (a b : Span) (k : Chunk) (race j : Nat) (x : Nat × Nat × Nat) (s : State) : Acc Unit :=
  let el := mmCbytes q
  let va := mmC q + x.1 * mmCstride q + x.2.1 * el
  let n := x.2.2
  let sums := (List.range n).map fun i =>
    mmDot q race (j * 64 + i) (mmRow (mmAfmt q) (mmK q) a x.1) (mmRow (mmBfmt q) (mmK q) b (x.2.1 - k.first + i))
  let bad := (List.range n).map fun i =>
    mmRowBad (mmAfmt q) (mmK q) a x.1 || mmRowBad (mmBfmt q) (mmK q) b (x.2.1 - k.first + i)
  (if mmAccum q then readSpan w va (n * el) s else .ok { off := 0, data := 0, md := 0, poison := 0 } s).bind fun old s =>
    let vs := if mmAccum q then sums.zipIdx.map fun v => f32Add (old.num (4 * v.2) 4) v.1 else sums
    let d := draw s
    let out := mmOut q x.2.1 d.1 vs
    let oldBad (i : Nat) : Bool := mmAccum q && old.bad (8 * i) 8
    let marks := maskOf (n * el / 8) fun i => (List.range (8 / el)).any (fun e => bad.getD (8 / el * i + e) false) || oldBad i
    let s := markPoison w.key (marks ≠ 0) d.2
    (writeSpan w va (n * el) { data := out.1, md := out.2, poison := marks } s).bind fun _ s =>
      .ok () (updTask k.parent (fun t => { t with tally := t.tally + n * el, figure := t.tally + n * el }) s)

/-- Pieces of a chunk from the one reached. -/
def mmPiecesFrom (w : Who) (q : QDesc) (a b : Span) (k : Chunk) (race : Nat) : List (Nat × Nat × Nat) → Nat → State → Acc Unit
  | [], _, s => .ok () s
  | x :: r, j, s =>
    (mmPiece w q a b k race j x s).bind fun _ s =>
      mmPiecesFrom w q a b k race r (j + 1) (updTask w.key (fun t => { t with prog := j + 1 }) s)

/-- A chunk of a MATMUL: its rows of B are read and its columns of C written (R211). -/
def runMatmulChunk (w : Who) (t p : Task) (k : Chunk) (s : State) : Acc Unit :=
  let q := p.q
  let st := mmStride (mmBfmt q) (mmK q)
  (readSpan w (mmB q + k.first * st) (k.rows * st) s).bind fun b s =>
    let d := draw s
    (mmPiecesFrom w q (spanOf (mmA q) (areaOf d.2 k.parent).lines) b k d.1 ((mmPieces q k).drop t.prog) t.prog d.2)

/-- The chunks of a MATMUL (R211). -/
def matmulChunks (key : Nat) (q : QDesc) : List Chunk :=
  (List.range (ceilDiv (mmN q) (mmChunk q))).map fun i =>
    { parent := key, first := i * mmChunk q, rows := min (mmChunk q) (mmN q - i * mmChunk q) }

/-- MATMUL: the parent reads A and posts the chunks (R211). -/
def runMatmul (e : Eng) (ctx : Nat) (x : Ext) (s : State) : State :=
  match readyTask s e ctx 0 4 with
  | none => s
  | some t =>
    let w : Who := { eng := e, task := ctx, tenant := t.q.tenant.toNat, x := x }
    let n := matmulArea t.q
    (readLinesVa w (n / 64) (mmA t.q) s).close w.key fun ls s =>
      let s := markPoison w.key (linesPoison ls ≠ 0) (setArea w.key { areaOf s w.key with lines := ls } s)
      startChunks w.key e.cl (matmulChunks w.key t.q) s

/-- MATMUL (R211). -/
def execMatmul (t : Ltc) (eng : Eng) (task : BitVec 5) (x : Ext) (s : State) : Host.Outcome State Fault Refusal :=
  .next (runMatmul eng task.toNat x (adv t s))

/-! ### CHUNK_TAKE (R205) -/

/-- A chunk's remote failure ends its descriptor with that status; its other chunks go (R205). -/
def chunkFails (k : Chunk) (status : Nat) (s : State) : State :=
  let fig := match taskOf s k.parent with | some p => p.figure | none => 0
  let s := { s with eng := { s.eng with tasks := s.eng.tasks.keep fun _ t =>
    match t.chunk with | some d => d.parent ≠ k.parent | none => true } }
  let s := { s with cru := { s.cru with
      chunkq := (s.cru.chunkq.mapVals fun _ l => l.filter fun d => d.parent ≠ k.parent).keep fun _ l => !l.isEmpty
      partials := s.cru.partials.filter fun d => d.parent ≠ k.parent
      areas := s.cru.areas.upd k.parent fun a => { a with own := [] } } }
  endTask k.parent status fig s

/-- The last chunk of a MATMUL has come back: the descriptor is done (R211). -/
def matmulChunkDone (k : Chunk) (p : Task) (s : State) : State :=
  let a := areaOf s k.parent
  let s := setArea k.parent { a with left := a.left - 1 } s
  if a.left ≤ 1 then endTask k.parent 0 (mmM p.q * mmN p.q * mmCbytes p.q) s else s

/-- A tile runs a chunk it has taken, from where it is. -/
def runChunk (w : Who) (t : Task) (k : Chunk) (s : State) : State :=
  match taskOf s k.parent with
  | none => dropTask w.key s
  | some p =>
    let poisoned (s : State) : Bool := match taskOf s w.key with | some t => t.poison | none => false
    let r := if p.q.op = 4 then runMatmulChunk w t p k s
      else match ctxOf s (cbCtx p.q) with
        | some c => runAttendChunk w p c k s
        | none => .ok () s
    match r with
    | .ok _ s =>
      let s := dropTask w.key (markPoison k.parent (poisoned s) s)
      if p.q.op = 4 then matmulChunkDone k p s else s
    | .park s => s
    | .busy s => s
    | .fail c s => chunkFails k c s

/-- Chunk tasks of a tile. -/
def chunkTasks (s : State) (e : Nat) : Tab Task := (tasksOn s e).keep fun _ t => t.chunk.isSome

/-- The parents on a tile that have chunks they could not post. -/
def ownChunk (s : State) (e : Nat) : Option (Nat × Chunk) :=
  (s.cru.areas.find? fun a => a.1 / 32 = e && !a.2.own.isEmpty).bind fun a => a.2.own.head?.map fun k => (a.1, k)

/-- The oldest chunk of the queue that a tile may take: in partition mode one of its own tenant (R205). -/
def takeable (s : State) (e : Eng) : Option Chunk :=
  match (chunkqOf s e.cl).head? with
  | none => none
  | some k =>
    match taskOf s k.parent with
    | some p => if mayServe s e.die e.cluster 0 p.q.tenant.toNat then some k else none
    | none => some k

/-- A tile begins a chunk in a task context of its own. -/
def beginChunk (e : Eng) (x : Ext) (ctx : Nat) (k : Chunk) (event : Nat) (s : State) : State :=
  match taskOf s k.parent with
  | none => s
  | some p =>
    let a := nextAge s
    let w : Who := { eng := e, task := ctx, tenant := p.q.tenant.toNat, x := x }
    let t : Task := { q := p.q, began := after s 0, order := a.1, chunk := some k }
    let s := countEv e.cl event p.q.tenant.toNat 1 (putTask w.key t a.2)
    topUp e.cl (runChunk w t k s)

/-- CHUNK_TAKE (R205): a chunk the tile already holds goes on; else one the parent must run itself; else the queue's oldest. -/
def chunkTake (e : Eng) (x : Ext) (s : State) : State :=
  let s := topUp e.cl s
  let code := e.toNat
  let mine := chunkTasks s code
  match mine.find? fun t => t.2.st = .ready with
  | some (key, t) =>
    match t.chunk with
    | some k => topUp e.cl (runChunk { eng := e, task := key % 32, tenant := t.q.tenant.toNat, x := x } t k s)
    | none => s
  | none =>
    if e.group ≠ 0 || !engPresent s e || decide (2 ≤ mine.length) then s
    else
      match freeCtx s code with
      | none => s
      | some ctx =>
        match ownChunk s code with
        | some (key, k) =>
          let a := areaOf s key
          let s := bump (setArea key { a with own := a.own.drop 1 } s) Fld.CRU_STATUS_CHUNKS_BY_PARENT
          beginChunk e x ctx k 0x034 s
        | none =>
          if !engEnabled s e.die e.cluster 0 e.unit then s
          else
            match takeable s e with
            | none => s
            | some k => beginChunk e x ctx k 0x033 (setChunkq e.cl ((chunkqOf s e.cl).drop 1) s)

/-- CHUNK_TAKE (R205). -/
def execChunkTake (t : Ltc) (eng : Eng) (x : Ext) (s : State) : Host.Outcome State Fault Refusal :=
  .next (awake eng (chunkTake eng x) (adv t s))

/-! ### The merge and the outputs (R207, R208) -/

/-- One row of a partial merged into its accumulator (R207). -/
def mergeRow (a b : MergeRow) : MergeRow :=
  let bad := a.bad || b.bad
  if b.m = f32NegInf then { a with bad := bad }
  else if a.m = f32NegInf then { b with bad := bad }
  else
    let m := f32Max a.m b.m
    let ea := vecExp (f32Add a.m (f32Neg m))
    let eb := vecExp (f32Add b.m (f32Neg m))
    let mix (x y : Nat) : Nat := f32Add (f32Mul x ea) (f32Mul y eb)
    { m := m, l := mix a.l b.l, o := (a.o.zip b.o).map fun p => mix p.1 p.2, bad := bad }

/-- A partial merged into the accumulators of its head's rows. -/
def mergePartial (c : SeqCtx) (p : Partial) (rows : List MergeRow) : List MergeRow :=
  rows.zipIdx.map fun r =>
    let j := r.2 % (c.heads * c.perKv)
    if j / c.perKv = p.head then
      mergeRow r.1 (p.rows.getD (r.2 / (c.heads * c.perKv) * c.perKv + j % c.perKv) (emptyRow c))
    else r.1

/-- A row is written as NaN (R207). -/
def MergeRow.isBad (r : MergeRow) : Bool := r.bad || f32NotFinite r.l || r.o.any f32NotFinite

/-- The output elements of a finished row. -/
def MergeRow.out (r : MergeRow) : List FVal :=
  if r.isBad then r.o.map fun _ => .nan else r.o.map fun x => f32 (f32Div x r.l)

/-- Whether a row belongs to a poisoned head. -/
def rowPoisoned (c : SeqCtx) (a : Attend) (r : Nat) : Bool := a.poisoned.contains (r % (c.heads * c.perKv) / c.perKv)

/-- Output rows from the one reached on (R207, R208). -/
def outputsFrom (w : Who) (q : QDesc) (c : SeqCtx) : Nat → Nat → State → Acc Unit
  | 0, _, s => .ok () s
  | f + 1, i, s =>
    let a := areaOf s w.key
    let r := a.rows.getD i (emptyRow c)
    let n := c.vdim * c.io.bits / 8
    let e := c.io.encodeRow r.out
    let marks := if rowPoisoned c a i then 2 ^ ceilDiv ((cbOut q + i * n) % 8 + n) 8 - 1 else 0
    (writeSpan w (cbOut q + i * n) n { data := e.1, md := e.2, poison := marks } s).bind fun _ s =>
      let a := areaOf s w.key
      let s := setArea w.key { a with nan := a.nan + b2n r.isBad } s
      let s := if r.isBad then bump s Fld.CRU_STATUS2_NAN_ROWS else s
      let s := updTask w.key (fun t => { t with figure := seqFigure s q 2 }) s
      outputsFrom w q c f (i + 1) (setStage w.key 6 (i + 1) s)

/-- LSE of a row: m + ln(l); of a NaN row it is open. -/
def rowLse (r : MergeRow) (s : State) : Nat × State :=
  if r.isBad then
    let d := draw s
    (d.1 % 2 ^ 32, d.2)
  else (f32Add r.m (vecLn r.l), s)

/-- The LSE values of rows. -/
def lseValues : List MergeRow → State → List Nat × State
  | [], s => ([], s)
  | r :: rest, s =>
    let x := rowLse r s
    let y := lseValues rest x.2
    (x.1 :: y.1, y.2)

/-- The LSE values are written, where LSE_VA names a place; those of poisoned heads as poison (R207, R208). -/
def writeLse (w : Who) (q : QDesc) (c : SeqCtx) (s : State) : Acc Unit :=
  if cbLse q = 0 then .ok () s
  else
    let a := areaOf s w.key
    let v := lseValues a.rows s
    let n := 4 * a.rows.length
    let lead := cbLse q % 8 / 4
    let marks := maskOf (ceilDiv (4 * lead + n) 8) fun i =>
      (List.range 2).any fun k => decide (lead ≤ 2 * i + k) && decide (2 * i + k - lead < a.rows.length) &&
        rowPoisoned c a (2 * i + k - lead)
    writeSpan w (cbLse q) n { data := packBits (v.1.map fun x => (32, x)), poison := marks } v.2

/-- A number in a field of RESULT; what the field shows of one it cannot hold is open. -/
def fitField (n w : Nat) (s : State) : Nat × State :=
  if n < 2 ^ w then (n, s)
  else
    let d := draw s
    (d.1 % 2 ^ w, d.2)

/-- RESULT of an ATTEND (R196). -/
def attendResult (q : QDesc) (a : Attend) (s : State) : Nat × State :=
  let pairs := fitField (a.attended.foldl (fun n l => n + l.length) 0) 16 s
  let chunks := fitField a.chunks 8 pairs.2
  (packBits [(32, seqFigure s q 0), (16, pairs.1), (8, chunks.1), (8, min 255 a.nan)], chunks.2)

/-- The rows are finished: outputs, LSE, status and RESULT (R207). -/
def finishAttend (w : Who) (t : Task) (c : SeqCtx) (s : State) : State :=
  let a := areaOf s w.key
  let s := markPoison w.key (!a.poisoned.isEmpty) (setTaskState w.key .ready s)
  let i := if t.stage = 6 then t.index else 0
  let r := (outputsFrom w t.q c (a.rows.length - i) i s).bind fun _ s => writeLse w t.q c s
  r.close w.key fun _ s =>
    let v := attendResult t.q (areaOf s w.key) s
    endTask w.key 0 v.1 v.2

/-- PARTIAL_MERGE (R207): the next partial of a parent is merged; after the last its rows are finished. -/
def partialMerge (e : Eng) (ctx : Nat) (x : Ext) (s : State) : State :=
  let key := taskKey e.toNat ctx
  match taskOf s key with
  | none => s
  | some t =>
    match ctxOf s (cbCtx t.q) with
    | none => s
    | some c =>
      let w : Who := { eng := e, task := ctx, tenant := t.q.tenant.toNat, x := x }
      if t.chunk.isSome || t.recorded.isSome || t.q.op ≠ 1 || decide (t.stage < 5) || e.group ≠ 0 then s
      else
        let a := areaOf s key
        if t.st = .wait then
          match s.cru.partials.find? fun p => p.parent = key with
          | none => s
          | some p =>
            let bad := if p.poison && !a.poisoned.contains p.head then a.poisoned ++ [p.head] else a.poisoned
            let s := { s with cru := { s.cru with partials := s.cru.partials.erase p } }
            let s := setArea key { a with rows := mergePartial c p a.rows, left := a.left - 1, poisoned := bad } s
            if a.left ≤ 1 then finishAttend w t c s else s
        else if t.st = .ready && a.left = 0 then finishAttend w t c s
        else s

/-- PARTIAL_MERGE (R207). -/
def execPartialMerge (t : Ltc) (eng : Eng) (task : BitVec 5) (x : Ext) (s : State) : Host.Outcome State Fault Refusal :=
  .next (partialMerge eng task.toNat x (adv t s))

end Sys2Proof.Machine
end

