-- ==== Sys2Proof/Machine/Mem.lean ====
section
/-! DEFINITION. Memory controllers: request order, refresh, self-refresh (R75-R80), and the access counters with their reports
(R94-R97). -/

namespace Sys2Proof.Machine

/-! ### Controllers -/

/-- The number of a controller: pseudo-channels 0..383, DDR channels from 384. -/
def unitNum : MemUnit → Nat
  | .stack n => n.toNat
  | .ddr n => 384 + n.toNat

/-- A controller is one of the part's that runs: a pseudo-channel it has, or a populated channel of a ready far tier. -/
def unitExists (s : State) : MemUnit → Bool
  | .stack n => decide (n.toNat < 192 * dies s)
  | .ddr n =>
    rd s Fld.MEM_CONFIG_FAR_STATE = 2 &&
      (farChannels s = 12 && decide (n.toNat < 12) || farChannels s = 6 && decide (n.toNat < 9 ∧ n.toNat % 6 < 3))

/-- The array of a controller. -/
def unitArr : MemUnit → Arr
  | .stack _ => .stack
  | .ddr _ => .far

/-- The die of a controller, in reports and counters: a DDR channel counts for its fabric die's number. -/
def unitDie : MemUnit → Nat
  | .stack n => n.toNat / 192
  | .ddr n => n.toNat / 6

/-- Replaces the state of a controller. -/
def setUnit (k : Nat) (u : MUnit) (s : State) : State := { s with mem := { s.mem with units := s.mem.units.set {} k u } }
def unitOf (s : State) (k : Nat) : MUnit := s.mem.units.get {} k

/-- Bank and row of a line at a controller. A DDR channel's offset runs, from low bits to high, over 13 column bits, 3 bits of bank
group, 2 of bank, 1 of rank and the row; the group is exchanged with the row's low bits (R73, whose widths are those of log
entry 30). -/
def bankRow (s : State) (a : Arr) (addr : Nat) : Nat × Nat :=
  match a with
  | .far =>
    let co := farOffsetOf s addr
    let row := co / 2 ^ 19
    ((bitsOf co 13 3 ^^^ row % 8) + 8 * bitsOf co 16 3, row)
  | _ => let p := placeOf s addr; (bankOf p.pco, rowOf p.pco)

/-- Queue entries of one kind, the marks between which writes are drained, and the age limit of 640 ns (R75). -/
def queueCap (k : Nat) : Nat := if k < 384 then 32 else 64
def drainMarks (k : Nat) : Nat × Nat := if k < 384 then (24, 8) else (48, 16)
def ageLimit : Nat := 640

/-! ### Refresh (R78) -/

/-- tREFI: halved while the die's stacks report more than 85 °C; for the far tier the hottest stack tells (R78, log entry 30). -/
def tRefi (s : State) (k : Nat) : Nat :=
  let temp := if k < 384 then (s.pwr.temps.get (0, 0) (k / 192)).2 else rd s Fld.PWR_THERMAL_T_STACK_MAX
  if 85 < temp then 1950 else 3900

/-- The refreshes of a bank are counted under this number: same-bank refresh of a DDR channel reaches the bank in each of the 8
bank groups of its rank. -/
def refreshUnit (k bank : Nat) : Nat := if k < 384 then bank else bank / 8

/-- The time up to which a bank was refreshed. -/
def refreshedTo (u : MUnit) (n : Nat) : Nat := ((u.refs.find n).getD u.refBase).toNat

/-- Refreshes a bank owes, at most 8. -/
def owed (s : State) (k bank : Nat) : Nat :=
  min 8 ((now s - refreshedTo (unitOf s k) (refreshUnit k bank)) / tRefi s k)

/-- The banks a refresh of a bank reaches. -/
def refreshBanks (k bank : Nat) : List Nat := if k < 384 then [bank] else (List.range 8).map fun g => bank / 8 * 8 + g

/-- A bank gets one of the refreshes it owes: its rows close, and it serves no request for 200 ns. What has passed of the next
tREFI is kept. -/
def refreshBank (k bank : Nat) (s : State) : State :=
  let u := unitOf s k
  let n := refreshUnit k bank
  let frac := (now s - refreshedTo u n) % tRefi s k
  let bs := refreshBanks k bank
  setUnit k { u with
    refs := u.refs.put n (BitVec.ofNat 64 (now s - ((owed s k bank - 1) * tRefi s k + frac)))
    rows := u.rows.keep fun b _ => !bs.contains b
    busy := bs.foldl (fun t b => t.put b (after s 200)) (u.busy.keep fun _ e => decide (now s < e.toNat)) } s

/-- Banks with queued requests that owe 8 refreshes are refreshed before those requests (R77, R78). -/
def refreshFirst (k : Nat) (s : State) : State :=
  (unitOf s k).queue.foldl (fun s r => if owed s k r.bank = 8 then refreshBank k r.bank s else s) s

/-! ### Leaving the queue (R75, R76)

Which request issues next follows R75 and R76 within a bank; which bank goes next, and how many requests have issued by a later
time, is left open and drawn. -/

/-- The bank of a request must issue in order. -/
def MUnit.ordered (u : MUnit) (b : Nat) : Bool := (u.inorder.find b).isSome

/-! In partition mode a controller runs frames of 16 turns of 64 of its cycles (R351). -/

/-- The number of a controller's turn at a time: MCLK has 40 ns in 64 cycles, DCLK 64 ns. -/
def turnNo (k time : Nat) : Nat := (time + Config.turnPhase k) / (if k < 384 then 40 else 64)

/-- The owners of the turns since a controller's queue was last looked at; none for a shared one. -/
def turnsSince (s : State) (k : Nat) : List (Option Nat) :=
  let owners := turnOwners s
  let first := turnNo k (unitOf s k).last.toNat
  (List.range (min 16 (turnNo k (now s) + 1 - first))).map fun i => owners[(first + i) % 16]?

/-- A request may issue in one of the turns since then: every one in a shared turn, the owner's alone in another. -/
def mayTurn (s : State) (k : Nat) (r : QReq) : Bool :=
  (turnOwners s).isEmpty || (turnsSince s k).any fun o => o.all fun t => t = r.tenant

/-- Every turn ends with all banks precharged. -/
def endTurns (k : Nat) (s : State) : State :=
  let u := unitOf s k
  if (turnOwners s).isEmpty || turnNo k u.last.toNat = turnNo k (now s) then s else setUnit k { u with rows := [] } s

/-- A request has waited its limit. -/
def aged (time : Nat) (r : QReq) : Bool := decide (r.at_.toNat + ageLimit ≤ time)

/-- The request of a bank that goes next by kind and row: the kind now served where it has one, row hits first, the oldest of
them (R75). -/
def MUnit.usual (u : MUnit) (rs : List QReq) : Option QReq :=
  let kind := rs.filter fun r => r.write = u.draining
  let ks := if kind.isEmpty then rs else kind
  (ks.find? fun r => u.rows.find r.bank = some r.row).orElse fun _ => ks.head?

/-- The request of a bank that issues next: in arrival order in in-order mode, else one that has waited its limit, else the
usual one. -/
def MUnit.nextOf (u : MUnit) (time b : Nat) : Option QReq :=
  let rs := u.queue.filter fun r => r.bank = b
  if u.ordered b then rs.head? else (rs.find? (aged time)).orElse fun _ => u.usual rs

/-- The requests that may issue next: one for each bank that is not being refreshed and does not owe 8 refreshes, among those whose
turn it is (`force`: for each bank, in any turn); those of the kind now served before the others, except where their bank's order or their age demands them. -/
def candidates (force : Bool) (k : Nat) (s : State) : List QReq :=
  let all := unitOf s k
  let u := { all with queue := all.queue.filter fun r => force || mayTurn s k r }
  let free (b : Nat) : Bool := force || (!((u.busy.find b).any fun e => decide (now s < e.toNat)) && decide (owed s k b < 8))
  let firsts := u.queue.filter fun r => free r.bank && u.nextOf (now s) r.bank = some r
  let kind := firsts.filter fun r => r.write = u.draining || u.ordered r.bank || aged (now s) r
  if kind.isEmpty then firsts else kind

/-- Banks whose in-order requests have all issued leave the mode. -/
def endInOrder (u : MUnit) : MUnit :=
  { u with inorder := u.inorder.keep fun b last => u.queue.any fun r => r.bank = b && decide (r.id ≤ last) }

/-- The writes queued. -/
def MUnit.writes (u : MUnit) : Nat := (u.queue.filter fun r => r.write).length

/-- A request issues: its row is open from now on, and draining ends at the low mark. -/
def MUnit.issue (u : MUnit) (k : Nat) (r : QReq) : MUnit :=
  let u := endInOrder { u with queue := u.queue.filter fun x => x.id ≠ r.id, rows := u.rows.put r.bank r.row }
  { u with draining := u.draining && decide ((drainMarks k).2 < u.writes) }

/-- A request issues ahead of the usual one of its bank because it has waited its limit. -/
def starved (u : MUnit) (time : Nat) (r : QReq) : Bool :=
  aged time r && !u.ordered r.bank && u.usual (u.queue.filter fun x => x.bank = r.bank) ≠ some r

/-- One of the requests that may issue does. -/
def issueOne (force : Bool) (k : Nat) (s : State) : State :=
  let d := draw s
  let rs := candidates force k s
  match rs[d.1 % max 1 rs.length]? with
  | none => s
  | some r =>
    let u := unitOf s k
    let s := if starved u (now s) r then bump d.2 Fld.MEM_CTRL_STATUS_STARVE_PROMOTIONS else d.2
    setUnit k (u.issue k r) s

/-- Requests issue one after another. -/
def issueSome (k : Nat) : Nat → State → State
  | 0, s => s
  | n + 1, s => issueSome k n (issueOne false k s)

/-- Time passes at a controller. -/
def unitPass (k : Nat) (s : State) : State :=
  let u := unitOf s k
  if u.queue.isEmpty || u.last = after s 0 then s
  else
    let d := draw s
    endTurns k (issueSome k (d.1 % (u.queue.length + 1)) d.2)

/-- A full queue of a kind issues until it has room; fuel bounds the requests. -/
def unitRoom (k : Nat) (write : Bool) : Nat → State → State
  | 0, s => s
  | n + 1, s =>
    if ((unitOf s k).queue.filter fun r => r.write = write).length < queueCap k then s
    else unitRoom k write n (issueOne true k s)

/-- A request matches a queued one: same bank and row, the other kind or two writes (R76). -/
def orderMatch (bank row : Nat) (write : Bool) (x : QReq) : Bool :=
  x.bank = bank && x.row = row && (x.write || write)

/-- A request for a tenant's line enters the queue and is compared (R76); an entry into in-order mode is counted. At the high mark the writes begin
to be drained, and refreshes that may be owed no longer go first (R75, R77). -/
def unitEnter (k die bank row : Nat) (write : Bool) (t : Nat) (s : State) : State :=
  let s := unitPass k s
  let s := unitRoom k write (unitOf s k).queue.length s
  let u := unitOf s k
  let hit := u.queue.any (orderMatch bank row write)
  let fresh := hit && !u.ordered bank
  let r : QReq := { id := u.nextId, bank := bank, row := row, write := write, tenant := t, at_ := after s 0 }
  let inorder := if hit then u.inorder.put bank u.nextId else u.inorder
  let u := { u with queue := u.queue ++ [r], nextId := u.nextId + 1, inorder := inorder, last := after s 0 }
  let s := refreshFirst k (setUnit k { u with draining := u.draining || decide ((drainMarks k).1 ≤ u.writes) } s)
  if fresh then countDie die 0x212 1 (bump s Fld.MEM_CTRL_STATUS_INORDER_ENTRIES) else s

/-! ### Self-refresh (R79, R80) -/

/-- How long after the idle timer's expiry an arrival still cancels the entry: 16 MCLK or 16 DCLK cycles (R79). -/
def srCancelNs (k : Nat) : Nat := if k < 384 then 10 else 16

/-- The keys under which a controller's segments are listed as lost. -/
def segKey (k seg : Nat) : Nat := 8 * k + seg

/-- The mask bit of a segment of a controller. -/
def segBit (k seg : Nat) : Nat := if k < 384 then 8 * (k / 192) + seg else 16 + seg

/-- The power state is DOZE or STANDBY (R383). -/
def lowPower (s : State) : Bool := decide (1 ≤ rd s Fld.PWR_STATUS_STATE ∧ rd s Fld.PWR_STATUS_STATE ≤ 2)

/-- The segments of a controller whose mask bit is followed (R80), which is in DOZE and STANDBY alone (R383). -/
def lostSegments (s : State) (k : Nat) : List Nat :=
  if lowPower s then (List.range 8).filter fun g => bitAt (refreshMask s) (segBit k g) && !segmentHolds s (segBit k g)
  else []

/-- The idle time of a controller has passed: SR_IDLE_US, or 1 µs in DOZE and STANDBY (R79, R383). -/
def srDue (s : State) (k : Nat) : Bool :=
  let idle := if lowPower s then 1 else rd s Fld.MEM_REFRESH_CTRL_SR_IDLE_US
  idle ≠ 0 && decide ((unitOf s k).last.toNat + us idle ≤ now s)

/-- The masked segments of a controller in self-refresh lose their contents. -/
def loseMasked (s : State) (k : Nat) : State :=
  let gs := lostSegments s k
  if gs.isEmpty then s
  else
    let tick := s.mem.tick + 1
    { s with mem := { s.mem with
      tick := tick
      lost := gs.foldl (fun (t : Tab Nat) g => t.put (segKey k g) tick) s.mem.lost } }

/-- Masks or power state changed: controllers already in self-refresh follow them (R80, R383). -/
def reloseMasked (s : State) : State :=
  (s.mem.units.keep fun _ u => u.sr.isSome).keys.foldl loseMasked s

/-- A controller enters self-refresh: what was queued has issued, and unrefreshed segments lose their contents. -/
def enterSelfRefresh (k : Nat) (s : State) : State :=
  let u := unitOf s k
  let undo := s.mem.lost.keep fun key _ => key / 8 = k
  loseMasked (setUnit k { u with
    queue := [], inorder := [], draining := false, rows := [], busy := [], sr := some (after s 0), undo := undo } s) k

/-- SELF_REFRESH_ENTRY (R79). -/
def execSelfRefreshEntry (t : Ltc) (u : MemUnit) (s : State) : Host.Outcome State Fault Refusal :=
  let s := adv t s
  let k := unitNum u
  .next (if unitExists s u && (unitOf s k).sr.isNone && srDue s k then enterSelfRefresh k s else s)

/-- A request reaches a controller in self-refresh: it cancels the entry or forces the exit (R79), from which
on its banks owe refreshes anew. -/
def unitWake (k : Nat) (s : State) : State :=
  let u := unitOf s k
  match u.sr with
  | none => s
  | some t0 =>
    if now s < t0.toNat + srCancelNs k then
      let rest := s.mem.lost.keep fun key _ => key / 8 ≠ k
      let lost := u.undo.foldl (fun (t : Tab Nat) e => t.put e.1 e.2) rest
      let s := setUnit k { u with sr := none, undo := [] } { s with mem := { s.mem with lost := lost } }
      bump s Fld.MEM_CTRL_STATUS_SR_CANCELS
    else bump (setUnit k { u with sr := none, undo := [], refBase := after s 0, refs := [] } s) Fld.MEM_CTRL_STATUS_SR_WAKES

/-! ### REFRESH (R78) -/

/-- A bank is refreshed now: it owes a refresh, and has no queued request, or owes 8, or no bank without requests owes one. -/
def refreshDue (s : State) (k bank : Nat) : Bool :=
  let idle (b : Nat) : Bool := (unitOf s k).queue.all fun r => refreshUnit k r.bank ≠ refreshUnit k b
  decide (1 ≤ owed s k bank) &&
    (idle bank || owed s k bank = 8 || (List.range 64).all fun b => !idle b || owed s k b = 0)

/-- REFRESH (R78): a bank gets one of the refreshes it owes; in self-refresh it refreshes itself. -/
def execRefresh (t : Ltc) (u : MemUnit) (bank : BitVec 6) (s : State) : Host.Outcome State Fault Refusal :=
  let s := adv t s
  let k := unitNum u
  .next (if unitExists s u && (unitOf s k).sr.isNone && refreshDue s k bank.toNat then refreshBank k bank.toNat s else s)

/-! ### Access counters and reports (R94-R97) -/

/-- The fields of an access-counter entry (R94). -/
def hotCount (e : Nat) : Nat := bitsOf e 0 16
def hotStamp (e : Nat) : Nat := bitsOf e 16 4
def hotReported (e : Nat) : Bool := bitAt e 20
def hotMulti (e : Nat) : Bool := bitAt e 21
def hotSrc (e : Nat) : Nat := bitsOf e 32 12

/-- An entry halved for the epoch that begins (R95). -/
def halveEntry (s : State) (e : Nat) : Nat :=
  let c := hotCount e / 2
  hotEntry c (hotEpochNo s) (hotReported e && decide (rd s Fld.MEM_HOT_CTRL_THRESHOLD ≤ c)) (hotMulti e) (hotSrc e)

/-- The tenant a report names: that of the ingot, or of the page promoted into the frame. -/
def hotTenant (s : State) (page : Nat) : Nat :=
  match s.mem.promoted.find page with
  | some t => t.toNat
  | none =>
    match ingotAt s (page * mib2 / gib) with
    | some i => i.tenant.toNat
    | none => 0

/-- A hot-page report (R96). -/
def hotReport (s : State) (page count src : Nat) (multi : Bool) : Nat :=
  packBits [(19, page), (13, 0), (16, count), (12, src), (1, b2n multi), (3, 0), (10, hotTenant s page), (6, 0),
    (48, now48 s), (16, hotEpochNo s)]

/-- The reports held are sent in one event; where the event store is full they are dropped (R96, R97). -/
def sendReports (s : State) : State :=
  let rs := s.mem.reports
  if rs.isEmpty then s
  else
    let n := rs.length
    let room := decide (s.ctl.events.length < 256)
    let payload := leNat (rs.flatMap fun r => leBytes 32 r.toNat)
    let s := raiseEvent 8 0xFFF (32 * n) payload { s with mem := { s.mem with reports := [] } }
    if room then bumpBy s Fld.MEM_HOT_STATUS_REPORTS n else bumpBy s Fld.MEM_HOT_STATUS_DROPPED n

/-- A report is formed and held; sixteen are sent at once (R96, R97). -/
def formReport (r : Nat) (s : State) : State :=
  let first := if s.mem.reports.isEmpty then after s 0 else s.mem.firstReport
  let s := { s with mem := { s.mem with
    reports := s.mem.reports ++ [BitVec.ofNat 256 r], firstReport := first, epochReports := s.mem.epochReports + 1 } }
  if 16 ≤ s.mem.reports.length then sendReports s else s

/-- An access counter is read to be counted: an uncorrectable entry is set to zero (R239, R245); it is then written whole. -/
def readHot (page : Nat) (s : State) : State :=
  let h := hotPlace s page
  let o := 0x500000 + 8 * h.2
  let r := scratchRead h.1 o 8 s
  let s := if r.1.isEmpty then r.2 else { r.2 with mem := { r.2.mem with hot := r.2.mem.hot.put page 0 } }
  (scratchWrite h.1 o 8 ingressPort s).2

/-- One fabric read or write cell of a requester touches a local address (R94, R96). -/
def touchPage (la src : Nat) (s : State) : State :=
  if !rdb s Fld.MEM_HOT_CTRL_ENABLE then s
  else
    let page := la / mib2
    let s := readHot page s
    let e := hotAtPage s page
    let c := min 0xFFFF (hotCount e + 1)
    let multi := hotMulti e || hotSrc e ≠ src
    let hot := decide (rd s Fld.MEM_HOT_CTRL_THRESHOLD ≤ c) && !hotReported e
    let cap := rd s Fld.MEM_HOT_CTRL_MAX_REPORTS
    let room := cap = 0 || decide (s.mem.epochReports < cap)
    let e' := hotEntry c (hotStamp e) (hotReported e || (hot && room))
      (multi && !(hot && room)) src
    let s := { s with mem := { s.mem with hot := s.mem.hot.put page (BitVec.ofNat 64 e') } }
    if hot && room then formReport (hotReport s page c src multi) s
    else if hot then bump s Fld.MEM_HOT_STATUS_DROPPED
    else s

/-- HOT_PAGE (R97): 100 µs after the first report held was formed, those held are sent. -/
def execHotPage (t : Ltc) (s : State) : Host.Outcome State Fault Refusal :=
  let s := adv t s
  .next (if s.mem.firstReport.toNat + us 100 ≤ now s then sendReports s else s)

/-- The length of an epoch in ns: EPOCH_LOG2 outside 10..20 acts as 10 (R95). -/
def epochNs (s : State) : Nat :=
  let n := rd s Fld.MEM_HOT_CTRL_EPOCH_LOG2
  us (2 ^ (if 10 ≤ n && n ≤ 20 then n else 10))

/-- HOT_EPOCH (R95): at the boundary every count is halved, the whole sweep in this one step. -/
def execHotEpoch (t : Ltc) (s : State) : Host.Outcome State Fault Refusal :=
  let s := adv t s
  let due := s.mem.hotAt.toNat + epochNs s
  .next (if rdb s Fld.MEM_HOT_CTRL_ENABLE && decide (due ≤ now s) then
      let s := wr s Fld.MEM_HOT_STATUS_EPOCH (hotEpochNo s + 1)
      { s with mem := { s.mem with
        hot := s.mem.hot.mapVals fun _ e => BitVec.ofNat 64 (halveEntry s e.toNat)
        hotAt := BitVec.ofNat 64 due
        epochReports := 0 } }
    else s)

end Sys2Proof.Machine
end

