-- ==== Sys2Proof/Machine/Reduce.lean ====
section
/-! DEFINITION. Reduce slots and reduce engines (R225-R232). -/

namespace Sys2Proof.Machine

/-! ### Slots (R225) -/

/-- Slots of a die. -/
def slotsPerDie : Nat := 2048

/-- The tenant of a reserved slot. -/
def slotTenant (s : State) (n : Nat) : Option Nat := (s.red.slots.find n).map BitVec.toNat

/-- The armed run that covers a slot: its first slot and what it holds. -/
def runAt (s : State) (n : Nat) : Option (Nat × RedRun) :=
  s.red.runs.find? fun e => decide (e.1 ≤ n ∧ n < e.1 + e.2.nslots)

/-- The slots of a die that are free. -/
def freeSlots (s : State) (die : Nat) : Nat :=
  slotsPerDie - (s.red.slots.keys.filter fun n => n / slotsPerDie = die).length

/-- The next slot from n on that ends a run of free slots: a reserved one, or the die's end. -/
def nextReserved (s : State) (n end_ : Nat) : Nat :=
  match s.red.slots.keys.find? fun k => decide (n ≤ k ∧ k < end_) with
  | some k => k
  | none => end_

/-- The lowest run of k free slots from n on; fuel bounds the reserved slots passed. -/
def freeSlotRun (s : State) (k end_ : Nat) : Nat → Nat → Option Nat
  | 0, _ => none
  | f + 1, n =>
    if end_ < n + k then none
    else
      let r := nextReserved s n end_
      if n + k ≤ r then some n else freeSlotRun s k end_ f (r + 1)

/-- The lowest run of k free slots of a die. -/
def dieRun (s : State) (k die : Nat) : Option Nat :=
  freeSlotRun s k (slotsPerDie * (die + 1)) (slotsPerDie + 1) (slotsPerDie * die)

/-- The run that a reservation of k slots gets (R225). -/
def reserveRun (s : State) (k : Nat) : Option Nat :=
  if dies s = 1 then dieRun s k 0
  else
    let d := if freeSlots s 0 < freeSlots s 1 then 1 else 0
    match dieRun s k d with
    | some n => some n
    | none => dieRun s k (1 - d)

/-- A tenant holds an armed slot. -/
def holdsArmed (s : State) (t : Nat) : Bool := s.red.runs.keys.any fun n => slotTenant s n = some t

/-- Every slot of a tenant is free. -/
def freeTenantSlots (t : Nat) (s : State) : State :=
  { s with red := { s.red with slots := s.red.slots.keep fun _ x => x.toNat ≠ t } }

/-- A count of 0 releases a tenant's slots (R225). -/
def releaseSlots (h : CmdHdr) (s : State) : State :=
  if holdsArmed s h.tenant.toNat then refuseCmd h Status.IN_USE s
  else okCmd h (leBytes 4 0xFFFFFFFF) (freeTenantSlots h.tenant.toNat s)

/-- REDUCE_SLOT_RESERVE (R225). -/
def execReduceSlotReserve (t : Ltc) (h : CmdHdr) (count : BitVec 32) (s : State) : Host.Outcome State Fault Refusal :=
  opcode t h .tenant false (fun s =>
    let k := count.toNat
    if k = 0 then releaseSlots h s
    else if 2048 < k then refuseCmd h Status.BAD_PARAM s
    else
      match reserveRun s k with
      | none => refuseCmd h Status.NO_RESOURCE s
      | some n =>
        let ten := BitVec.ofNat 10 h.tenant.toNat
        let slots := (List.range k).foldl (fun (t : Tab (BitVec 10)) i => t.put (n + i) ten) s.red.slots
        okCmd h (leBytes 4 n) { s with red := { s.red with slots := slots } }) s

/-- REDUCE_SLOT_RESERVE with count 0 (R225). -/
def execReduceSlotRelease (t : Ltc) (h : CmdHdr) (s : State) : Host.Outcome State Fault Refusal :=
  opcode t h .tenant false (fun s => releaseSlots h s) s

/-! ### Runs (R226-R230) -/

/-- Fields of a REDUCE_ARM body. -/
def raSlot (q : QDesc) : Nat := q.field 256 12
def raNslots (q : QDesc) : Nat := q.field 272 5
def raContrib (q : QDesc) : Nat := q.field 280 9
def raFmt (q : QDesc) : Nat := q.field 296 3
def raFn (q : QDesc) : Nat := q.field 299 2
def raLocal (q : QDesc) : Bool := q.field 301 1 = 1
def raTimeout (q : QDesc) : Nat := q.field 304 24
def raElems (q : QDesc) : Nat := q.field 352 32
def raResult (q : QDesc) : Nat := q.field 384 57
def raLocalVa (q : QDesc) : Nat := q.field 448 57

/-- Bytes of an element, and elements a slot holds (R225). -/
def redBytes (fmt : Nat) : Nat := redWidth fmt / 8
def slotElems (fmt : Nat) : Nat := if fmt = 3 then 512 else 1024

/-- RSV bits and ranges (R226). -/
def reduceFieldsOk (q : QDesc) : Bool :=
  q.field 268 4 = 0 && q.field 277 3 = 0 && q.field 289 7 = 0 && q.field 302 2 = 0 && q.field 328 24 = 0 && q.field 441 7 = 0 &&
    q.field 505 519 = 0 && decide (1 ≤ raNslots q ∧ raNslots q ≤ 16) && decide (1 ≤ raContrib q ∧ raContrib q ≤ 256) &&
    decide (raFmt q ≤ 3) && decide (raFn q ≤ 2) && raTimeout q ≠ 0 && (raLocal q || raLocalVa q = 0) &&
    decide (1 ≤ raElems q ∧ raElems q ≤ raNslots q * slotElems (raFmt q)) && raElems q * redBytes (raFmt q) % 64 = 0

/-- The first two rows of R227. -/
def reduceCheck (q : QDesc) : Option Nat :=
  if !reduceFieldsOk q then some 0x10
  else if raResult q % 64 ≠ 0 || raLocalVa q % 64 ≠ 0 then some 0x12
  else none

/-- The rows of R227 that look at the slots. -/
def slotsCheck (s : State) (q : QDesc) (die : Nat) : Option Nat :=
  let run := (List.range (raNslots q)).map fun i => raSlot q + i
  if run.any fun n => slotTenant s n ≠ some q.tenant.toNat then some 0x4A
  else if run.any fun n => n / slotsPerDie ≠ die then some 0x4C
  else if run.any fun n => (runAt s n).isSome then some 0x4B
  else none

/-- Cells of a contribution (R228). -/
def RedRun.cells (r : RedRun) : Nat := ceilDiv (r.elems * redBytes r.fmt) 512

/-- The key of bit (c, k). -/
def bitKey (c k : Nat) : Nat := 128 * c + k

def RedRun.has (r : RedRun) (c k : Nat) : Bool := r.bits.get false (bitKey c k)

/-- Contributions received in full, and cells received. -/
def RedRun.full (r : RedRun) : Nat := ((List.range r.contrib).filter fun c => (List.range r.cells).all (r.has c)).length
def RedRun.got (r : RedRun) : Nat := r.bits.length

/-- Every bit of the run is set. -/
def RedRun.complete (r : RedRun) : Bool := r.got = r.contrib * r.cells

/-- The progress figure of the group (R230). -/
def RedRun.figure (r : RedRun) : Nat := r.full + 2 ^ 32 * r.got

/-- The format a slot accumulates in: BF16 accumulates in FP32 (R225). -/
def accFmt (fmt : Nat) : Nat := if fmt = 1 then 0 else fmt

/-- An element as the accumulator takes it: BF16 widened exactly; the first contribution sets it, as combining with the
identity of RFN would, so a NaN becomes the one NaN pattern (R229). -/
def widen (fmt x : Nat) : Nat := if fmt = 1 then x * 2 ^ 16 else x
def firstElem (fmt x : Nat) : Nat := if accFmt fmt = 0 && (f32 x).isNan then 0x7FC00000 else x

/-- The accumulator word of an element. -/
def accWord (fmt e : Nat) : Nat := e * redBytes (accFmt fmt) / 8

/-- One element of a cell is combined (R229). -/
def combineElem (r : RedRun) (e x : Nat) (poison : Bool) : RedRun :=
  let y := widen r.fmt x
  let v := match r.acc.find e with
    | none => firstElem r.fmt y
    | some a => redElem (accFmt r.fmt) r.fn a y
  { r with acc := r.acc.put e v,
           poison := if poison then r.poison.put (accWord r.fmt e) true else r.poison }

/-- Cell k is combined: its elements, from a number and the poison marks of its words, and its bit set. -/
def combineCell (r : RedRun) (c k data marks : Nat) : RedRun :=
  let el := redBytes r.fmt
  let per := 512 / el
  let n := min per (r.elems - per * k)
  let r := (List.range n).foldl (fun r i =>
    combineElem r (per * k + i) (bitsOf data (8 * el * i) (8 * el)) (bitAt marks (el * i / 8))) r
  { r with bits := r.bits.put (bitKey c k) true }

def putRun (n : Nat) (r : RedRun) (s : State) : State := { s with red := { s.red with runs := s.red.runs.put n r } }
def disarm (n : Nat) (s : State) : State := { s with red := { s.red with runs := s.red.runs.del n } }

/-- The run that a task armed. -/
def runOfTask (s : State) (key : Nat) : Option (Nat × RedRun) := s.red.runs.find? fun e => e.2.task = key

/-- The figure a task would report follows its run. -/
def syncFigure (r : RedRun) (s : State) : State := updTask r.task (fun t => { t with figure := r.figure }) s

/-- How a contribution cell ends (R228). -/
inductive Contributed where
  | refused
  | notArmed
  | duplicate
  | combined
  deriving DecidableEq, Repr

/-- A contribution cell of a tenant: first slot, contributor, index, data and poison marks (R228). -/
def contribute (t slot c k data marks : Nat) (s : State) : Contributed × State :=
  if slotTenant s slot ≠ some t then (.refused, bump s Fld.RED_STATUS_REFUSED)
  else
    match runAt s slot with
    | none => (.notArmed, bump s Fld.RED_STATUS_NOT_ARMED)
    | some (n, r) =>
      if n ≠ slot || decide (r.contrib ≤ c) || (c = 0 && r.loc) || decide (r.cells ≤ k) then
        (.refused, bump s Fld.RED_STATUS_REFUSED)
      else if r.has c k then (.duplicate, bump s Fld.RED_STATUS_DUPLICATES)
      else
        let r' := combineCell r c k data marks
        (.combined, syncFigure r' (countEv (keyCluster r.task) 0x043 t 1 (putRun n r' s)))

/-! ### REDUCE_ARM (R227) -/

/-- The local contribution, cell by cell from cell k; fuel bounds the cells. -/
def localCells (w : Who) (n va : Nat) : Nat → Nat → State → Acc Unit
  | 0, _, s => .ok () s
  | f + 1, k, s =>
    match s.red.runs.find n with
    | none => .ok () s
    | some r =>
      let bytes := min 512 (r.elems * redBytes r.fmt - 512 * k)
      (readSpan w (va + 512 * k) bytes s).bind fun p s =>
        match s.red.runs.find n with
        | none => .ok () s
        | some r =>
          let r' := combineCell r 0 k (p.num 0 bytes) (bitsOf p.poison 0 64)
          let s := markPoison w.key (p.bad 0 bytes) (syncFigure r' (putRun n r' s))
          localCells w n va f (k + 1) (setProg w.key (k + 1) r'.figure s)

/-- The engine goes on with the local contribution, then waits for the others. -/
def readLocal (w : Who) (t : Task) (n : Nat) (r : RedRun) (s : State) : State :=
  if r.loc then
    (localCells w n (raLocalVa t.q) (r.cells - t.prog) t.prog s).close w.key fun _ s => setTaskState w.key .wait s
  else setTaskState w.key .wait s

/-- A REDUCE_ARM that has begun checks its slots, arms its run and reads its local contribution (R227). -/
def runReduceArm (e : Eng) (ctx : Nat) (x : Ext) (s : State) : State :=
  match readyTask s e ctx 4 1 with
  | none => s
  | some t =>
    let w : Who := { eng := e, task := ctx, tenant := t.q.tenant.toNat, x := x }
    match runOfTask s w.key with
    | some (n, r) => readLocal w t n r s
    | none =>
      let die := match ringOf s t.q.ring.toNat with | some r => r.die | none => e.die
      match slotsCheck s t.q die with
      | some c => endTask w.key c 0 s
      | none =>
        let q := t.q
        let n := raSlot q
        let r : RedRun := { nslots := raNslots q, contrib := raContrib q, fmt := raFmt q, fn := raFn q, loc := raLocal q,
                            elems := raElems q, task := w.key, armed := after s 0, limitUs := raTimeout q }
        readLocal w t n r (putRun n r s)

/-- REDUCE_ARM (R227). -/
def execReduceArm (t : Ltc) (eng : Eng) (task : BitVec 5) (x : Ext) (s : State) : Host.Outcome State Fault Refusal :=
  .next (runReduceArm eng task.toNat x (adv t s))

/-! ### The end of a run (R230) -/

/-- An accumulator element in RFMT. -/
def RedRun.outElem (r : RedRun) (e : Nat) : Nat :=
  let v := r.acc.get 0 e
  if r.fmt = 1 then toBf16 (f32 v) else v

/-- Line i of the result: its elements, and poison where an accumulator word behind a word is poison.
DESIGN CHOICE (log entry 56): its metadata bits are 0. -/
def RedRun.outLine (r : RedRun) (i : Nat) : Line :=
  let el := redBytes r.fmt
  let per := 64 / el
  let bad (w : Nat) : Bool := (List.range (8 / el)).any fun j => r.poison.get false (accWord r.fmt (per * i + 8 / el * w + j))
  { data := BitVec.ofNat 512 (packBits ((List.range per).map fun j => (8 * el, r.outElem (per * i + j)))),
    meta2 := 0, poison := BitVec.ofNat 8 (maskOf 8 bad) }

/-- The result's lines from line i on. -/
def writeResult (w : Who) (r : RedRun) (va : Nat) : Nat → Nat → State → Acc Unit
  | 0, _, s => .ok () s
  | f + 1, i, s =>
    (writeVa w (va + 64 * i) allBytes (r.outLine i) s).bind fun _ s =>
      writeResult w r va f (i + 1) (updTask w.key (fun t => { t with sideA := some [⟨0, i + 1⟩] }) s)

/-- How many lines of the result a task has written. -/
def Task.resultLines (t : Task) : Nat := match t.sideA with | some (x :: _) => x.len | _ => 0

/-- A run whose bits are all set writes its result; then the descriptor has its status and RESULT = N (R230). -/
def finishRun (w : Who) (t : Task) (r : RedRun) (s : State) : State :=
  let lines := r.elems * redBytes r.fmt / 64
  let s := setTaskState w.key .ready s
  (writeResult w r (raResult t.q) (lines - t.resultLines) t.resultLines s).close w.key fun _ s =>
    endTask w.key 0 r.contrib (markPoison w.key (!r.poison.isEmpty) s)

/-- A task has its status and result. -/
def Task.isDone (t : Task) : Bool := match t.st with | .done _ _ => true | _ => false

/-- REDUCE_TIMEOUT (R230): a run is disarmed once its time has passed with bits still clear, wherever its task waits; a fault of it
is no longer to be placed in a queue. -/
def runTimeout (e : Eng) (ctx : Nat) (s : State) : State :=
  let key := taskKey e.toNat ctx
  match taskOf s key, runOfTask s key with
  | some t, some (n, r) =>
    if !t.isDone && !r.complete && decide (r.armed.toNat + us r.limitUs ≤ now s) then
      bump (endTask key 0x4D r.figure (unqueueFault key (keyDie key) (disarm n s))) Fld.RED_STATUS_TIMEOUTS
    else s
  | _, _ => s

/-- REDUCE_TIMEOUT (R230). -/
def execReduceTimeout (t : Ltc) (eng : Eng) (task : BitVec 5) (s : State) : Host.Outcome State Fault Refusal :=
  .next (runTimeout eng task.toNat (adv t s))

end Sys2Proof.Machine
end

