-- ==== Sys2Proof/Machine/Fabric.lean ====
section
/-! DEFINITION. Requests that arrive from the fabric, their streams, acknowledgements and fences (R261-R264, R275-R281, R103,
R155, R228, R313, R341-R343, R348), and this part's own requests: replies, retries and time-outs (R279). -/

namespace Sys2Proof.Machine

/-- The time that n slots take: a slot is 2 cycles of FCLK, 1.47 GHz (R16, R259). -/
def slotsNs (n : Nat) : Nat := n * 200 / 147

/-- RETRY_US, where 0 acts as 50 (R286). -/
def retryUs (s : State) : Nat := if rd s Fld.FAB_CTRL_RETRY_US = 0 then 50 else rd s Fld.FAB_CTRL_RETRY_US

/-- The completion time-out of R279, in ns. -/
def completionNs (s : State) : Nat := us (retryUs s * (rd s Fld.FAB_CTRL_RETRIES + 1))

/-! ### Payload lines of a cell (R260, R262) -/

/-- Byte range of the payload as a number. -/
def cellBytes (c : Cell) (off n : Nat) : Nat := bitsOf c.payload.toNat (8 * off) (8 * n)

/-- Payload line i as it is stored. -/
def cellLine (c : Cell) (i : Nat) : Line :=
  let m := bitsOf c.meta128.toNat (16 * i) 16
  if c.plines.toNat.testBit i then
    { data := BitVec.ofNat 512 (bitsOf c.payload.toNat (512 * i) 512), meta2 := 0, poison := BitVec.ofNat 8 m }
  else { data := BitVec.ofNat 512 (bitsOf c.payload.toNat (512 * i) 512), meta2 := BitVec.ofNat 16 m, poison := 0 }

/-- A cell with payload line i filled in. -/
def cellWith (c : Cell) (x : Nat × Line) : Cell :=
  let i := x.1
  let l := x.2
  let m := if l.poison = 0 then l.meta2.toNat else l.poison.toNat
  { c with payload := BitVec.ofNat 4096 (putBits c.payload.toNat (512 * i) 512 l.data.toNat),
           meta128 := BitVec.ofNat 128 (putBits c.meta128.toNat (16 * i) 16 m),
           lines := BitVec.ofNat 8 (putBit c.lines.toNat i true),
           plines := BitVec.ofNat 8 (putBit c.plines.toNat i (l.poison ≠ 0)) }

/-- The line numbers a mask names within a 512-byte block. -/
def blockLines (block mask : Nat) : List Nat := (setBits 8 mask).map fun i => 8 * block + i

/-- The block of a request cell. -/
def cellBlock (c : Cell) : Nat := c.addr.toNat

/-- The blocks a READ names, with their line masks (R261). -/
def readBlocksOf (c : Cell) : List (Nat × Nat) :=
  ((cellBlock c), c.lines.toNat) :: (List.range (cellBytes c 0 8 % 64)).map fun j =>
    let e := cellBytes c (8 * (j + 1)) 8
    (bitsOf e 0 35, bitsOf e 35 8)

/-- The one line a WRITE_MASKED or ATOMIC names. -/
def oneLineOf (c : Cell) : Nat := 8 * (cellBlock c) + ((setBits 8 c.lines.toNat).headD 0)

/-! ### The check of a cell (R261, R263) -/

/-- The fields of a class 0 request hold assigned values (R261, R140). -/
def requestFormOk (c : Cell) : Bool :=
  match c.op.toNat with
  | 3 => popCount 8 c.lines.toNat = 1
  | 4 => !bitAt c.lines.toNat 7
  | 5 => popCount 8 c.lines.toNat = 1 && decide (cellBytes c 18 1 < 64) && (cellBytes c 17 1 = 4 || cellBytes c 17 1 = 8) &&
      atomicAssigned (cellBytes c 16 1) (cellBytes c 17 1 = 8)
  | _ => true

/-- The slot of an ENC 1 cell holds a key (R335, R344). -/
def slotHolds (s : State) (slot : Nat) : Bool := match s.sec.jobs.find slot with | some j => j.valid | none => false

/-- The tag of an ENC 1 cell holds under the key of its slot, which must hold one (R263, R341, R344). -/
def tagHolds (s : State) (nonce : Nat) (c : Cell) : Bool :=
  match s.sec.jobs.find c.owner.toNat with
  | some j => j.valid && c.check = Config.jobTag j.binding nonce (cellHead c) c.payload.toNat
  | none => false

/-- An arriving cell as its endpoint reads it: an encrypted payload is decrypted (R263, R341). -/
def plain (s : State) (nonce : Nat) (c : Cell) : Cell :=
  if c.enc then
    match s.sec.jobs.find c.owner.toNat with
    | some j => { c with payload := payloadUnder j.binding nonce c.payload }
    | none => c
  else c

/-- A cell passes its endpoint's checks: CHECK, under its key for ENC 1, and no unassigned encoding (R261, R263, R344). -/
def cellOk (s : State) (nonce : Nat) (c : Cell) : Bool :=
  encodingOk c && (if c.enc then tagHolds s nonce c else c.check = cellCrc c && decide (c.owner.toNat < 1024)) &&
    (c.cls ≠ 0 || requestFormOk (plain s nonce c))

/-- A cell of class 0, 1 or 5 that should have been encrypted and is not (R263). -/
def encMissing (s : State) (c : Cell) : Bool := !c.enc && !(memberNode s c.src.toNat && memberNode s (sourceId s).toNat)

/-- The tenant of a request cell (R313). -/
def cellTenant (s : State) (c : Cell) : Nat :=
  if c.enc then match s.sec.jobs.find c.owner.toNat with | some j => bindTenant j.binding.toNat | none => 0
  else c.owner.toNat % 1024

/-! ### Streams (R276, R277) -/

/-- The key of a stream at its destination. -/
def streamKey (src : BitVec 12) (enc : Bool) (owner : BitVec 13) : Nat := (src.toNat * 2 + b2n enc) * 8192 + owner.toNat
def cellStream (c : Cell) : Nat := streamKey c.src c.enc c.owner

/-- The die that keeps a stream (R277). -/
def streamDie (s : State) (key : Nat) : Nat := if dies s = 1 then 0 else (key / 16384 % 2 + key % 2) % 2

def streamOf (s : State) (k : Nat) : Option Stream := s.fab.streams.find k
def updStream (k : Nat) (f : Stream → Stream) (s : State) : State :=
  { s with fab := { s.fab with streams := s.fab.streams.upd k f } }

/-- Entries in use on a die; the registers follow. -/
def streamsUsed (s : State) (die : Nat) : Nat := (s.fab.streams.keys.filter fun k => streamDie s k = die).length
def syncStreams (s : State) : State :=
  wr (wr s Fld.FAB_STREAM_STATUS_USED_C0 (streamsUsed s 0)) Fld.FAB_STREAM_STATUS_USED_C1 (streamsUsed s 1)

/-- A tenant's entries on a die. -/
def streamsOf (s : State) (die t : Nat) : Nat :=
  (s.fab.streams.filter fun e => streamDie s e.1 = die && e.2.tenant.toNat = t).length

/-- A die has a stream entry for a tenant (R277, R350). -/
def streamRoom (s : State) (die t : Nat) : Bool := poolRoom s 4096 partStreams (streamsUsed s die) (streamsOf s die) t

/-- SSEQ extended to the number nearest a base (R277). -/
def extendSeq (base sseq : Nat) : Nat :=
  let d := (sseq + 65536 - base % 65536) % 65536
  if d < 32768 || base + d < 65536 then base + d else base + d - 65536

/-- The highest number performed from a requester under a job key (R342). -/
def peerOf (s : State) (slot src : Nat) : Option Nat :=
  (s.sec.jobs.find slot).bind fun j => (j.peers.find src).map BitVec.toNat

/-- A job-key slot has no peer entry left for a requester (R342). -/
def peerFull (s : State) (c : Cell) : Bool :=
  c.enc && (peerOf s c.owner.toNat c.src.toNat).isNone &&
    match s.sec.jobs.find c.owner.toNat with
    | some j => decide (64 ≤ j.peers.length)
    | none => false

/-- The number of the request that makes a stream entry (R277, R342). -/
def firstNum (s : State) (c : Cell) : Nat :=
  if c.enc then extendSeq ((peerOf s c.owner.toNat c.src.toNat).getD 0) c.sseq.toNat else c.sseq.toNat

/-- The number of a request from its SSEQ: by its stream entry, or as the one that makes it (R277, R342). -/
def requestNum (s : State) (c : Cell) : Nat :=
  match streamOf s (cellStream c) with
  | some e => extendSeq e.base.toNat c.sseq.toNat
  | none => firstNum s c

/-- The nonce of an arriving request (R341). -/
def requestNonce (s : State) (c : Cell) : Nat := cellNonce (requestNum s c) c.src.toNat (sourceId s).toNat none

/-- How many of the lowest bits of x are 1. -/
def trailingOnes : Nat → Nat → Nat
  | 0, _ => 0
  | f + 1, x => if x % 2 = 1 then 1 + trailingOnes f (x / 2) else 0

/-- A number has been performed: its bit is set, PERFORMED rises, BASE advances over set bits (R277). -/
def Stream.perform (e : Stream) (n : Nat) : Stream :=
  let b := putBit e.bits.toNat (n - e.base.toNat) true
  let k := trailingOnes 1024 b
  { e with base := e.base + BitVec.ofNat 48 k, bits := BitVec.ofNat 1024 (b / 2 ^ k), performed := e.performed + 1 }

/-- A number's bit is set, or it lies below BASE. -/
def Stream.has (e : Stream) (n : Nat) : Bool := decide (n < e.base.toNat) || bitAt e.bits.toNat (n - e.base.toNat)

/-! ### Replies (R264, R278) -/

/-- A reply as it leaves: an ENC 1 one is encrypted under the job key, by the number of the request it answers (R263, R341). -/
def protectReply (s : State) (c r : Cell) (rctr : Nat) : Cell :=
  match r.enc, s.sec.jobs.find r.owner.toNat with
  | true, some j => sealCell j.binding (cellNonce (requestNum s c) c.src.toNat r.src.toNat (some rctr)) r
  | _, _ => r

/-- The reply cell of OP op to a stream's request: RCTR counts it (R264). -/
def reply (c : Cell) (op status block : Nat) (fill : Cell → Cell) (s : State) : State :=
  let n := match streamOf s (cellStream c) with | some e => (e.rctr + 1).toNat | none => 1
  let s := updStream (cellStream c) (fun e => { e with rctr := e.rctr + 1 }) s
  let a := BitVec.ofNat 35 (packBits [(8, status), (6, block), (21, n)])
  let r := { newCell s c.src.toNat 1 op with enc := c.enc, owner := c.owner, sseq := c.sseq, addr := a }
  sendCell (protectReply s c (fill r) n) s

/-- STATUS: byte 0 holds the OP of the request answered. -/
def replyStatus (c : Cell) (status : Nat) (s : State) : State :=
  reply c 4 status 0 (fun r => { r with payload := BitVec.ofNat 4096 c.op.toNat }) s

/-- A request is turned into a NACK and counted. -/
def replyNack (c : Cell) (s : State) : State := replyStatus c 1 (bump s Fld.FAB_STATUS2_NACK_SENT)

/-- FENCE_DONE with PERFORMED and BASE, and with GAP the bitmap (R261, R280). -/
def replyFence (c : Cell) (gap : Bool) (s : State) : State :=
  match streamOf s (cellStream c) with
  | none => s
  | some e =>
    let p := packBits [(64, e.performed.toNat), (48, e.base.toNat), (16, 0), (1024, if gap then e.bits.toNat else 0)]
    reply c 5 (if gap then 2 else 0) 0 (fun r => { r with payload := BitVec.ofNat 4096 p }) s

/-- An ACK is held; the hold begins with the first (R278). -/
def holdAck (c : Cell) (n : Nat) (s : State) : State :=
  let hold := max 1 (rd s Fld.FAB_CTRL_ACK_HOLD_SLOTS)
  updStream (cellStream c) (fun e =>
    { e with acks := if e.acks.contains (BitVec.ofNat 48 n) then e.acks else e.acks ++ [BitVec.ofNat 48 n],
             ackAt := if e.acks.isEmpty then after s (slotsNs hold) else e.ackAt }) s

/-- The highest number performed from a requester, n being the latest. -/
def notedPeer (j : JobKey) (src n : Nat) : BitVec 48 := BitVec.ofNat 48 (max n ((j.peers.find src).getD 0).toNat)

/-- The highest number performed from a requester under a job key is kept (R342). -/
def notePeer (c : Cell) (n : Nat) (s : State) : State :=
  if !c.enc then s
  else
    { s with sec := { s.sec with jobs := s.sec.jobs.upd c.owner.toNat fun j =>
        { j with peers := j.peers.put c.src.toNat (notedPeer j c.src.toNat n) } } }

/-- A fence whose earlier requests have all been performed is answered and counts (R280). -/
def tryFence (k : Nat) (s : State) : State :=
  match streamOf s k with
  | none => s
  | some e =>
    match e.fence with
    | none => s
    | some f =>
      if f.num.toNat ≤ e.base.toNat then
        let s := replyFence f.cell false (updStream k (fun e => { e with fence := none }) s)
        notePeer f.cell f.num.toNat (updStream k (fun e => e.perform f.num.toNat) s)
      else s

/-- A request counts as performed (R277). -/
def performed (c : Cell) (n : Nat) (s : State) : State :=
  tryFence (cellStream c) (notePeer c n (updStream (cellStream c) (fun e => e.perform n) s))

/-- A request is refused: its reply is formed, so it counts as performed (R277). -/
def refuseReq (c : Cell) (n status : Nat) (s : State) : State := performed c n (replyStatus c status s)

/-! ### Taking a request (R263, R277, R313, R342, R348) -/

/-- What a row does with a request that is new, and with a duplicate. -/
structure Handler where
  fresh : Nat → State → State
  dup : Nat → State → State

/-- A request with a stream entry is treated by its number (R277). -/
def byNumber (c : Cell) (hd : Handler) (s : State) : State :=
  match streamOf s (cellStream c) with
  | none => s
  | some e =>
    let n := extendSeq e.base.toNat c.sseq.toNat
    let s := updStream (cellStream c) (fun e => { e with last := after s 0 }) s
    if e.base.toNat + 1024 ≤ n then replyNack c s
    else if s.fab.waiting.any (fun w => cellStream w.cell = cellStream c && w.num = n) then bump s Fld.FAB_STREAM_STATUS_DUPLICATES
    else if e.has n then hd.dup n (bump s Fld.FAB_STREAM_STATUS_DUPLICATES)
    else if (match e.fence with | some f => decide (f.num.toNat = n) | none => false) then bump s Fld.FAB_STREAM_STATUS_DUPLICATES
    else if encMissing s c then refuseReq c n 0x14 (bump s Fld.FAB_STATUS3_ENC_REFUSED)
    else hd.fresh n s

/-- A request that passed its check and its meter gets its stream entry, and is treated by its number (R277, R342). -/
def enterStream (c : Cell) (t : Nat) (hd : Handler) (s : State) : State :=
  if peerFull s c then replyStatus c 0x10 (bump s Fld.SEC_FAB_STATUS_PEER_FULL)
  else if (streamOf s (cellStream c)).isSome then byNumber c hd s
  else if !streamRoom s (streamDie s (cellStream c)) t then replyStatus c 1 (bump s Fld.FAB_STREAM_STATUS_FULL_NACKS)
  else
    let e : Stream := { base := BitVec.ofNat 48 (firstNum s c), tenant := BitVec.ofNat 10 t, last := after s 0 }
    byNumber c hd (syncStreams { s with fab := { s.fab with streams := s.fab.streams.put (cellStream c) e } })

/-- After tamper every request is answered `REFUSED`; one that its stream has not performed counts as performed (R277, R348). -/
def refuseTampered (c : Cell) (s : State) : State :=
  match streamOf s (cellStream c) with
  | none => replyStatus c 0x10 s
  | some e =>
    let n := extendSeq e.base.toNat c.sseq.toNat
    if e.has n || decide (e.base.toNat + 1024 ≤ n) then replyStatus c 0x10 s else refuseReq c n 0x10 s

/-- A request arrives at its endpoint: check, meter, stream entry (R263, R277, R313, R314, R342). -/
def takeReq (port : Nat) (c : Cell) (cls op : Nat) (hd : Cell → Handler) (s : State) : State :=
  let nonce := requestNonce s c
  if c.cls.toNat ≠ cls || c.op.toNat ≠ op then (if encodingOk c then s else failCheck s)
  else if !cellOk s nonce c then failCheck s
  else
    let c := plain s nonce c
    let t := cellTenant s c
    let m := meterCell ((settingsFor s c.gen.toNat).getD s.mode.applied) port t c s
    if s.sec.tampered then refuseTampered c s
    else if m.1 then replyNack c m.2
    else enterStream c t (hd c) m.2

/-! ### The check of each line (R100, R103, R148, R155, R343) -/

/-- The ingot of a line belongs to a tenant that requires ENC 1 (R343). -/
def requiresEnc (s : State) (ln : Nat) : Bool :=
  match ingotAt s (64 * ln / gib) with
  | none => false
  | some i => i.kind.toNat ≤ 1 && (match s.sec.tenants.find i.tenant.toNat with | some x => bitAt x.entry.toNat 10 | none => false)

/-- A non-member's access is held by the directory (R148). -/
def heldLine (s : State) (c : Cell) (write : Bool) (ln : Nat) : Bool :=
  !memberNode s c.src.toNat &&
    match s.coh.dir.find ln with
    | none => false
    | some e => write || e.owned

/-- What the check of a line answers before its home is asked: 0, or REFUSED, ENC_REQUIRED. -/
def entryStatus (s : State) (c : Cell) (write : Bool) (ln : Nat) : Nat :=
  if stackBytes s ≤ 64 * ln || !accessAllowed s (cellTenant s c) (64 * ln) write then 0x10
  else if !c.enc && requiresEnc s ln then 0x14
  else 0

/-- What the check of a line answers: 0, or REFUSED, ENC_REQUIRED, COH_HELD. -/
def lineStatus (s : State) (c : Cell) (write : Bool) (ln : Nat) : Nat :=
  let st := entryStatus s c write ln
  if st = 0 && heldLine s c write ln then 0x11 else st

/-- The first of REFUSED, ENC_REQUIRED and COH_HELD in a list. -/
def firstStatus (st : List Nat) : Nat :=
  if st.contains 0x10 then 0x10 else if st.contains 0x14 then 0x14 else if st.contains 0x11 then 0x11 else 0

/-- The status of several lines. -/
def linesStatus (s : State) (c : Cell) (write : Bool) (lns : List Nat) : Nat := firstStatus (lns.map (lineStatus s c write))

/-- A refusal is counted where R103, R148 and R263 say. -/
def countRefusal (status : Nat) (s : State) : State :=
  match status with
  | 0x10 => ingressRefused s
  | 0x11 => bump s Fld.COH_STATUS_NC_REFUSED
  | 0x14 => bump s Fld.FAB_STATUS3_ENC_REFUSED
  | _ => s

/-- A request whose check failed is refused, and counted. -/
def answerCheck (c : Cell) (n status : Nat) (s : State) : State := refuseReq c n status (countRefusal status s)

/-! ### Waiting at the homes (R134, R277) -/

/-- A request of class 0 joins the wait lists of its lines. -/
def waitAtHome (c : Cell) (n : Nat) (x : Ext) (again : Bool) (lns : List Nat) (s : State) : State :=
  let s := { s with fab := { s.fab with waiting := s.fab.waiting ++ [{ cell := c, num := n, x := x, again := again }] } }
  lns.eraseDups.foldl (fun s ln => joinWaits ln { aid := 0, op := .cell (cellStream c) n, at_ := after s 0 } s) s

/-- A request of class 0 at the homes of its lines: it waits where one is at work, is answered NACK where a home is full, and
is performed otherwise (R134). -/
def atHomes (c : Cell) (n : Nat) (x : Ext) (again : Bool) (lns : List Nat) (act : State → State) (s : State) : State :=
  if lns.any (lineBusy s) then waitAtHome c n x again lns s
  else
    match lns.find? (homeFull s) with
    | some ln => replyNack c (countNack ln s)
    | none => act s

/-- One access counted for each page that a cell's target lies in (R94). -/
def touchBlocks (c : Cell) (blocks : List Nat) (s : State) : State :=
  ((blocks.map fun b => 512 * b / mib2).eraseDups).foldl (fun s p => touchPage (p * mib2) c.src.toNat s) s

/-! ### READ (R261) -/

/-- The ring of a block in the doorbell window (R100, R155). -/
def doorbellOf (block : Nat) : Option (Nat × Nat) :=
  if inDoorbells (512 * block) then some ((512 * block - 2 ^ 43) / 4096, block % 8) else none

/-- The lines of a mask are read one by one. -/
def readLines8 (block : Nat) (x : Ext) : List Nat → State → List (Nat × Line) × State
  | [], s => ([], s)
  | i :: r, s =>
    let l := homeRead (8 * block + i) x s
    let rest := readLines8 block x r l.2
    ((i, l.1) :: rest.1, rest.2)

/-- DB_STATE in word 2 of line 0 (R155). -/
def doorbellLine (s : State) (ring : Nat) : Line := dataLine (ringStateWord s ring * 2 ^ 128)

/-- The answer to one block of a READ: status and lines. -/
def readBlock (c : Cell) (x : Ext) (single : Bool) (b : Nat × Nat) (s : State) : Nat × List (Nat × Line) × State :=
  match doorbellOf b.1 with
  | some (ring, part) =>
    if single && part = 0 && b.2 = 1 && (doorbellReadable s ring (cellTenant s c)).isSome then (0, [(0, doorbellLine s ring)], s)
    else (0x10, [], s)
  | none =>
    let st := linesStatus s c false (blockLines b.1 b.2)
    if st ≠ 0 then (st, [], s)
    else
      let r := readLines8 b.1 x (setBits 8 b.2) s
      (0, r.1, r.2)

/-- One DATA cell for each block (R261, R264). -/
def readReplies (c : Cell) (x : Ext) (single : Bool) : Nat → List (Nat × Nat) → State → State
  | _, [], s => s
  | j, b :: r, s =>
    let a := readBlock c x single b s
    readReplies c x single (j + 1) r (reply c 1 a.1 j (fun d => a.2.1.foldl cellWith d) a.2.2)

/-- The status of a block of a READ outside the doorbell window. -/
def blockStatus (s : State) (c : Cell) (b : Nat × Nat) : Nat :=
  if (doorbellOf b.1).isSome then 0 else linesStatus s c false (blockLines b.1 b.2)

/-- A block of a READ in the doorbell window that is not the read of R155. -/
def bellRefused (s : State) (c : Cell) (b : Nat × Nat) : Bool :=
  match doorbellOf b.1 with
  | some (ring, part) =>
    !((readBlocksOf c).length = 1 && part = 0 && b.2 = 1 && (doorbellReadable s ring (cellTenant s c)).isSome)
  | none => false

/-- A READ counts once for each kind of refusal that its blocks met (R103, R148, R155, R263). -/
def countReadRefusals (c : Cell) (s : State) : State :=
  let bs := readBlocksOf c
  let s' := [0x10, 0x11, 0x14].foldl (fun a st => if bs.any (fun b => blockStatus s c b = st) then countRefusal st a else a) s
  if bs.any (bellRefused s c) then refuseDoorbell s' else s'

/-- The lines a READ asks the homes for. -/
def readTargets (s : State) (c : Cell) : List Nat :=
  ((readBlocksOf c).filter fun b => (doorbellOf b.1).isNone &&
    (blockLines b.1 b.2).all (fun ln => entryStatus s c false ln = 0)).flatMap fun b => blockLines b.1 b.2

/-- A READ is performed (R261). -/
def performRead (c : Cell) (x : Ext) (s : State) : State :=
  let good := (readBlocksOf c).filter fun b => (doorbellOf b.1).isNone && blockStatus s c b = 0
  readReplies c x ((readBlocksOf c).length = 1) 0 (readBlocksOf c) (touchBlocks c (good.map (·.1)) (countReadRefusals c s))

/-- A READ is performed, new or again. -/
def finishRead (c : Cell) (x : Ext) (n : Nat) (again : Bool) (s : State) : State :=
  if again then performRead c x s else performed c n (performRead c x s)

/-- What a READ does, new or again. -/
def readHandler (c : Cell) (x : Ext) : Handler :=
  { fresh := fun n s => atHomes c n x false (readTargets s c) (finishRead c x n false) s,
    dup := fun n s => atHomes c n x true (readTargets s c) (finishRead c x n true) s }

/-! ### WRITE, WRITE_MASKED and WRITE_COUNT (R261, R155) -/

/-- Lines written one by one with their payload lines. -/
def writeLines8 (c : Cell) (x : Ext) (lines : List Nat) (s : State) : State :=
  lines.foldl (fun s i => homeWrite (8 * (cellBlock c) + i) allBytes (cellLine c i) x s) s

/-- A duplicate write is acknowledged (R277). -/
def ackDup (c : Cell) : Nat → State → State := fun n s => holdAck c n s

/-- A write that was performed is acknowledged and counts. -/
def ackWrite (c : Cell) (n : Nat) (s : State) : State := performed c n (holdAck c n s)

/-- A write to a doorbell page in no form of R155 is refused. -/
def refuseBell (c : Cell) (n : Nat) (s : State) : State := refuseReq c n 0x10 (refuseDoorbell s)

/-- The lines a request that writes asks the homes for: none of one that is refused before. -/
def writeTargets (s : State) (c : Cell) (lns : List Nat) : List Nat :=
  if (doorbellOf (cellBlock c)).isNone && lns.all (fun ln => entryStatus s c true ln = 0) then lns else []

/-- WRITE: whole lines. -/
def performWriteReq (c : Cell) (x : Ext) (n : Nat) (s : State) : State :=
  if (doorbellOf (cellBlock c)).isSome then refuseBell c n s
  else
    let st := linesStatus s c true (blockLines (cellBlock c) c.lines.toNat)
    if st ≠ 0 then answerCheck c n st s
    else ackWrite c n (writeLines8 c x (setBits 8 c.lines.toNat) (touchBlocks c [(cellBlock c)] s))

/-- A doorbell write: DB_TAIL under bytes 0..7, DB_CQ_HEAD under bytes 8..15 of line 0 (R155). -/
def doorbellWrite (c : Cell) (n ring part : Nat) (s : State) : State :=
  let t := cellTenant s c
  let mask := cellBytes c 64 8
  if part ≠ 0 || c.lines ≠ 1 || (doorbellRing s ring t).isNone then refuseBell c n s
  else if mask = 0xFF then ackWrite c n (doorbellTail ring t (BitVec.ofNat 32 (cellBytes c 0 4)) s)
  else if mask = 0xFF00 then ackWrite c n (doorbellCq ring t (BitVec.ofNat 32 (cellBytes c 8 4)) s)
  else refuseBell c n s

/-- WRITE_MASKED: one line under a byte mask. -/
def performMasked (c : Cell) (x : Ext) (n : Nat) (s : State) : State :=
  match doorbellOf (cellBlock c) with
  | some (ring, part) => doorbellWrite c n ring part s
  | none =>
    let st := linesStatus s c true [(oneLineOf c)]
    if st ≠ 0 then answerCheck c n st s
    else ackWrite c n (homeWrite (oneLineOf c) (cellBytes c 64 8) (cellLine c 0) x (touchBlocks c [(cellBlock c)] s))

/-- The counter address of a WRITE_COUNT. -/
def counterOf (c : Cell) : Nat := cellBytes c 448 8

/-- WRITE_COUNT: checked before any of it is performed; lines first, then their number is added to the counter (R261). -/
def performCount (c : Cell) (x : Ext) (n : Nat) (s : State) : State :=
  if (doorbellOf (cellBlock c)).isSome then refuseBell c n s
  else if (counterOf c) % 8 ≠ 0 then refuseReq c n 0x12 s
  else if inDoorbells (counterOf c) then refuseBell c n s
  else
    let lns := blockLines (cellBlock c) c.lines.toNat
    let st := linesStatus s c true (lns ++ [(counterOf c) / 64])
    if st ≠ 0 then answerCheck c n st s
    else
      let s := writeLines8 c x (setBits 8 c.lines.toNat) (touchBlocks c [(cellBlock c)] s)
      let a := homeAtomicNow ((counterOf c) / 64) 0 true ((counterOf c) % 64) lns.length 0 x s
      ackWrite c n a.2.2

/-! ### ATOMIC (R140-R142, R261, R277) -/

/-- CMP: the old value in payload word 0, marked there when it was poison (R142, R262). -/
def replyCmp (c : Cell) (old : Nat) (poison : Bool) (s : State) : State :=
  reply c 3 0 0 (fun r => { r with payload := BitVec.ofNat 4096 old, plines := BitVec.ofNat 8 (b2n poison),
                                   meta128 := BitVec.ofNat 128 (b2n poison) }) s

/-- The old values of the last 16 atomics are kept (R277). -/
def keepOld (c : Cell) (n old : Nat) (poison : Bool) (s : State) : State :=
  updStream (cellStream c) (fun e =>
    let l := e.olds ++ [(BitVec.ofNat 48 n, BitVec.ofNat 64 old, poison)]
    { e with olds := l.drop (l.length - 16) }) s

/-- ATOMIC performed at the home atomic unit. -/
def performAtomicReq (c : Cell) (x : Ext) (n : Nat) (s : State) : State :=
  let size8 := cellBytes c 17 1 = 8
  let off := cellBytes c 18 1
  if (doorbellOf (cellBlock c)).isSome then refuseBell c n s
  else if off % (if size8 then 8 else 4) ≠ 0 then refuseReq c n 0x12 s
  else
    let st := linesStatus s c true [(oneLineOf c)]
    if st ≠ 0 then answerCheck c n st s
    else
      let s := touchBlocks c [(cellBlock c)] s
      let a := homeAtomicNow (oneLineOf c) (cellBytes c 16 1) size8 off (cellBytes c 0 8) (cellBytes c 8 8) x s
      performed c n (replyCmp c a.1 a.2.1 (keepOld c n a.1 a.2.1 a.2.2))

/-- A duplicate ATOMIC returns its held old value, or ATOMIC_LOST (R277). -/
def atomicDup (c : Cell) (n : Nat) (s : State) : State :=
  match (streamOf s (cellStream c)).bind fun e => e.olds.find? fun o => o.1.toNat = n with
  | some o => replyCmp c o.2.1.toNat o.2.2 s
  | none => replyStatus c 0x13 s

/-! ### Requests of class 0 by their operation -/

/-- The lines a request asks the homes for, by its OP (R261). -/
def homeTargets (s : State) (c : Cell) : List Nat :=
  match c.op.toNat with
  | 1 => readTargets s c
  | 2 => writeTargets s c (blockLines (cellBlock c) c.lines.toNat)
  | 4 =>
    if counterOf c % 8 = 0 && !inDoorbells (counterOf c) then
      writeTargets s c (blockLines (cellBlock c) c.lines.toNat ++ [counterOf c / 64])
    else []
  | 5 => if cellBytes c 18 1 % (if cellBytes c 17 1 = 8 then 8 else 4) = 0 then writeTargets s c [oneLineOf c] else []
  | _ => writeTargets s c [oneLineOf c]

/-- A request is performed, by its OP. -/
def performReq (c : Cell) (x : Ext) (n : Nat) (again : Bool) (s : State) : State :=
  match c.op.toNat with
  | 1 => finishRead c x n again s
  | 2 => performWriteReq c x n s
  | 3 => performMasked c x n s
  | 4 => performCount c x n s
  | 5 => performAtomicReq c x n s
  | _ => s

/-- A new request that writes: at the homes of its lines. -/
def startReq (c : Cell) (x : Ext) (n : Nat) (s : State) : State := atHomes c n x false (homeTargets s c) (performReq c x n false) s

/-- A waiting request is next at every line it waits for. -/
def WaitingCell.isNext (w : WaitingCell) (s : State) : Bool :=
  s.coh.waits.all fun e =>
    !(e.2.any fun r => r.op = .cell (cellStream w.cell) w.num) ||
      ((s.coh.htt.find e.1).isNone && (e.2.head?.map CohReq.op) = some (.cell (cellStream w.cell) w.num))

/-- A waiting request leaves the wait lists and is performed; its lines go on. -/
def serveOne (w : WaitingCell) (s : State) : State :=
  let mine : CohOp := .cell (cellStream w.cell) w.num
  let lns := (s.coh.waits.filter fun e => e.2.any fun r => r.op = mine).map (·.1)
  let s := lns.foldl (fun s ln => setWaits ln ((waitsOf s ln).filter fun r => r.op ≠ mine) s) s
  let s := { s with fab := { s.fab with waiting := s.fab.waiting.erase w } }
  lns.foldl (fun s ln => settleLine ln s) (performReq w.cell w.x w.num w.again s)

/-- Requests whose turn has come are performed, in order of arrival; fuel bounds their number (R134). -/
def serveSome : Nat → State → State
  | 0, s => s
  | n + 1, s =>
    match s.fab.waiting.find? (·.isNext s) with
    | some w => serveSome n (serveOne w s)
    | none => s
def serveWaiting (s : State) : State := serveSome s.fab.waiting.length s

/-- MEM_REQ_READ (R261). -/
def execMemReqRead (t : Ltc) (port : BitVec 4) (c : Cell) (x : Ext) (s : State) : Host.Outcome State Fault Refusal :=
  .next (takeReq port.toNat c 0 1 (fun c => readHandler c x) (adv t s))

/-- MEM_REQ_WRITE (R261). -/
def execMemReqWrite (t : Ltc) (port : BitVec 4) (c : Cell) (x : Ext) (s : State) : Host.Outcome State Fault Refusal :=
  .next (takeReq port.toNat c 0 2 (fun c => { fresh := startReq c x, dup := ackDup c }) (adv t s))

/-- WRITE_MASKED (R261). -/
def execWriteMasked (t : Ltc) (port : BitVec 4) (c : Cell) (x : Ext) (s : State) : Host.Outcome State Fault Refusal :=
  .next (takeReq port.toNat c 0 3 (fun c => { fresh := startReq c x, dup := ackDup c }) (adv t s))

/-- WRITE_COUNT (R261). -/
def execWriteCount (t : Ltc) (port : BitVec 4) (c : Cell) (x : Ext) (s : State) : Host.Outcome State Fault Refusal :=
  .next (takeReq port.toNat c 0 4 (fun c => { fresh := startReq c x, dup := ackDup c }) (adv t s))

/-- MEM_REQ_ATOMIC (R261). -/
def execMemReqAtomic (t : Ltc) (port : BitVec 4) (c : Cell) (x : Ext) (s : State) : Host.Outcome State Fault Refusal :=
  .next (takeReq port.toNat c 0 5 (fun c => { fresh := startReq c x, dup := atomicDup c }) (adv t s))

/-! ### FENCE (R280) -/

/-- A new FENCE: answered when every earlier request has been performed, else pending; a second one is answered NACK. -/
def performFence (c : Cell) (n : Nat) (s : State) : State :=
  match streamOf s (cellStream c) with
  | none => s
  | some e =>
    if e.fence.isSome then replyNack c s
    else
      let f : PendingFence := { num := BitVec.ofNat 48 n, at_ := after s 0, cell := c }
      tryFence (cellStream c) (updStream (cellStream c) (fun e => { e with fence := some f }) s)

/-- A duplicate FENCE is answered at once (R280). -/
def fenceDup (c : Cell) (n : Nat) (s : State) : State :=
  match streamOf s (cellStream c) with
  | none => s
  | some e => replyFence c (decide (e.base.toNat < n)) s

/-- FENCE (R280). -/
def execFence (t : Ltc) (port : BitVec 4) (c : Cell) (s : State) : Host.Outcome State Fault Refusal :=
  .next (takeReq port.toNat c 0 6 (fun c => { fresh := performFence c, dup := fenceDup c }) (adv t s))

/-! ### Contributions (R228) -/

/-- The poison marks of a cell's 64 payload words (R262). -/
def cellMarks (c : Cell) : Nat := packBits ((List.range 8).map fun i => (8, (cellLine c i).poison.toNat))

/-- A contribution cell meets its slot. -/
def performContribution (c : Cell) (n : Nat) (s : State) : State :=
  let a := c.addr.toNat
  let r := contribute (cellTenant s c) (bitsOf a 0 12) (bitsOf a 12 8) (bitsOf a 20 7) c.payload.toNat (cellMarks c) s
  match r.1 with
  | .refused => refuseReq c n 0x10 r.2
  | .notArmed => replyNack c r.2
  | .duplicate => ackWrite c n r.2
  | .combined => ackWrite c n r.2

/-- CONTRIBUTION (R228). -/
def execContribution (t : Ltc) (port : BitVec 4) (c : Cell) (s : State) : Host.Outcome State Fault Refusal :=
  .next (takeReq port.toNat c 5 1 (fun c => { fresh := performContribution c, dup := ackDup c }) (adv t s))

/-! ### Holds, gaps and idle streams (R277, R278, R280) -/

/-- A cell that stands for a stream's requests. -/
def streamCell (s : State) (src : BitVec 12) (enc : Bool) (owner : BitVec 13) (n : Nat) : Cell :=
  { newCell s (sourceId s).toNat 0 2 with src := src, enc := enc, owner := owner, sseq := BitVec.ofNat 16 n }

/-- ACK cells for the numbers held, 1,024 at most in each (R261, R278); fuel bounds the cells. -/
def sendAcks (src : BitVec 12) (enc : Bool) (owner : BitVec 13) : Nat → List Nat → State → State
  | 0, _, s => s
  | f + 1, ns, s =>
    match firstMin (fun n => n) ns with
    | none => s
    | some lo =>
      let grp := ns.filter fun n => decide (n < lo + 1024)
      let p := maskOf 1024 fun i => grp.contains (lo + i)
      sendAcks src enc owner f (ns.filter fun n => decide (lo + 1024 ≤ n))
        (reply (streamCell s src enc owner lo) 2 0 0 (fun r => { r with payload := BitVec.ofNat 4096 p }) s)

/-- ACK_HOLD (R278). -/
def execAckHold (t : Ltc) (src : BitVec 12) (enc : Bool) (owner : BitVec 13) (s : State) : Host.Outcome State Fault Refusal :=
  let s := adv t s
  let k := streamKey src enc owner
  .next (match streamOf s k with
    | none => s
    | some e =>
      if e.acks.isEmpty || decide (now s < e.ackAt.toNat) then s
      else sendAcks src enc owner e.acks.length (e.acks.map BitVec.toNat) (updStream k (fun e => { e with acks := [] }) s))

/-- FENCE_GAP (R280). -/
def execFenceGap (t : Ltc) (src : BitVec 12) (enc : Bool) (owner : BitVec 13) (s : State) : Host.Outcome State Fault Refusal :=
  let s := adv t s
  let k := streamKey src enc owner
  .next (match (streamOf s k).bind (·.fence) with
    | none => s
    | some f =>
      if now s < f.at_.toNat + completionNs s then s
      else
        let s := replyFence f.cell true (updStream k (fun e => { e with fence := none }) s)
        notePeer f.cell f.num.toNat (updStream k (fun e => e.perform f.num.toNat) s))

/-- STREAM_ENTRY_FREE (R277). -/
def execStreamEntryFree (t : Ltc) (src : BitVec 12) (enc : Bool) (owner : BitVec 13) (s : State) :
    Host.Outcome State Fault Refusal :=
  let s := adv t s
  let k := streamKey src enc owner
  .next (match streamOf s k with
    | none => s
    | some e =>
      if e.bits = 0 && e.fence.isNone && e.acks.isEmpty && !s.fab.waiting.any (fun w => cellStream w.cell = k) && decide (e.last.toNat + us (rd s Fld.FAB_CTRL_STREAM_HOLD_US) ≤ now s) then
        syncStreams { s with fab := { s.fab with streams := s.fab.streams.del k } }
      else s)

/-! ### This part's own requests (R279) -/

/-- A request of this part that a reply of a responder answers: (DEST, ENC, OWNER) and the low bits of its number. -/
def Request.answeredBy (r : Request) (c : Cell) (sseq : Nat) : Bool :=
  r.dest = c.src && r.enc = c.enc && r.owner = c.owner && r.num.toNat % 65536 = sseq

/-- A request is named by its stream and number. -/
def Request.is (r : Request) (dest : BitVec 12) (enc : Bool) (owner : BitVec 13) (num : BitVec 48) : Bool :=
  r.dest = dest && r.enc = enc && r.owner = owner && r.num = num

/-- A resend that waits in a queue leaves it. -/
def unqueueResend (r : Request) (s : State) : State :=
  if !r.waiting then s
  else
    let p := r.port.toNat
    let t := r.tenant.toNat
    let q := tqueue s p t
    syncQueued p (setTqueue p t { q with cells := q.cells.filter fun x => !(x.resend && x.num = r.num && outKey x.cell = outKey r.cell) } s)

/-- A request is no longer outstanding. -/
def endRequest (r : Request) (s : State) : State :=
  let s := unqueueResend r s
  { s with fab := { s.fab with reqs := s.fab.reqs.filter fun x => !x.is r.dest r.enc r.owner r.num } }

/-- A request changes. -/
def updRequest (r : Request) (f : Request → Request) (s : State) : State :=
  { s with fab := { s.fab with reqs := s.fab.reqs.map fun x => if x.is r.dest r.enc r.owner r.num then f x else x } }

/-- A reply to nothing that is outstanding (R279). -/
def lateReply (s : State) : State := bump s Fld.FAB_STATUS2_LATE_REPLIES

/-- The nonce of an arriving reply: the number of the request that SSEQ names, requester this part (R341). -/
def replyNonce (s : State) (c : Cell) : Nat :=
  let next := (s.fab.nextNum.get 0 (streamKey c.src c.enc c.owner)).toNat
  cellNonce (extendSeq next c.sseq.toNat) (sourceId s).toNat c.src.toNat (some (bitsOf c.addr.toNat 14 21))

/-- A reply cell is looked at: CHECK, and the rule of R263, whose breach discards it. -/
def takeReply (c : Cell) (op : Nat) (body : Cell → State → State) (s : State) : State :=
  if c.cls.toNat ≠ 1 || c.op.toNat ≠ op then s
  else if !cellOk s (replyNonce s c) c then failCheck s
  else if encMissing s c then s
  else body (plain s (replyNonce s c) c) s

/-- DATA: one block of a READ (R261, R264). -/
def takeDataReply (c : Cell) (s : State) : State :=
  let j := bitsOf c.addr.toNat 8 6
  match s.fab.reqs.find? fun r => r.answeredBy c c.sseq.toNat && r.cell.cls = 0 && r.cell.op = 1 with
  | none => lateReply s
  | some r =>
    if !bitAt r.missing.toNat j then lateReply s
    else
      let m := putBit r.missing.toNat j false
      if m = 0 then endRequest r s else updRequest r (fun x => { x with missing := BitVec.ofNat 64 m }) s

/-- CMP: the reply of an ATOMIC. -/
def takeCmpReply (c : Cell) (s : State) : State :=
  match s.fab.reqs.find? fun r => r.answeredBy c c.sseq.toNat && r.cell.cls = 0 && r.cell.op = 5 with
  | none => lateReply s
  | some r => endRequest r s

/-- DATA, and the CMP reply of R261, which has no row of its own. -/
def execData (t : Ltc) (_port : BitVec 4) (c : Cell) (s : State) : Host.Outcome State Fault Refusal :=
  .next (takeReply c 3 takeCmpReply (takeReply c 1 takeDataReply (adv t s)))

/-- A request whose whole reply is an ACK. -/
def Request.ackable (r : Request) : Bool := r.cell.cls = 5 || r.cell.op = 2 || r.cell.op = 3 || r.cell.op = 4

/-- ACK: bit i acknowledges the request numbered SSEQ + i (R261). -/
def takeAckReply (c : Cell) (s : State) : State :=
  (setBits 1024 c.payload.toNat).foldl (fun s i =>
    match s.fab.reqs.find? fun r => r.answeredBy c ((c.sseq.toNat + i) % 65536) && r.ackable with
    | none => lateReply s
    | some r => endRequest r s) s

/-- ACK (R261). -/
def execAck (t : Ltc) (_port : BitVec 4) (c : Cell) (s : State) : Host.Outcome State Fault Refusal :=
  .next (takeReply c 2 takeAckReply (adv t s))

/-- STATUS: NACK begins a back-off; any other outcome ends the request (R264, R279). -/
def takeStatusReply (c : Cell) (s : State) : State :=
  match s.fab.reqs.find? fun r => r.answeredBy c c.sseq.toNat with
  | none => lateReply s
  | some r =>
    if bitsOf c.addr.toNat 0 8 = 1 then
      let s := bump s Fld.FAB_STATUS2_NACK_RECEIVED
      updRequest r (fun x => { x with nacks := x.nacks + 1, backoff := true, nackAt := after s 0 }) s
    else endRequest r s

/-- STATUS (R264). -/
def execStatus (t : Ltc) (_port : BitVec 4) (c : Cell) (s : State) : Host.Outcome State Fault Refusal :=
  .next (takeReply c 4 takeStatusReply (adv t s))

/-- FENCE_DONE ends a FENCE (R280). -/
def takeFenceReply (c : Cell) (s : State) : State :=
  match s.fab.reqs.find? fun r => r.answeredBy c c.sseq.toNat && r.cell.cls = 0 && r.cell.op = 6 with
  | none => lateReply s
  | some r => endRequest r s

/-- FENCE_DONE (R280). -/
def execFenceDone (t : Ltc) (_port : BitVec 4) (c : Cell) (s : State) : Host.Outcome State Fault Refusal :=
  .next (takeReply c 5 takeFenceReply (adv t s))

/-- A request joins its queue again, with the same number and content (R279, R307, R308). -/
def resend (r : Request) (s : State) : State :=
  joinQueue r.port.toNat r.tenant.toNat ⟨r.cell, r.num, true, r.atom⟩ (updRequest r (fun x => { x with waiting := true }) s)

/-- The outstanding request of a name. -/
def requestOf (s : State) (dest : BitVec 12) (enc : Bool) (owner : BitVec 13) (num : BitVec 48) : Option Request :=
  s.fab.reqs.find? fun r => r.is dest enc owner num

/-- RETRY (R279): RETRY_US after the last sending, RETRIES times. -/
def execRetry (t : Ltc) (dest : BitVec 12) (enc : Bool) (owner : BitVec 13) (num : BitVec 48) (s : State) :
    Host.Outcome State Fault Refusal :=
  let s := adv t s
  .next (match requestOf s dest enc owner num with
    | none => s
    | some r =>
      if r.waiting || r.backoff || decide (rd s Fld.FAB_CTRL_RETRIES < r.sends) || decide (now s < r.lastSent.toNat + us (retryUs s))
      then s
      else resend r (bump s Fld.FAB_STATUS2_RETRIES_SENT))

/-- COMPLETION_TIMEOUT (R279). -/
def execCompletionTimeout (t : Ltc) (dest : BitVec 12) (enc : Bool) (owner : BitVec 13) (num : BitVec 48) (s : State) :
    Host.Outcome State Fault Refusal :=
  let s := adv t s
  .next (match requestOf s dest enc owner num with
    | none => s
    | some r => if now s < r.firstSent.toNat + completionNs s then s else endRequest r s)

end Sys2Proof.Machine
end

