-- ==== Sys2Proof/Machine/Internal.lean ====
section
/-! DEFINITION. Test-mode operations (R249), requests at controllers (R75-R77), scrub reads (R253), uncorrectable words of
part-internal structures (R245, R335), and wakes of stopped islands (R240, R394). -/

namespace Sys2Proof.Machine

/-! ### Check-bit test mode (R249) -/

/-- The tile that test mode names holds no task. -/
def testTileIdle (s : State) : Bool :=
  let die := rd s Fld.ECC_TEST_CTRL_DIE
  let tile := rd s Fld.ECC_TEST_CTRL_TILE
  let e := engCode die (tile / 16) 0 (tile % 16)
  (tasksOn s e).isEmpty && (runqOf s e).isEmpty

/-- An operation on a tile store that is retained sends its wake request; how long it then takes is not shown (R240). -/
def testWakes (s : State) : State :=
  let g := 128 * rd s Fld.ECC_TEST_CTRL_DIE + rd s Fld.ECC_TEST_CTRL_TILE
  if rd s Fld.ECC_TEST_CTRL_TARGET = 1 && (testTarget s (testTileIdle s)).isSome && s.ecc.retained.get false g then
    requestWake g s
  else s

/-- WRITE_RAW. -/
def execWriteRaw (t : Ltc) (s : State) : Host.Outcome State Fault Refusal :=
  let s := testWakes (adv t s)
  .next (testWriteRaw (testTileIdle s) s)

/-- READ_RAW. -/
def execReadRaw (t : Ltc) (s : State) : Host.Outcome State Fault Refusal :=
  let s := testWakes (adv t s)
  .next (testReadRaw (testTileIdle s) s)

/-- READ_DECODED. -/
def execReadDecoded (t : Ltc) (s : State) : Host.Outcome State Fault Refusal :=
  let s := testWakes (adv t s)
  .next (testReadDecoded (testTileIdle s) s)

/-! ### Uncorrectable words of internal structures (R245) -/

/-- The home writes a line as poison and frees its entry. -/
def loseEntry (ln : Nat) (s : State) : State := untrack ln (poisonLine ln s)

/-- The line whose directory entry a word of the reserve belongs to. -/
def reserveLine (s : State) (addr : Nat) : Option Nat := (s.coh.stored.find (slotAt s addr)).map (·.1)

/-- The n-th line a die tracks. -/
def cachedLine (s : State) (die n : Nat) : Option Nat := ((s.coh.dir.keep fun k _ => homeDie s k = die).keys)[n]?

/-- An ELC line is lost: M is written back as poison, S and E are dropped. -/
def loseElc (die n : Nat) (s : State) : State :=
  match (s.coh.elc.keep fun k _ => k / 2 ^ 34 = die)[n]? with
  | none => s
  | some e =>
    let ln := e.1 % 2 ^ 34
    let s := dropElc die ln s
    if e.2.st = .m then sendCoh "WRITEBACK" (ownAid s die) ln (some { e.2.line with poison := 255 }) s else s

/-- A journal or mailbox word is lost: an unfinished command, which one is open, is answered `INTERNAL_ERROR`. -/
def loseCommand (s : State) : State :=
  let open_ := s.ctl.journal.filter fun e => e.st ≠ .replied
  let d := draw s
  match open_[d.1 % max 1 open_.length]? with
  | none => s
  | some e => refuseCmd e.h Status.INTERNAL_ERROR d.2

/-- A key of the secure region, by the model's layout (log entry 43): memory keys of generation parity g of tenant t at
(2 × t + g) × 64, bindings and job keys at 128 KiB + 96 × slot. -/
inductive KeyAt where
  | memory (t g : Nat)
  | job (slot : Nat)
  | none
  deriving DecidableEq, Repr

/-- The key at an offset of the secure region. -/
def keyAtOffset (o : Nat) : KeyAt :=
  if o < 0x20000 then .memory (o / 128) (o / 64 % 2)
  else if o < 0xE0000 then .job ((o - 0x20000) / 96)
  else .none

/-- A tenant's memory key of one generation is lost (R335). -/
def loseMemoryKey (g : Nat) (x : Tenant) : Tenant :=
  if x.keyGen.toNat % 2 = g then { x with keyLost := true }
  else { x with sweep := x.sweep.map fun w => if w.gen.toNat % 2 = g then { w with oldLost := true } else w }

/-- No good copy of a key is left: the key is lost and a fault raised, if the key exists (R335, R411). -/
def loseKey (k : KeyAt) (s : State) : State :=
  let lost (s : State) : State := raiseFault { cls := 3, code := 4, sev := 2 } s
  match k with
  | .none => s
  | .memory t g =>
    if (s.sec.tenants.find t).isNone then s
    else lost { s with sec := { s.sec with tenants := s.sec.tenants.upd t (loseMemoryKey g) } }
  | .job slot =>
    if (s.sec.jobs.find slot).isNone then s
    else lost (endScan { s with sec := { s.sec with jobs := s.sec.jobs.upd slot fun j => { j with lost := true } } })

/-- The other die's copy of a secure word decodes (R335). -/
def otherCopyGood (s : State) (die o : Nat) : Bool :=
  if dies s = 1 then false
  else
    let st := s.mem.sram
    let w := sramLoc o 1 (1 - die) 0 / 8
    match (decodeWord 78 (st.errOf w)).outcome with
    | .uncorrectable => false
    | .poison => false
    | _ => true

/-- An uncorrectable word of the secure region: restored from the other die's copy, else its key is lost (R335). -/
def secureWord (loc : Nat) (s : State) : State :=
  let o := sramOffset loc
  let die := sramDie loc
  if otherCopyGood s die o then
    writeSram loc (s.mem.sram.num (sramLoc o 1 (1 - die) 0) 8) false s
  else loseKey (keyAtOffset o) s

/-- An uncorrectable word of a part-internal structure (R245). -/
def internalWord (s : State) (a : Arr) (addr : Nat) : State :=
  match a with
  | .far => s
  | .stack =>
    if inReserve s (addr / gib) then
      match reserveLine s addr with
      | some ln => loseEntry ln s
      | none => s
    else s
  | .sram =>
    let o := sramOffset addr
    let die := sramDie addr
    match sramStruct addr with
    | 1 =>
      if o < secureBytes then secureWord addr s
      else if o < 0x500000 then updCtx (1024 * die + (o - 0x400000) / 1024) (fun c => { c with lost := true }) s
      else if o < 0x680000 then
        match hotPageAt s die ((o - 0x500000) / 8) with
        | some p => cleanWord addr { s with mem := { s.mem with hot := s.mem.hot.put p 0 } }
        | none => cleanWord addr s
      else if o < 0x6C0000 then cleanWord addr s
      else if 0x700000 ≤ o && o < 0xF00000 then
        let slot := 2048 * die + (o - 0x700000) / 4096
        match runAt s slot with
        | some (n, r) =>
          putRun n { r with poison := r.poison.put (512 * (slot - n) + (o - 0x700000) % 4096 / 8) true } s
        | none => s
      else s
    | 2 => loseElc die (o / 64) s
    | 3 =>
      match cachedLine s die (o / 32) with
      | some ln => loseEntry ln s
      | none => s
    | 6 => loseCommand s
    | 7 => loseCommand s
    | _ => s

/-- The uncorrectable words of an access, where they lie in internal structures. -/
def internalWords (a : Arr) (ws : List Nat) (s : State) : State :=
  ws.foldl (fun s w => if isInternal s a w then internalWord s a w else s) s

/-! ### Requests at the memory controllers (R67, R75-R79) -/

/-- A line belongs to a controller. -/
def lineAtUnit (s : State) (u : MemUnit) (ln : Nat) : Bool :=
  match u with
  | .stack n => decide (64 * ln < stackBytes s) && (placeOf s (64 * ln)).unit = n.toNat
  | .ddr n => decide (64 * ln < farBytes s) && farChannelOf s (64 * ln) = n.toNat

/-- A beat of a DDR channel: the two subchannels' lanes (R72). -/
def ddrBeat (cw : Nat) : BitVec 80 :=
  let data := bitsOf cw 14 64
  let check := bitsOf cw 0 14
  BitVec.ofNat 80 (packBits [(32, data), (8, check), (32, data / 2 ^ 32), (6, check / 2 ^ 8), (2, bitsOf cw 78 2)])

/-- The 16 beats of the burst that carries two lines of the far tier, as their words are stored. -/
def ddrBurst (s : State) (ln : Nat) : List (BitVec 80) :=
  (List.range 16).map fun i => ddrBeat (storedWord s .far (64 * ln + 8 * i))

/-- The lines of a request, each with its word mask and the value to be written: one of a stack, the two of a DDR burst. -/
def reqLines (r : MemReq) : MemUnit → List (Nat × Nat × Line)
  | .stack _ => [(r.line.toNat, bitsOf r.mask.toNat 0 8, r.val)]
  | .ddr _ => let ln := r.line.toNat / 2 * 2; [(ln, bitsOf r.mask.toNat 0 8, r.val), (ln + 1, bitsOf r.mask.toNat 8 8, r.val2)]

/-- The beats of a DDR access leave or reach the DIMMs. -/
def emitBurst (u : MemUnit) (r : MemReq) (s : State) : State :=
  match u with
  | .stack _ => s
  | .ddr _ => emit (.burst u (ddrBurst s (r.line.toNat / 2 * 2))) s

/-- One line of a request is read for the requester. -/
def serveRead (u : MemUnit) (s : State) (x : Nat × Nat × Line) : State :=
  let a := unitArr u
  let y := readUnder a x.1 (keyOf s a x.1) s
  internalWords a y.2.1 (emit (.memData u (BitVec.ofNat 40 x.1) y.1) y.2.2)

/-- One line of a request is written where its mask says. -/
def serveWrite (u : MemUnit) (s : State) (x : Nat × Nat × Line) : State :=
  if x.2.1 = 0 then s else writeUnder (unitArr u) x.1 (keyOf s (unitArr u) x.1) x.2.1 x.2.2 s

/-- What a request does to memory: the words of its mask are written, or its lines are read for the requester. -/
def serveRequest (u : MemUnit) (r : MemReq) (s : State) : State :=
  if r.write then emitBurst u r ((reqLines r u).foldl (serveWrite u) s)
  else (reqLines r u).foldl (serveRead u) (emitBurst u r s)

/-- The tenant whose turns a request issues in (R351): that of its line, or of the far frame it lies in. -/
def reqTenant (s : State) (u : MemUnit) (r : MemReq) : Nat :=
  match u with
  | .stack _ => lineTenant s r.line.toNat
  | .ddr _ => ((s.mem.farUsed.find (64 * r.line.toNat / mib2)).map fun e => e.1.toNat).getD 1024

/-- MEM_REQUEST (R76): the request wakes its unit, enters its queue, is compared for in-order mode, and is served. -/
def execMemRequest (t : Ltc) (u : MemUnit) (r : MemReq) (s : State) : Host.Outcome State Fault Refusal :=
  let s := adv t s
  let k := unitNum u
  .next (if unitExists s u && lineAtUnit s u r.line.toNat then
      let b := bankRow s (unitArr u) (64 * r.line.toNat)
      serveRequest u r (unitEnter k (unitDie u) b.1 b.2 r.write (reqTenant s u r) (unitWake k s))
    else s)

/-! ### Scrub reads (R253, R254) -/

/-- What a scrubber names exists on the part. -/
def scrubExists (s : State) : ScrubUnit → Bool
  | .stack ln => decide (64 * ln.toNat < stackBytes s)
  | .ddr ln => rd s Fld.MEM_CONFIG_FAR_STATE = 2 && decide (64 * ln.toNat < farBytes s)
  | .sram w => decide (sramStruct w.toNat ≤ 8) && (decide (2 ≤ sramDie w.toNat) || decide (sramDie w.toNat < dies s))

/-- The unit of a scrubber has no queued request, and none of its banks owes the refreshes that go first (R78, R253). -/
def scrubIdle (s : State) (x : ScrubAt) : Bool :=
  x.arr = .sram || ((unitOf s x.id).queue.isEmpty && (List.range 64).all fun b => decide (owed s x.id b < 8))

/-- SCRUB_READ (R253): a scrubber reads its next word, or goes past what it skips. -/
def execScrubRead (t : Ltc) (u : ScrubUnit) (s : State) : Host.Outcome State Fault Refusal :=
  let s := adv t s
  let x := scrubAt s u
  .next (if scrubExists s u && scrubRuns s x && (scrubSkips s x || scrubIdle s x) then
      if scrubSkips s x then scrubAdvance x s
      else
        let r := scrubWords x s
        scrubAdvance x (internalWords x.arr r.1 r.2)
    else s)

/-! ### Anneal (R251, R252) -/

/-- Every word of a 4 KiB region is corrected on the way through the save buffer; uncorrectable words are saved as poison, and those
of internal structures have the effect R245 gives. -/
def annealCopy (base : Nat) (s : State) : State :=
  let ws := (s.mem.sram.errs.keys).filter fun w => decide (base ≤ 8 * w ∧ 8 * w < base + 4096)
  ws.foldl (fun s w =>
    let r := readSram (8 * w) s
    internalWords .sram (if r.2.2.1 then [8 * w] else []) r.2.2.2) s

/-- One pass over the next region of a group, in which `badRows` rows and `badCols` bit-columns fail (R251). -/
def annealPass (g badRows badCols : Nat) (s : State) : State :=
  let r := s.ecc.annealAt.get 0 g
  let s := annealCopy (groupBase g + 4096 * r) s
  let key := 64 * g + r / 64
  let used := sparesUsed s key
  let soft := s.ecc.spares.get (0, 0) key
  let rows := min badRows (16 - used.1)
  let cols := min badCols (4 - used.2)
  let s := { s with ecc := { s.ecc with
    annealAt := s.ecc.annealAt.set 0 g ((r + 1) % groupRegions g)
    annealed := s.ecc.annealed.put g (after s 0)
    spares := s.ecc.spares.set (0, 0) key (soft.1 + rows, soft.2 + cols) } }
  let s := bumpBy s Fld.ECC_ANNEAL_STATUS_SOFT_REPAIRS (rows + cols)
  let s := bump s Fld.ECC_ANNEAL_STATUS_PASSES
  sparesExhausted g ((badRows - rows) + (badCols - cols)) s

/-- ANNEAL_PASS (R251). -/
def execAnnealPass (t : Ltc) (group : BitVec 9) (badRows badCols : BitVec 8) (s : State) : Host.Outcome State Fault Refusal :=
  let s := adv t s
  .next (if annealRuns s group.toNat then annealPass group.toNat badRows.toNat badCols.toNat s else s)

/-! ### Wakes (R240, R394) -/

/-- The number under which an island's wake is listed: tiles by macro group, then clusters, then Anvil islands. -/
def islandNum : Island → Nat
  | .tile d n => 128 * d.toNat + n.toNat
  | .cluster d c => 256 + 8 * d.toNat + c.toNat
  | .anvil d => 272 + d.num

/-- WAKE_REQUEST (R394). -/
def execWakeRequest (t : Ltc) (i : Island) (s : State) : Host.Outcome State Fault Refusal :=
  .next (requestWake (islandNum i) (adv t s))

/-- The rails of a fabric die's domain are up: step 2 of R385 is complete and no reset holds the die. -/
def domainUp (s : State) (d : FDie) : Bool :=
  let r (n : Nat) : Bool := s.pwr.rails.getLsbD (n + d.num)
  r 4 && r 6 && r 8 && r 10 && !(if d = .f0 then s.pwr.downA else s.pwr.downB)

/-- A woken island runs: a tile leaves retention; an Anvil in OFF enters LOADER once its rails are up (R355, R394). -/
def wakeIsland (i : Island) (s : State) : State :=
  let n := islandNum i
  let s := { s with ecc := { s.ecc with wakes := s.ecc.wakes.del n } }
  match i with
  | .tile _ _ => { s with ecc := { s.ecc with retained := s.ecc.retained.del n } }
  | .cluster _ _ => s
  | .anvil d => if (anvil s d).state = 0 then setAnvil d { anvil s d with state := 1, healthy := false, fw := 0 } s else s

/-- A wake may end: its time has come, and an Anvil island's supply is there. -/
def wakeDue (s : State) (i : Island) : Bool :=
  match s.ecc.wakes.find (islandNum i) with
  | none => false
  | some t => decide (t.toNat ≤ now s) && (match i with | .anvil d => domainUp s d | _ => true)

/-- WAKE_COMPLETE (R240). -/
def execWakeComplete (t : Ltc) (i : Island) (s : State) : Host.Outcome State Fault Refusal :=
  let s := adv t s
  .next (if wakeDue s i then wakeIsland i s else s)

end Sys2Proof.Machine
end

