-- ==== Sys2Proof/Machine/Codec.lean ====
section
/-! DEFINITION. The codecs of compressed units (R83-R86): LZ4, Planish, and the
form a unit is stored in. -/

namespace Sys2Proof.Machine

/-! ### Units (R81, R83) -/

/-- The 4,096 data bytes of a unit's 64 lines. -/
def unitData (ls : List Line) : List Byte := ls.flatMap fun l => leBytes 64 l.data.toNat

/-- The 128 metadata bytes of a unit: the bits of word i at 2i. -/
def unitMeta (ls : List Line) : List Byte := ls.flatMap fun l => leBytes 2 l.meta2.toNat

/-- A unit whose data and metadata are all zero. -/
def unitZero (ls : List Line) : Bool := ls.all fun l => l.data = 0 && l.meta2 = 0 && l.poison = 0

/-- Some word of a unit is poison. -/
def unitPoisoned (ls : List Line) : Bool := ls.any fun l => l.poison ≠ 0

/-- n lines from data bytes and metadata bytes. -/
def linesOf (n : Nat) (data md : List Byte) : List Line :=
  (List.range n).map fun i =>
    { data := BitVec.ofNat 512 (leNat ((data.drop (64 * i)).take 64)), meta2 := BitVec.ofNat 16 (leNat ((md.drop (2 * i)).take 2)),
      poison := 0 }

/-! ### LZ4 (R85) -/

/-- A length extended in steps of 255; none where the input ends first. -/
def lz4Length : List Byte → Nat → Option (Nat × List Byte)
  | [], _ => none
  | b :: r, n => if b.toNat = 255 then lz4Length r (n + 255) else some (n + b.toNat, r)

/-- A length that a token's nibble begins. -/
def lz4Nibble (nib : Nat) (inp : List Byte) : Option (Nat × List Byte) :=
  if nib = 15 then lz4Length inp 15 else some (nib, inp)

/-- n bytes of a match, one after another; the output is held latest byte first. -/
def lz4Match (off : Nat) : Nat → List Byte → List Byte
  | 0, out => out
  | n + 1, out => lz4Match off n (out.getD (off - 1) 0 :: out)

/-- Sequences decoded until the output holds 4,096 bytes; fuel bounds their number. -/
def lz4Run : Nat → List Byte → List Byte → Option (List Byte)
  | 0, _, _ => none
  | f + 1, inp, out =>
    match inp with
    | [] => none
    | tok :: r =>
      match lz4Nibble (tok.toNat / 16) r with
      | none => none
      | some (lit, r) =>
        let out := (r.take lit).reverse ++ out
        if r.length < lit || decide (4096 < out.length) then none
        else if out.length = 4096 then some out.reverse
        else
          match r.drop lit with
          | lo :: hi :: r =>
            let off := lo.toNat + 256 * hi.toNat
            match lz4Nibble (tok.toNat % 16) r with
            | none => none
            | some (m, r) =>
              if off = 0 || decide (out.length < off) || decide (4095 < off) || decide (4096 < out.length + m + 4) then none
              else
                let out := lz4Match off (m + 4) out
                if out.length = 4096 then some out.reverse else lz4Run f r out
          | _ => none

/-- The decoder of R85. -/
def lz4Decode (payload : List Byte) : Option (List Byte) := lz4Run (payload.length + 1) payload []

/-- The bytes by which a length of n or more exceeds its nibble. -/
def lz4Extend (n : Nat) : List Byte :=
  if n < 15 then [] else List.replicate ((n - 15) / 255) 255 ++ [BitVec.ofNat 8 ((n - 15) % 255)]

/-- A sequence: token, literals, and, unless it is the last, the offset and length of a match. -/
def lz4Sequence (lits : List Byte) (m : Option (Nat × Nat)) : List Byte :=
  let n := lits.length
  let code := match m with | some x => min 15 (x.2 - 4) | none => 0
  BitVec.ofNat 8 (16 * min 15 n + code) :: lz4Extend n ++ lits ++
    (match m with | some x => leBytes 2 x.1 ++ lz4Extend (x.2 - 4) | none => [])

/-- How many bytes two lists share at their beginning, up to n. -/
def sharedLen : Nat → List Byte → List Byte → Nat
  | n + 1, a :: l, b :: r => if a = b then 1 + sharedLen n l r else 0
  | _, _, _ => 0

/-- The match at position p of a unit: what the one probe of the hash table names, where it repeats at least 4 bytes; it ends
before the last 5 bytes. The hash function is not stated, so what the probe names is open (log entry 24). -/
def lz4Probe (data : List Byte) (p : Nat) : Option (Nat × Nat) :=
  let c := Config.lz4Probe (leNat data) p
  let n := if c < p then sharedLen (4091 - p) (data.drop c) (data.drop p) else 0
  if c < p && p - c ≤ 4095 && 4 ≤ n then some (p - c, n) else none

/-- The encoder from position p on, with the literals since the last match, latest first. The last match starts at least 12
bytes before the end. -/
def lz4Encode (data : List Byte) : Nat → Nat → List Byte → List Byte
  | 0, p, lits => lz4Sequence (lits.reverse ++ data.drop p) none
  | f + 1, p, lits =>
    if 4084 < p then lz4Sequence (lits.reverse ++ data.drop p) none
    else
      match lz4Probe data p with
      | some m => lz4Sequence lits.reverse (some m) ++ lz4Encode data f (p + m.2) []
      | none => lz4Encode data f (p + 1) (data.getD p 0 :: lits)

/-! ### Planish (R86) -/

/-- A format: bytes of an element, bits of mantissa and exponent, elements of a group. -/
structure PlanishFmt where
  bytes : Nat
  mant : Nat
  exp : Nat
  els : Nat
  deriving DecidableEq, Repr

/-- The formats of PF 1 to 3. -/
def planishFmt (pf : Nat) : PlanishFmt :=
  match pf with
  | 1 => ⟨2, 7, 8, 32⟩
  | 2 => ⟨1, 3, 4, 64⟩
  | _ => ⟨1, 2, 5, 64⟩

/-- Exponent, and sign and mantissa, of an element. -/
def PlanishFmt.expOf (p : PlanishFmt) (x : Nat) : Nat := bitsOf x p.mant p.exp
def PlanishFmt.smOf (p : PlanishFmt) (x : Nat) : Nat := bitsOf x p.mant (p.exp + 1) / 2 ^ p.exp * 2 ^ p.mant + bitsOf x 0 p.mant

/-- An element from exponent and SM value. An exponent beyond its field, which the decoder is not said to refuse, is cut to the
field (log entry 24). -/
def PlanishFmt.join (p : PlanishFmt) (e sm : Nat) : Nat :=
  bitsOf sm 0 p.mant + e % 2 ^ p.exp * 2 ^ p.mant + bitsOf sm p.mant 1 * 2 ^ (p.mant + p.exp)

/-- Groups of a unit, bytes of a group, bytes of its SM values. -/
def PlanishFmt.groups (p : PlanishFmt) : Nat := 4096 / (p.els * p.bytes)
def PlanishFmt.smBytes (p : PlanishFmt) : Nat := p.els * (p.mant + 1) / 8

/-- The elements of group g of a unit's data bytes. -/
def PlanishFmt.group (p : PlanishFmt) (data : List Byte) (g : Nat) : List Nat :=
  (List.range p.els).map fun i => leNat ((data.drop ((g * p.els + i) * p.bytes)).take p.bytes)

/-- The width of a group's deltas. -/
def PlanishFmt.width (p : PlanishFmt) (xs : List Nat) : Nat :=
  let es := xs.map p.expOf
  bitLen (es.foldl max 0 - es.foldl min (2 ^ p.exp - 1))

/-- A group coded: B and w, the deltas, the SM values. -/
def PlanishFmt.code (p : PlanishFmt) (xs : List Nat) : List Byte :=
  let w := p.width xs
  let b := (xs.map p.expOf).foldl min (2 ^ p.exp - 1)
  BitVec.ofNat 8 b :: BitVec.ofNat 8 w :: leBytes (p.els * w / 8) (packBits (xs.map fun x => (w, p.expOf x - b))) ++
    leBytes p.smBytes (packBits (xs.map fun x => (p.mant + 1, p.smOf x)))

/-- The payload of a unit. -/
def planishEncode (pf : Nat) (data : List Byte) : List Byte :=
  let p := planishFmt pf
  (List.range p.groups).flatMap fun g => p.code (p.group data g)

/-- One group decoded: its bytes and the rest of the payload. -/
def planishGroup (p : PlanishFmt) (inp : List Byte) : Option (List Byte × List Byte) :=
  match inp with
  | b :: hdr :: r =>
    let w := hdr.toNat % 16
    let n := p.els * w / 8
    if 16 ≤ hdr.toNat || decide (p.exp < w) || decide (r.length < n + p.smBytes) then none
    else
      let d := leNat (r.take n)
      let sm := leNat ((r.drop n).take p.smBytes)
      let out := (List.range p.els).flatMap fun i =>
        leBytes p.bytes (p.join (b.toNat + bitsOf d (w * i) w) (bitsOf sm ((p.mant + 1) * i) (p.mant + 1)))
      some (out, r.drop (n + p.smBytes))
  | _ => none

/-- Groups decoded one after another; the payload must end with the last. -/
def planishRun (p : PlanishFmt) : Nat → List Byte → Option (List Byte)
  | 0, inp => if inp.isEmpty then some [] else none
  | g + 1, inp =>
    match planishGroup p inp with
    | none => none
    | some (out, r) => (planishRun p g r).map fun l => out ++ l

/-- The decoder of R86. -/
def planishDecode (pf : Nat) (payload : List Byte) : Option (List Byte) :=
  let p := planishFmt pf
  planishRun p p.groups payload

/-! ### Storing a unit (R83, R84) -/

/-- The payload of a unit under a destination code 2..5 (R85, R86, R88). -/
def payloadOf (code : Nat) (data : List Byte) : List Byte :=
  if code = 2 then lz4Encode data 4096 0 [] else planishEncode (code - 2) data

/-- The bytes of a compressed unit: header, metadata where some is set, payload (R83). -/
def unitBytes (code : Nat) (ls : List Line) : List Byte :=
  let md := ls.any fun l => l.meta2 ≠ 0
  let pay := payloadOf code (unitData ls)
  let head := packBits [(12, pay.length), (2, if code = 2 then 1 else 2), (2, if code = 2 then 0 else code - 2), (1, b2n md), (15, 0),
    (32, crc32 (unitData ls ++ unitMeta ls)), (64, 0)]
  leBytes 16 head ++ (if md then unitMeta ls else []) ++ pay

/-- How a unit is stored. -/
structure UnitForm where
  sectors : Nat
  codec : Nat
  lines : List Line
  deriving DecidableEq, Repr

/-- SECTORS, CODEC and the lines of a unit's sectors under a destination code (R84). A unit with a poisoned word is stored raw,
which keeps it; `pad` fills what the last sector has left, with metadata bits 0 (log entry 24). -/
def unitForm (code : Nat) (ls : List Line) (pad : Nat) : UnitForm :=
  if unitZero ls then ⟨0, 0, []⟩
  else if unitPoisoned ls then ⟨8, 0, ls⟩
  else
    let bytes := unitBytes code ls
    let n := ceilDiv bytes.length 512
    if bytes.length ≤ 3584 then ⟨n, if code = 2 then 1 else 2, linesOf (8 * n) (bytes ++ leBytes 512 pad) []⟩ else ⟨8, 0, ls⟩

/-- The data bytes a payload decodes to under the header's CODEC and PF. -/
def decodePayload (codec pf : Nat) (payload : List Byte) : Option (List Byte) :=
  if codec = 1 then lz4Decode payload else if codec = 2 && pf ≠ 0 then planishDecode pf payload else none

/-- The lines of a compressed unit from its bytes: none where the decoder refuses it, its output is not 4,096 bytes or the CRC
does not match (R87). -/
def decodeUnit (bytes : List Byte) : Option (List Line) :=
  let h := leNat (bytes.take 16)
  let skip := if bitAt h 16 then 144 else 16
  let md := if bitAt h 16 then (bytes.drop 16).take 128 else List.replicate 128 0
  let pay := (bytes.drop skip).take (bitsOf h 0 12)
  if pay.length < bitsOf h 0 12 then none
  else
    match decodePayload (bitsOf h 12 2) (bitsOf h 14 2) pay with
    | none => none
    | some d => if d.length = 4096 && crc32 (d ++ md) = bitsOf h 32 32 then some (linesOf 64 d md) else none

end Sys2Proof.Machine
end

