-- ==== Sys2Proof/Machine/Tier.lean ====
section
/-! DEFINITION. The landing list, sector regions, page moves between tiers (R81-R93), and key rotation (R336-R338). -/

namespace Sys2Proof.Machine

/-! ### The landing list and sector regions (R81, R89, R98) -/

/-- A frame pushed is dropped (R89): in a mapped ingot or a sector region, already listed, the list full, or no frame of the part. -/
def landDropped (s : State) (f : Nat) : Bool :=
  decide (stackBytes s ≤ f * mib2) || (ingotAt s (f / 512)).isSome || inRegion s 0 (f / 512) ||
    s.mem.landing.any (fun x => x.toNat = f) || decide (4096 ≤ s.mem.landing.length)

/-- A frame joins the landing list; an empty period ends. -/
def landAppend (f : Nat) (s : State) : State :=
  { s with mem := { s.mem with landing := s.mem.landing ++ [BitVec.ofNat 19 f], noticedEmpty := false } }

/-- A frame is pushed onto the landing list, or dropped and counted (R89). -/
def landPush (f : Nat) (s : State) : State :=
  if landDropped s f then bump s Fld.MEM_TIER_STATUS_LAND_DROPPED else landAppend f s

/-- MEM_LAND_PUSH (R89). -/
def execMemLandPush (t : Ltc) (frame : BitVec 19) (s : State) : Host.Outcome State Fault Refusal :=
  .next (landPush frame.toNat (adv t s))

/-- A sector region holds units: IN_USE (R98). -/
def regionHolds (s : State) (n : Nat) : Bool :=
  let lo := regionBase s n * 2 ^ 21
  let hi := lo + regionSize s n * 2 ^ 21
  regionLive s n && s.mem.runs.keys.any fun k =>
    k / 2 ^ 40 = regionTier s n && decide (lo ≤ k % 2 ^ 40 ∧ k % 2 ^ 40 < hi)

/-- A region with these fields would overlap an ingot, another region or the reserved far frame (R98). -/
def regionConflict (s : State) (n tier base size : Nat) : Bool :=
  (tier = 0 && s.mem.ingots.vals.any fun i => decide (i.base.toNat < base + size ∧ base < i.base.toNat + i.count.toNat)) ||
    ((List.range 8).any fun m => m ≠ n && regionLive s m && regionTier s m = tier &&
      decide (regionBase s m < base + size ∧ base < regionBase s m + regionSize s m)) ||
    (tier = 1 && decide (base * gib < farBytes s ∧ farBytes s - mib2 < (base + size) * gib))

/-- A far frame whose segment was lost to masked self-refresh and that nothing has zeroed since (R80). -/
def farFrameLost (s : State) (f : Nat) : Bool :=
  s.mem.lost.any fun e =>
    decide (s.mem.zeroed.get 0 (2 ^ 20 + f) < e.2) && decide (384 ≤ e.1 / 8) && e.1 % 8 = farSegmentOf s (f * mib2)

/-- The far frames of a run that were lost are zeroed (R80). -/
def zeroLostFar (base count : Nat) (s : State) : State :=
  if s.mem.lost.all fun e => decide (e.1 / 8 < 384) then s
  else (List.range count).foldl (fun s i => if farFrameLost s (base + i) then zeroFarFrame (base + i) s else s) s

/-- A sector region is written: a clear of VALID while it holds units is ignored (R93); lost memory is zeroed before its
bitmap is placed (R80). -/
def sectorRegionWrite (n v : Nat) (s : State) : State :=
  let valid := bitsOf v 0 1
  let tier := bitsOf v 1 1
  let base := bitsOf v 16 16
  let size := bitsOf v 32 16
  if valid = 0 && regionHolds s n then s
  else
    let conflict := valid = 1 && regionConflict s n tier base size
    let s := wr (wr s (Fld.MEM_SECTOR_REGION_VALID n) valid) (Fld.MEM_SECTOR_REGION_TIER n) tier
    let s := wr (wr s (Fld.MEM_SECTOR_REGION_BASE_GIB n) base) (Fld.MEM_SECTOR_REGION_SIZE_GIB n) size
    let s := wr s (Fld.MEM_SECTOR_REGION_CONFLICT n) (b2n conflict)
    if valid = 1 && !conflict then (if tier = 0 then zeroLost base size s else zeroLostFar (512 * base) (512 * size) s) else s

/-- MEM_SECTOR_REGION_WRITE (R81, R93). -/
def execMemSectorRegionWrite (t : Ltc) (n : BitVec 3) (v : Word) (s : State) : Host.Outcome State Fault Refusal :=
  .next (sectorRegionWrite n.toNat v.toNat (adv t s))

/-! ### Allocation (R74, R81, R109): the lowest free place -/

/-- A far frame lies in a live sector region: the frame after it. -/
def farRegionEnd (s : State) (f : Nat) : Option Nat :=
  ((List.range 8).find? fun n => regionCovers s 1 (f / 512) n).map fun n => (regionBase s n + regionSize s n) * 512

/-- The lowest free far frame from f on; fuel bounds the frames passed over. -/
def freeFarFrom (s : State) : Nat → Nat → Option Nat
  | 0, _ => none
  | n + 1, f =>
    if farFrames s ≤ f + 1 then none
    else
      match farRegionEnd s f with
      | some e => freeFarFrom s n e
      | none => if (s.mem.farUsed.find f).isSome then freeFarFrom s n (f + 1) else some f

/-- The lowest free far frame, where the far tier is ready. -/
def freeFar (s : State) : Option Nat :=
  if rd s Fld.MEM_CONFIG_FAR_STATE = 2 then freeFarFrom s (s.mem.farUsed.length + 9) 0 else none

/-- Bytes of a tier. -/
def tierBytes (s : State) (tier : Nat) : Nat := if tier = 0 then stackBytes s else farBytes s

/-- The run that overlaps n sectors from c in a tier: its end. -/
def runOver (runs : Tab Nat) (tier c n : Nat) : Option Nat :=
  (runs.find? fun e => decide (e.1 < secKey tier (c + n) ∧ secKey tier c < e.1 + e.2)).map fun e => e.1 + e.2 - secKey tier 0

/-- The lowest place for n sectors at a multiple of m, from c up to hi; fuel bounds the runs passed over. -/
def freeRunFrom (runs : Tab Nat) (tier n m hi : Nat) : Nat → Nat → Option Nat
  | 0, _ => none
  | f + 1, c =>
    let c := ceilDiv c m * m
    if hi < c + n then none
    else
      match runOver runs tier c n with
      | some e => freeRunFrom runs tier n m hi f e
      | none => some c

/-- The lowest place for n sectors in a region, after its bitmap. -/
def freeRunIn (s : State) (runs : Tab Nat) (n m r : Nat) : Option Nat :=
  let tier := regionTier s r
  if !regionLive s r || (tier = 1 && rd s Fld.MEM_CONFIG_FAR_STATE ≠ 2) then none
  else
    let lo := regionBase s r * 2 ^ 21 + regionSize s r * 512
    let hi := min ((regionBase s r + regionSize s r) * 2 ^ 21) (tierBytes s tier / 512)
    (freeRunFrom runs tier n m hi (runs.length + 1) lo).map (secKey tier)

/-- n consecutive sectors at a multiple of m in the first region with room: tier and sector as a key. -/
def freeRun (s : State) (runs : Tab Nat) (n m : Nat) : Option Nat :=
  (List.range 8).findSome? (freeRunIn s runs n m)

/-! ### Copying (R87, R90, R91, R333) -/

/-- The key of memory newly written for a tenant: its current generation (R336). -/
def newItemKey (s : State) (t : Nat) : KeyRes :=
  if s.sec.tampered then .lost
  else
    match s.sec.tenants.find t with
    | none => .lost
    | some x => if x.keyLost then .lost else .key x.key

/-- The value of a line whose copies are recalled. -/
def takeLine (ln : Nat) (s : State) : Line × State :=
  let r := recallLine ln noExt s
  match r.1 with
  | some l => (l, r.2)
  | none => readLine .stack ln r.2

/-- n lines from ln on, recalled and read. -/
def takeLines : Nat → Nat → State → List Line × State
  | 0, _, s => ([], s)
  | n + 1, ln, s =>
    let r := takeLine ln s
    let q := takeLines n (ln + 1) r.2
    (r.1 :: q.1, q.2)

/-- Lines written through the home from ln on. -/
def placeLines : List Line → Nat → State → State
  | [], _, s => s
  | l :: r, ln, s => placeLines r (ln + 1) (homeWrite ln (2 ^ 64 - 1) l noExt s)

/-- A line of zeros, and one of poison. -/
def zeroLine : Line := { data := 0, meta2 := 0, poison := 0 }
def poisonedLine : Line := { data := 0, meta2 := 0, poison := 255 }

/-- The channel of a line of the far tier was lost (R386). -/
def farLineLost (s : State) (ln : Nat) : Bool := bitAt (rd s Fld.FLT_DEGRADED_DDR_LOST) (farChannelOf s (64 * ln))

/-- A line of the far tier on the way to a frame: poison where its channel is lost or a word of it is uncorrectable. -/
def farLine (ln : Nat) (s : State) : Line × State :=
  if farLineLost s ln then (poisonedLine, s)
  else
    let r := readUnder .far ln (heldKey s .far ln) s
    (if r.2.1.isEmpty then r.1 else { r.1 with poison := 255 }, r.2.2)

/-- n lines of the far tier from ln on. -/
def farLines : Nat → Nat → State → List Line × State
  | 0, _, s => ([], s)
  | n + 1, ln, s =>
    let r := farLine ln s
    let q := farLines n (ln + 1) r.2
    (r.1 :: q.1, q.2)

/-- A record of a move that wrote poison (R87, R411). -/
def movePoisonFault (f : Nat) (s : State) : State :=
  raiseFault { cls := 3, code := 2, sev := 2, kind := 7, index := (homeOf s (f * mib2)).1 } s

/-- The array of a tier. -/
def tierArr (tier : Nat) : Arr := if tier = 0 then .stack else .far

/-- n lines of a unit's sectors from its line i on: poison where their channel is lost or a word is uncorrectable (R87), and whether
a channel was. -/
def sectorLines (t : Nat) (u : UnitEntry) : Nat → Nat → State → List Line × Bool × State
  | 0, _, s => ([], false, s)
  | n + 1, i, s =>
    let ln := 8 * u.sector + i
    let gone := u.tier = 1 && farLineLost s ln
    let r := readUnder (tierArr u.tier) ln (tenantKey s t (unitItem u.tier u.sector) i) s
    let x : Line × State := if gone then (poisonedLine, s) else (if r.2.1.isEmpty then r.1 else { r.1 with poison := 255 }, r.2.2)
    let q := sectorLines t u n (i + 1) x.2
    (x.1 :: q.1, gone || q.2.1, q.2.2)

/-- The 64 lines a unit's sectors give, and whether R87 applies to them: a compressed unit with a poisoned word is one the decoder
refuses. -/
def unitLines (u : UnitEntry) (ls : List Line) (gone : Bool) : List Line × Bool :=
  if u.sectors = 0 then (List.replicate 64 zeroLine, false)
  else if u.codec = 0 then (ls, gone)
  else
    match if unitPoisoned ls then none else decodeUnit (unitData ls) with
    | some out => (out, false)
    | none => (List.replicate 64 poisonedLine, true)

/-- The units of a compressed page go to a frame one by one. -/
def placeUnits (f t : Nat) : Nat → List UnitEntry → State → State
  | _, [], s => s
  | i, u :: r, s =>
    let y := sectorLines t u (8 * u.sectors) 0 s
    let x := unitLines u y.1 y.2.1
    let s := placeLines x.1 (f * 2 ^ 15 + 64 * i) y.2.2
    placeUnits f t (i + 1) r (if x.2 then movePoisonFault f s else s)

/-- A page's far frame or units are copied to a stack frame (R90). -/
def copyIn (f old : Nat) (s : State) : State :=
  let p := pteOf old
  if p.tier = 1 then
    let g := p.addr / mib2
    let lost := (List.range (2 ^ 15)).any fun i => farLineLost s (g * 2 ^ 15 + i)
    let r := farLines (2 ^ 15) (g * 2 ^ 15) s
    let s := placeLines r.1 (f * 2 ^ 15) r.2
    if lost then movePoisonFault f s else s
  else
    match s.mem.maps.find (secKey (p.tier - 2) (p.addr / 512)) with
    | some m => placeUnits f m.tenant.toNat 0 m.units s
    | none => s

/-! ### Freeing (R90, R336) -/

/-- A far frame is freed. -/
def freeFarFrame (f : Nat) (s : State) : State :=
  match s.mem.farUsed.find f with
  | none => s
  | some x =>
    itemsLeave x.1.toNat (farItem f) (farItem f + 1) { s with mem := { s.mem with farUsed := s.mem.farUsed.del f } }

/-- The sectors of a unit are freed. -/
def freeUnit (t : Nat) (s : State) (u : UnitEntry) : State :=
  if u.sectors = 0 then s
  else
    let s := { s with mem := { s.mem with runs := s.mem.runs.del (secKey u.tier u.sector) } }
    itemsLeave t (unitItem u.tier u.sector) (unitItem u.tier u.sector + 1) s

/-- A page map and its units are freed. -/
def freeMap (k : Nat) (s : State) : State :=
  match s.mem.maps.find k with
  | none => s
  | some m =>
    let s := m.units.foldl (freeUnit m.tenant.toNat) s
    { s with mem := { s.mem with maps := s.mem.maps.del k, runs := s.mem.runs.del k } }

/-- What a page-table entry of TIER 1, 2 or 3 names is freed. -/
def freeSource (old : Nat) (s : State) : State :=
  let p := pteOf old
  if p.tier = 1 then freeFarFrame (p.addr / mib2) s else freeMap (secKey (p.tier - 2) (p.addr / 512)) s

/-- A page leaves its stack frame: a landing frame returns to the list, a frame of an ingot stays vacant (R89). -/
def vacateFrame (t f : Nat) (s : State) : State :=
  if (s.mem.promoted.find f).isSome then
    let s := itemsLeave t f (f + 1) { s with mem := { s.mem with promoted := s.mem.promoted.del f } }
    if 4096 ≤ s.mem.landing.length then bump s Fld.MEM_TIER_STATUS_LAND_DROPPED else landAppend f s
  else s

/-! ### Moves (R90-R92) -/

/-- The move of a page that runs. -/
def moveOf (s : State) (t page : Nat) : Option PageMove :=
  s.mem.moves.find? fun m => m.tenant.toNat = t && m.page = page

/-- A page's move is no longer held, and window writes held for its entry take effect (R111). -/
def endMove (m : PageMove) (s : State) : State :=
  releasePtw m.pte { s with mem := { s.mem with moves := s.mem.moves.erase m } }

/-- Tasks parked on the promotion of a page go on. -/
def resumeTasks (t page : Nat) (s : State) : State :=
  { s with eng := { s.eng with tasks := s.eng.tasks.mapVals fun _ x =>
    match x.st with
    | .promo p => if p = page && x.q.tenant.toNat = t then { x with st := .ready } else x
    | _ => x } }

/-- A page no longer waits for a promotion. -/
def dropWait (t page : Nat) (s : State) : State :=
  { s with mem := { s.mem with waitPromote := s.mem.waitPromote.filter fun w => !(w.1.toNat = t && w.2 = page) } }

/-- A promotion starts: it takes the oldest frame of the landing list (R90); lost memory is zeroed first (R80).
Pages that still wait when it took the last frame begin an empty period. -/
def startPromotion (t page pte old : Nat) (cmd : Bool) (s : State) : State :=
  match s.mem.landing with
  | [] => s
  | f :: rest =>
    let m : PageMove := { tenant := BitVec.ofNat 10 t, page := page, pte := pte, old := old, dest := 0,
                          kind := .promote f.toNat, cmd := cmd, began := after s 0 }
    let s := { s with mem := { s.mem with landing := rest, moves := s.mem.moves ++ [m] } }
    noticeEmpty (zeroLost (f.toNat / 512) 1 (dropWait t page s))

/-- The tasks that wait for a page whose entry names no tier to promote it from go on, to walk again. -/
def stalePromotion (t page : Nat) (s : State) : State := resumeTasks t page (dropWait t page s)

/-- PROMOTION (R90, R92, R93): for a page that waits, with moves enabled, a landing frame free and fewer than 64 moves running. -/
def execPromotion (t : Ltc) (tenant : BitVec 10) (va : Word) (s : State) : Host.Outcome State Fault Refusal :=
  let s := adv t s
  let te := tenant.toNat
  let page := va.toNat / mib2
  .next (if !(s.mem.waitPromote.contains (tenant, page)) || !rdb s Fld.MEM_TIER_CTRL_ENABLE || s.mem.landing.isEmpty ||
        decide (64 ≤ s.mem.moves.length) || (moveOf s te page).isSome then s
    else
      let w := walkPlain te (page * mib2) s
      match w.1 with
      | .leaf p raw addr _ =>
        if p.tier = 1 || p.tier = 2 || p.tier = 3 then startPromotion te page addr raw false w.2
        else stalePromotion te page w.2
      | .bad _ _ _ => stalePromotion te page w.2)

/-- A demotion starts: the page's translation is removed and the epoch wait begins (R91). -/
def startDemotion (t page pte old dest : Nat) (s : State) : State :=
  let m : PageMove := { tenant := BitVec.ofNat 10 t, page := page, pte := pte, old := old, dest := dest, kind := .demoteWait (flipEpoch s),
                        cmd := true, began := after s 0 }
  removeRange t (page * mib2) ((page + 1) * mib2) { s with mem := { s.mem with moves := s.mem.moves ++ [m] } }

/-! ### TIER_MOVE (R88) -/

/-- The payload of the final reply (R57, R88). -/
def tierPayload (c : TierCmd) : List Byte :=
  leBytes 4 c.moved ++ leBytes 4 c.vacant.length ++ c.vacant.flatMap fun f => leBytes 4 f

/-- The command ends. -/
def finishTier (c : TierCmd) (status : Nat) (s : State) : State :=
  finish c.h status (tierPayload c) { s with mem := { s.mem with tierCmds := s.mem.tierCmds.filter fun x => x.h ≠ c.h } }

/-- The command's progress is noted. -/
def keepTier (c : TierCmd) (s : State) : State :=
  let s := if s.mem.lastTier = some c.h then wr s Fld.MEM_TIER_STATUS_LAST_MOVE_DONE c.moved else s
  { s with mem := { s.mem with tierCmds := s.mem.tierCmds.map fun x => if x.h = c.h then c else x } }

/-- A page is in a destination already, with the same codec (R88). -/
def inDest (s : State) (p : Pte) (dest : Nat) : Bool :=
  match p.tier with
  | 0 => dest = 0
  | 1 => dest = 1
  | _ =>
    match s.mem.maps.find (secKey (p.tier - 2) (p.addr / 512)) with
    | some m => m.code = dest
    | none => false

/-- The pages of a `TIER_MOVE` from its next one on: skipped, stopped at, or their move begun (R88, R93). A compressed or far
page bound for another tier outside the stacks is promoted first. Fuel bounds the pages skipped. -/
def tierRun : Nat → TierCmd → State → State
  | 0, c, s => keepTier c s
  | n + 1, c, s =>
    let t := c.tenant.toNat
    if c.left = 0 then finishTier c Status.OK (keepTier c s)
    else if !rdb s Fld.MEM_TIER_CTRL_ENABLE then finishTier c Status.NOT_PERMITTED (keepTier c s)
    else if (moveOf s t c.next).isSome then keepTier c s
    else
      let w := walkPlain t (c.next * mib2) s
      match w.1 with
      | .bad _ _ _ => finishTier c Status.NOT_FOUND (keepTier c w.2)
      | .leaf p raw addr size =>
        if size ≠ 21 then finishTier c Status.BAD_PARAM (keepTier c w.2)
        else if p.tier = 4 then finishTier c Status.NOT_FOUND (keepTier c w.2)
        else if inDest s p c.dest then tierRun n { c with next := c.next + 1, left := c.left - 1 } w.2
        else if 64 ≤ s.mem.moves.length then keepTier c w.2
        else if p.tier = 0 then
          if (s.mem.promoted.find (p.addr / mib2)).isNone && decide (4094 ≤ c.vacant.length) then
            finishTier c Status.OK (keepTier c w.2)
          else startDemotion t c.next addr raw c.dest (keepTier c w.2)
        else if s.mem.landing.isEmpty then finishTier c Status.NO_RESOURCE (keepTier c w.2)
        else startPromotion t c.next addr raw true (keepTier c w.2)

/-- Every `TIER_MOVE` that runs goes on as far as it can. -/
def advanceTiers (s : State) : State :=
  s.mem.tierCmds.foldl (fun s c =>
    match s.mem.tierCmds.find? fun x => x.h = c.h with
    | some c => tierRun (c.left + 1) c s
    | none => s) s

/-- A range holds a page of 1 GiB or 32 GiB (R88). -/
def holdsBigPage (s : State) (t first pages : Nat) : Bool :=
  (List.range pages).any fun i =>
    match (walkPlain t ((first + i) * mib2) s).1 with
    | .leaf _ _ _ size => size ≠ 21
    | .bad _ _ _ => false

/-- A `TIER_MOVE` that begins is the most recent one: LAST_MOVE_DONE counts its pages from now on (R88). -/
def latestTier (h : CmdHdr) (s : State) : State :=
  wr { s with mem := { s.mem with lastTier := some h } } Fld.MEM_TIER_STATUS_LAST_MOVE_DONE 0

/-- TIER_MOVE (R88). -/
def execTierMove (t : Ltc) (h : CmdHdr) (va : Word) (pages : BitVec 32) (dest : Byte) (s : State) :
    Host.Outcome State Fault Refusal :=
  opcode t h .tenant false (fun s =>
    let te := h.tenant.toNat
    let c : TierCmd := { h := h, tenant := BitVec.ofNat 10 te, next := va.toNat / mib2, left := pages.toNat, dest := dest.toNat }
    if 5 < dest.toNat || va.toNat % mib2 ≠ 0 || (dest.toNat = 1 && farChannels s = 0) ||
        holdsBigPage s te (va.toNat / mib2) pages.toNat then refuseCmd h Status.BAD_PARAM s
    else if !rdb s Fld.MEM_TIER_CTRL_ENABLE then refuseCmd h Status.NOT_PERMITTED s
    else if (s.sec.tenants.find te).isNone then refuseCmd h Status.NOT_FOUND s
    else
      let s := beginLong h s
      tierRun (pages.toNat + 1) c { s with mem := { s.mem with tierCmds := s.mem.tierCmds ++ [c] } })
    (latestTier h s)

/-- The `TIER_MOVE` that is at a page. -/
def tierAt (s : State) (t page : Nat) : Option TierCmd :=
  s.mem.tierCmds.find? fun c => c.tenant.toNat = t && c.next = page && decide (0 < c.left)

/-- A `TIER_MOVE` has moved its page, and left a frame vacant where it did (R88). -/
def tierMoved (t page : Nat) (vacant : List Nat) (s : State) : State :=
  match tierAt s t page with
  | none => s
  | some c => keepTier { c with next := c.next + 1, left := c.left - 1, moved := c.moved + 1, vacant := c.vacant ++ vacant } s

/-! ### Promotions end (R90) -/

/-- A promotion ends: contents in the frame, entry rewritten, source freed, tasks resumed (R90). -/
def finishPromotion (m : PageMove) (f : Nat) (s : State) : State :=
  let t := m.tenant.toNat
  let s := itemsJoin t f (f + 1) { s with mem := { s.mem with promoted := s.mem.promoted.put f m.tenant } }
  let s := copyIn f m.old s
  let s := homeWriteWord m.pte (ptePlace m.old 0 (f * mib2)) s
  let s := resumeTasks t m.page (endMove m (freeSource m.old s))
  advanceTiers (if m.cmd && (tierAt s t m.page).any (fun c => c.dest = 0) then tierMoved t m.page [] s else s)

/-- PROMOTION_DONE (R90, R87). -/
def execPromotionDone (t : Ltc) (tenant : BitVec 10) (va : Word) (s : State) : Host.Outcome State Fault Refusal :=
  let s := adv t s
  .next (match moveOf s tenant.toNat (va.toNat / mib2) with
    | none => s
    | some m =>
      match m.kind with
      | .promote f => finishPromotion m f s
      | _ => s)

/-! ### Demotions (R91) -/

/-- Units of a frame compressed one by one under a destination code: for each its page-map entry and the lines of its sectors;
and the runs taken. None without room (R84). `n` counts the free values that fill last sectors. -/
def compressUnits (s : State) (code : Nat) (gen : BitVec 16) :
    Nat → List (List Line) → Tab Nat → Option (List (UnitEntry × List Line) × Tab Nat)
  | _, [], runs => some ([], runs)
  | n, ls :: rest, runs =>
    let f := unitForm code ls (Config.freeBits n)
    let e : UnitEntry := { sectors := f.sectors, codec := f.codec, sector := 0, tier := 0, gen := gen }
    if f.sectors = 0 then (compressUnits s code gen (n + 1) rest runs).map fun r => ((e, []) :: r.1, r.2)
    else
      match freeRun s runs f.sectors 1 with
      | none => none
      | some k =>
        (compressUnits s code gen (n + 1) rest (runs.put k f.sectors)).map fun r =>
          (({ e with sector := k % 2 ^ 40, tier := k / 2 ^ 40 }, f.lines) :: r.1, r.2)

/-- Lines written to a tier under a key from ln on. -/
def placeRaw (a : Arr) (k : KeyRes) : List Line → Nat → State → State
  | [], _, s => s
  | l :: r, ln, s => placeRaw a k r (ln + 1) (writeUnder a ln k 255 l s)

/-- A unit is stored: its sectors are written under the tenant's key, and it joins the tenant's items. -/
def storeUnit (t : Nat) (s : State) (x : UnitEntry × List Line) : State :=
  let u := x.1
  if u.sectors = 0 then s
  else
    let s := itemsJoin t (unitItem u.tier u.sector) (unitItem u.tier u.sector + 1) s
    placeRaw (tierArr u.tier) (newItemKey s t) x.2 (8 * u.sector) s

/-- Lines cut into units of 64; fuel bounds their number. -/
def cutUnits : Nat → List Line → List (List Line)
  | 0, _ => []
  | n + 1, l => l.take 64 :: cutUnits n (l.drop 64)

/-- A demotion that finds no room: the page stays in the stacks and the command stops (R93). -/
def demotionFails (m : PageMove) (s : State) : State :=
  let t := m.tenant.toNat
  let s := stalePromotion t m.page (endMove m s)
  let s := match tierAt s t m.page with
    | some c => finishTier c Status.NO_RESOURCE s
    | none => s
  advanceTiers s

/-- The move's kind changes. -/
def setMove (m : PageMove) (k : MoveKind) (s : State) : State :=
  { s with mem := { s.mem with moves := s.mem.moves.map fun x => if x = m then { m with kind := k } else x } }

/-- A page is written to a far frame, or compressed into sectors and a page map (R91). -/
def copyOut (m : PageMove) (s : State) : State :=
  let t := m.tenant.toNat
  let f := (pteOf m.old).addr / mib2
  if m.dest = 1 then
    match freeFar s with
    | none => demotionFails m s
    | some g =>
      let s := zeroLostFar g 1 s
      let s := { s with mem := { s.mem with farUsed := s.mem.farUsed.put g (m.tenant, m.page) } }
      let s := itemsJoin t (farItem g) (farItem g + 1) s
      let r := takeLines (2 ^ 15) (f * 2 ^ 15) s
      setMove m (.demoteCopy 1 (g * mib2)) (placeRaw .far (newItemKey r.2 t) r.1 (g * 2 ^ 15) r.2)
  else
    let te := s.sec.tenants.find t
    let r := takeLines (2 ^ 15) (f * 2 ^ 15) s
    let s := r.2
    match freeRun s s.mem.runs 8 8 with
    | none => demotionFails m s
    | some k =>
      let gen := match te with | some x => x.keyGen | none => 0
      match compressUnits s m.dest gen s.draws (cutUnits 512 r.1) (s.mem.runs.put k 8) with
      | none => demotionFails m s
      | some (us, runs) =>
        let pm : PageMap := { tenant := m.tenant, page := m.page, code := m.dest, units := us.map (·.1) }
        let s := { s with draws := s.draws + 512, mem := { s.mem with runs := runs, maps := s.mem.maps.put k pm } }
        setMove m (.demoteCopy (2 + k / 2 ^ 40) (k % 2 ^ 40 * 512)) (us.foldl (storeUnit t) s)

/-- The epoch wait of a demotion ends. -/
def demoteWaitDone (t page : Nat) (s : State) : State :=
  match moveOf s t page with
  | none => s
  | some m =>
    match m.kind with
    | .demoteWait e => if epochOver s e then copyOut m (noteInvTime m.began s) else s
    | _ => s

/-- EPOCH_WAIT_DONE (R122): an invalidation, a release or a demotion goes on. -/
def execEpochWaitDone (t : Ltc) (w : EpochWait) (s : State) : Host.Outcome State Fault Refusal :=
  let s := adv t s
  .next (match w with
    | .invalidate te => invalWaitDone te s
    | .release n => releaseWaitDone n.toNat s
    | .demote te page => demoteWaitDone te.toNat page.toNat s)

/-- A demotion ends: entry rewritten, frame returned, and waiting faults and commands go on (R91, R93). -/
def finishDemotion (m : PageMove) (tier addr : Nat) (s : State) : State :=
  let t := m.tenant.toNat
  let f := (pteOf m.old).addr / mib2
  let s := homeWriteWord m.pte (ptePlace m.old tier addr) s
  let vacant := if (s.mem.promoted.find f).isSome then [] else [f]
  advanceTiers (tierMoved t m.page vacant (vacateFrame t f (endMove m s)))

/-- DEMOTION_DONE (R91). -/
def execDemotionDone (t : Ltc) (tenant : BitVec 10) (va : Word) (s : State) : Host.Outcome State Fault Refusal :=
  let s := adv t s
  .next (match moveOf s tenant.toNat (va.toNat / mib2) with
    | none => s
    | some m =>
      match m.kind with
      | .demoteCopy tier addr => finishDemotion m tier addr s
      | _ => s)

/-! ### Key rotation (R336-R338) -/

/-- The stack frames of a tenant: those of its ingots and its promoted pages. -/
def tenantFrames (s : State) (t : Nat) : List Nat :=
  let ing := (s.mem.ingots.vals.filter fun i => i.kind ≠ 2 && i.tenant.toNat = t).flatMap fun i =>
    (List.range (512 * i.count.toNat)).map (· + 512 * i.base.toNat)
  ing ++ (s.mem.promoted.keep fun _ x => x.toNat = t).keys

/-- The units of a tenant that hold sectors. -/
def tenantUnits (s : State) (t : Nat) : List UnitEntry :=
  (s.mem.maps.vals.filter fun m => m.tenant.toNat = t).flatMap fun m => m.units.filter fun u => u.sectors ≠ 0

/-- Every item of a tenant, in no order. -/
def tenantItems (s : State) (t : Nat) : List Nat :=
  tenantFrames s t ++ (s.mem.farUsed.keep fun _ x => x.1.toNat = t).keys.map farItem ++
    (tenantUnits s t).map fun u => unitItem u.tier u.sector

/-- The generation after another: 1 follows 0xFFFF (R331). -/
def nextKeyGen (g : BitVec 16) : BitVec 16 := if g = 0xFFFF then 1 else g + 1

/-- TENANT_KEY_ROTATE (R336). -/
def execTenantKeyRotate (t : Ltc) (h : CmdHdr) (s : State) : Host.Outcome State Fault Refusal :=
  opcode t h .tenant false (fun s =>
    let te := h.tenant.toNat
    match s.sec.tenants.find te with
    | none => refuseCmd h Status.NOT_FOUND s
    | some x =>
      if x.sweep.isSome then refuseCmd h Status.IN_USE s
      else keyWrite h s fun s =>
        let n := (tenantItems s te).length
        let k := newKey s
        let w : Sweep := { gen := x.keyGen, key := x.key, count := n, oldLost := x.keyLost }
        let g := nextKeyGen x.keyGen
        let x' : Tenant := { x with keyGen := g, key := k.1, keyLost := false, sweep := some w }
        let s := { k.2 with sec := { k.2.sec with tenants := k.2.sec.tenants.put te x' } }
        let s := okCmd h (leBytes 2 g.toNat) s
        if n = 0 then sweepEnds te x' w s else s) s

/-- The lines of an item. -/
def itemLines (s : State) (t item : Nat) : Nat :=
  if item < 2 ^ 40 then 2 ^ 15
  else
    match (tenantUnits s t).find? fun u => unitItem u.tier u.sector = item with
    | some u => 8 * u.sectors
    | none => 0

/-- One line of an item is read under the old key and written under the new one, poison where it was uncorrectable (R334, R336). -/
def sweepLine (x : Tenant) (w : Sweep) (item i : Nat) (s : State) : State :=
  let old : KeyRes := if w.oldLost then .lost else .key w.key
  let new : KeyRes := if x.keyLost then .lost else .key x.key
  let x : Arr × Nat :=
    if 2 ^ 40 ≤ item then (tierArr ((item - 2 ^ 40) / 2 ^ 38), (item - 2 ^ 40) % 2 ^ 38 * 8 + i)
    else if 2 ^ 24 ≤ item then (.far, (item - 2 ^ 24) * 2 ^ 15 + i)
    else (.stack, item * 2 ^ 15 + i)
  let r := readUnder x.1 x.2 old s
  writeUnder x.1 x.2 new 255 r.1 r.2.2

/-- A unit is tagged with the new generation. -/
def tagUnit (t item : Nat) (x : Tenant) (s : State) : State :=
  if item < 2 ^ 40 then s
  else
    { s with mem := { s.mem with maps := s.mem.maps.mapVals fun _ m =>
      if m.tenant.toNat = t then
        { m with units := m.units.map fun u =>
          if u.sectors ≠ 0 && unitItem u.tier u.sector = item then { u with gen := x.keyGen } else u }
      else m } }

/-- The sweep advances past a line: at the item's last line the item is tagged anew (R336). -/
def sweepPast (t : Nat) (x : Tenant) (w : Sweep) (item i : Nat) (s : State) : State :=
  if i + 1 < itemLines s t item then
    let w' : Sweep := { w with ptrs := w.ptrs.put item (i + 1) }
    { s with sec := { s.sec with tenants := s.sec.tenants.put t { x with sweep := some w' } } }
  else
    let s := tagUnit t item x s
    let w' : Sweep := { w.refresh item (item + 1) with count := w.count - 1 }
    if w'.count = 0 then sweepEnds t { x with sweep := some w' } w' s
    else { s with sec := { s.sec with tenants := s.sec.tenants.put t { x with sweep := some w' } } }

/-- SEC_SWEEP_CTRL: the frames swept at once per die, and the lines that may be swept in 4 ns (R336, R353). -/
def sweepFrames (s : State) : Nat :=
  let n := rd s Fld.SEC_SWEEP_CTRL_FRAMES
  if 1 ≤ n && n ≤ 8 then n else 8
def sweepRate (s : State) : Nat := max 1 (rd s Fld.SEC_SWEEP_CTRL_GBPS)

/-- The items being swept: on each die its next stack frames; once no stack frame is left, the next far frame, then the next unit
(R336). -/
def sweepItems (s : State) (t : Nat) (w : Sweep) : List Nat :=
  let old := sortBy id ((tenantItems s t).filter w.isOld)
  let frames := old.filter fun i => decide (i < 2 ^ 24)
  if frames.isEmpty then old.take 1
  else (List.range (dies s)).flatMap fun d => (frames.filter fun i => homeDie s (i * 2 ^ 15) = d).take (sweepFrames s)

/-- One more line is swept in the running 4 ns. -/
def countSwept (s : State) : State :=
  let n := now s / 4
  { s with sec := { s.sec with sweepAt := n, sweepLines := if s.sec.sweepAt = n then s.sec.sweepLines + 1 else 1 } }

/-- One of the items in progress goes on, which is drawn; a line whose home is at work on it waits (R337). -/
def sweepOne (t : Nat) (x : Tenant) (w : Sweep) (items : List Nat) (s : State) : State :=
  let d := draw s
  let s := d.2
  match items[d.1 % max 1 items.length]? with
  | none => s
  | some item =>
    let i := w.ptrs.get 0 item
    if item < 2 ^ 24 && lineBusy s (item * 2 ^ 15 + i) then s
    else sweepPast t x w item i (sweepLine x w item i (countSwept s))

/-- SWEEP_STEP (R336, R337): a line of an item in progress, unless the sweep's rate is spent. -/
def execSweepStep (t : Ltc) (tenant : BitVec 10) (s : State) : Host.Outcome State Fault Refusal :=
  let s := adv t s
  let te := tenant.toNat
  .next (match s.sec.tenants.find te with
    | none => s
    | some x =>
      match x.sweep with
      | none => s
      | some w =>
        let items := sweepItems s te w
        if items.isEmpty then sweepEnds te x w s
        else if s.sec.sweepAt = now s / 4 && decide (sweepRate s ≤ s.sec.sweepLines) then s
        else sweepOne te x w items s)

end Sys2Proof.Machine
end

