-- ==== Sys2Proof/Machine/Csr.lean ====
section
/-! DEFINITION. CSR access (R12, R59): what each register shows, what a write to it does, and the commands of group 0x01. -/

namespace Sys2Proof.Machine

/-! ### What registers show

A register whose value another part of the state decides is computed when it is read. -/

/-- CTRL_JOURNAL_STATUS (R60). -/
def journalWord (s : State) : Nat :=
  let x := regGet s Reg.CTRL_JOURNAL_STATUS.base
  let long := (s.ctl.journal.filter fun e => e.running && longCmd e.h).length
  putBits (putBits x 0 10 s.ctl.journal.length) 16 7 long

/-- Granules in no ingot, reserve or sector region (R125). -/
def granulesFree (s : State) : Nat :=
  ((List.range (granules s)).filter fun g => !((ingotAt s g).isSome || inReserve s g || inRegion s 0 g)).length

/-- XLT_CONFIG (R125). -/
def xltConfigWord (s : State) : Nat :=
  let r := reserveShown s
  packBits [(10, r.1), (6, 0), (10, r.2), (6, 0), (11, s.mem.ingots.length), (5, 0), (10, granulesFree s)]

/-- XLT_FQ_STATUS of a die (R125). -/
def fqStatusWord (s : State) (die : Nat) : Nat :=
  let q := fqOf s die
  packBits [(13, q.count), (3, 0), (12, q.head.toNat), (4, 0), (12, q.tail.toNat), (4, 0), (14, q.waiting.length)]

/-- COH_DEAD n (R149). -/
def deadWord (s : State) (n : Nat) : Nat := maskOf 64 fun j => s.coh.dead.contains (BitVec.ofNat 14 (64 * n + j))

/-- ENG_ENABLE n: retired tiles read 0, and so do words 4..7 on the TR-6 (R181, R252). -/
def enableWord (s : State) (n : Nat) : Nat :=
  if dies s ≤ n / 4 then 0
  else
    let x := rd s (Fld.ENG_ENABLE_ENABLE n)
    maskOf 64 fun j => bitAt x j && !(decide (n % 4 < 2) && s.ecc.retired.get false (128 * (n / 4) + 64 * (n % 4) + j))

/-- CRU_CTX n (R214). -/
def ctxWord (s : State) (n : Nat) : Nat :=
  match ctxOf s n with
  | none => 0
  | some c => packBits [(1, 1), (1, b2n c.releasing.isSome), (14, 0), (10, c.tenant.toNat), (6, 0), (7, c.locks.length)]

/-- RED_SLOT n (R234). -/
def slotWord (s : State) (n : Nat) : Nat :=
  match slotTenant s n with
  | none => 0
  | some t =>
    match runAt s n with
    | none => packBits [(1, 1), (15, 0), (10, t)]
    | some (_, r) => packBits [(1, 1), (1, 1), (14, 0), (10, t), (6, 0), (9, r.full), (7, 0), (16, r.task / 32)]

/-- SEC_STATUS (R353). -/
def secWord (s : State) : Nat :=
  packBits [(3, s.fuses.lc.toNat), (5, 0), (1, b2n s.sec.tampered), (3, s.sec.source.toNat), (4, 0), (4, s.ctl.sessions.length),
    (12, 0), (10, (consentSlots s).length), (6, 0), (11, s.sec.tenants.length)]

/-- SEC_TENANT t (R353). -/
def tenantWord (s : State) (t : Nat) : Nat :=
  match s.sec.tenants.find t with
  | none => 0
  | some x => packBits [(1, 1), (1, b2n x.sweep.isSome), (1, b2n x.keyLost), (1, b2n (isPartitioned s t)), (12, 0),
      (16, x.keyGen.toNat), (32, match x.sweep with | some w => w.count | none => 0)]

/-- SEC_JOBKEY s (R353). -/
def jobWord (s : State) (n : Nat) : Nat :=
  match s.sec.jobs.find n with
  | none => 0
  | some j => packBits [(2, if j.lost then 2 else 1), (3, bindConsent j.binding.toNat), (1, b2n j.dbg.isSome), (10, 0),
      (10, bindTenant j.binding.toNat), (6, 0), (7, j.peers.length)]

/-- ANV_STATUS (R369). -/
def anvilWord (s : State) : Nat :=
  packBits [(3, s.anv.a.state.toNat), (3, s.anv.b.state.toNat), (2, 0), (8, tokenCode s), (4, s.anv.a.lastFault.toNat),
    (4, s.anv.b.lastFault.toNat), (8, 0), (16, min 25000 (s.anv.lease.toNat - now s))]

/-- The frequency of an ECLK island (R382): the lowest limit in force, in steps of 37.5 MHz, shown in whole MHz. Islands 0..15 are
the clusters, 16 and 17 the die-common islands. -/
def eclkMhz (s : State) (island : Nat) : Nat :=
  let die := if island < 16 then island / 8 else island - 16
  let slow := (s.pwr.episodes.find 0).isSome || s.pwr.hotA || s.pwr.hotB
  let m := min (10 * s.pwr.limits.get 600 island) (min (s.pwr.thermal.get 6000 die) (if slow then 3000 else 6000))
  m / 375 * 375 / 10

/-- The lowest ECLK frequency of a core die. -/
def dieMhz (s : State) (die : Nat) : Nat :=
  ((List.range 8).map fun c => eclkMhz s (8 * die + c)).foldl min (eclkMhz s (16 + die))

/-- PWR_STATUS (R389). -/
def powerWord (s : State) : Nat :=
  packBits [(2, rd s Fld.PWR_STATUS_STATE), (6, 0), (10, s.fuses.setpointMv.toNat), (6, 0), (10, dieMhz s 0),
    (10, if dies s = 1 then 0 else dieMhz s 1), (1, b2n (s.pwr.episodes.find 0).isSome), (1, b2n (!s.pwr.thermal.isEmpty)),
    (1, b2n (s.pwr.hotA || s.pwr.hotB)), (1, b2n (!s.pwr.limits.isEmpty)), (1, b2n s.pwr.bankOkA), (1, b2n s.pwr.bankOkB)]

/-- CLK_STATUS (R407). -/
def clockWord (s : State) : Nat :=
  let a := s.clk.ltcA.toNat
  let b := s.clk.ltcB.toNat
  packBits [(1, b2n s.clk.kclkA), (1, b2n s.clk.kclkB), (1, b2n s.clk.followB), (13, 0), (16, min 0xFFFF (max a b - min a b))]

/-- A word of the fault log (R428). -/
def logWord (s : State) (i : Nat) : Nat := bitsOf (s.ctl.log.get 0 (i / 8)).toNat (64 * (i % 8)) 64

/-- A word of a fault-queue window is read; an uncorrectable one is rebuilt from the task's context record (R125, R245). -/
def queueWord (die i : Nat) (s : State) : Nat × State :=
  let r := scratchRead die (0x680000 + 8 * i) 8 s
  (bitsOf ((fqOf s die).slots.get 0 (i / 8)).toNat (64 * (i % 8)) 64, r.1.foldl (fun s w => cleanWord w s) r.2)

/-- FAB_ROUTE entries n and n + 1 as one word (R286). -/
def routePair (s : State) (n : Nat) : Nat :=
  s.mode.applied.route n + 2 ^ 32 * s.mode.applied.route (n + 1)

/-- The index of a register in its run. -/
def RegBlock.index (b : RegBlock) (a : Nat) : Nat := (a - b.base) / b.stride

/-- What the 8-byte register at an address shows, its registers of one group at a time. -/
def shownCtl (s : State) (b : RegBlock) (a : Nat) : Nat :=
  if b = Reg.CTRL_JOURNAL_STATUS then journalWord s
  else if b = Reg.ANV_STATUS then anvilWord s
  else if b = Reg.MEM_REFRESH_CTRL then putBits (regGet s a) 40 24 (pasrIgnored s)
  else if b = Reg.MEM_TIER_STATUS then putBits (regGet s a) 32 13 s.mem.landing.length
  else if b = Reg.MEM_SECTOR_REGION then putBits (regGet s a) 49 1 (b2n (regionHolds s (b.index a)))
  else if b = Reg.XLT_CONFIG then xltConfigWord s
  else if b = Reg.XLT_FQ_STATUS then fqStatusWord s (b.index a)
  else if b = Reg.COH_STATUS2 then putBits (regGet s a) 16 11 (max (httUsed s 0) (httUsed s 1))
  else if b = Reg.COH_DEAD then deadWord s (b.index a)
  else regGet s a

/-- As `shownCtl`, for the engine, fabric and security groups. -/
def shownData (s : State) (b : RegBlock) (a : Nat) : Nat :=
  if b = Reg.ENG_ENABLE then enableWord s (b.index a)
  else if b = Reg.ENG_RING_STATE then ringStateWord s (b.index a)
  else if b = Reg.ECC_TEST_CHECK && sramTarget s then putBits (regGet s a) 14 2 0
  else if b = Reg.CRU_CTX then ctxWord s (b.index a)
  else if b = Reg.RED_SLOT then slotWord s (b.index a)
  else if b = Reg.FAB_ROUTE then routePair s (b.index a)
  else if b = Reg.FAB_PATH then bitsOf (inactivePath s (b.index a / 2)) (64 * (b.index a % 2)) 64
  else if b = Reg.FAB_PORT_STATUS then putBits (regGet s a) 48 10 (lport s (b.index a)).replay.length
  else if b = Reg.SEC_STATUS then secWord s
  else if b = Reg.SEC_TENANT then tenantWord s (b.index a)
  else if b = Reg.SEC_JOBKEY then jobWord s (b.index a)
  else regGet s a

/-- As `shownCtl`, for the power, clock and telemetry groups. -/
def shownPlatform (s : State) (b : RegBlock) (a : Nat) : Nat :=
  if b = Reg.PWR_STATUS then powerWord s
  else if b = Reg.CLK_LTC then now s
  else if b = Reg.CLK_STATUS then clockWord s
  else if b = Reg.FLT_LOG then logWord s (b.index a)
  else regGet s a

/-- What a mapped register shows. -/
def shownWord (s : State) (b : RegBlock) (a : Nat) : Nat :=
  if a < 0xC3000 then shownCtl s b a else if a < 0x160000 || 0x190000 ≤ a then shownData s b a else shownPlatform s b a

/-- An 8-byte word of a fault-queue window: its die and index (R125). -/
def queueAt (s : State) (a : Nat) : Option (Nat × Nat) :=
  if 0x40000 ≤ a && a < 0x80000 then some (0, (a - 0x40000) / 8)
  else if 0x80000 ≤ a && a < 0xC0000 && dies s = 2 then some (1, (a - 0x80000) / 8)
  else none

/-- An aligned 8-byte word of CSR space is mapped; the translation registers of C1 are not on the TR-6 (R125). -/
def csrMapped (s : State) (a : Nat) : Bool :=
  (queueAt s a).isSome || ((Reg.blockOf a).isSome && !(dies s = 1 && decide (0x38080 ≤ a ∧ a < 0x38090)))

/-- A window read of a page-table page goes through the home (R111). -/
def ptwRead (i : Nat) (s : State) : Nat × State :=
  let la := ptwAddr s i
  if !inPlatform s la then (0, s)
  else
    let r := homeRead (la / 64) noExt s
    (bitsOf r.1.data.toNat (la % 64 * 8) 64, r.2)

/-- An aligned word of CSR space is read; reading PWR_RAIL restarts MIN_PCT (R389). -/
def readCsr (a : Nat) (s : State) : Nat × State :=
  match queueAt s a with
  | some (die, i) => queueWord die i s
  | none =>
    match Reg.blockOf a with
    | none => (0, s)
    | some b =>
      if b = Reg.XLT_PTW_DATA then ptwRead (b.index a) s
      else if b = Reg.PWR_RAIL then (regGet s a, regSet s a (putBits (regGet s a) 56 8 0))
      else (shownWord s b a, s)

/-! ### What writes do -/

/-- The bits software writes; PASR_C1 is reserved on the TR-6 (R98). -/
def rwMask (s : State) (b : RegBlock) : Nat :=
  if b = Reg.MEM_REFRESH_CTRL && dies s = 1 then putBits b.rw 24 8 0 else b.rw

/-- A register without behaviour of its own stores the bits of access code RW (R12, R13). -/
def storeReg (b : RegBlock) (a v : Nat) (s : State) : State :=
  let m := rwMask s b
  regSet s a ((regGet s a &&& (2 ^ 64 - 1 - m)) ||| (v &&& m))

/-- MEM_HOT_CTRL: epochs are counted from the moment ENABLE is set (R95, R98). -/
def hotCtrlWrite (a v : Nat) (s : State) : State :=
  let was := rdb s Fld.MEM_HOT_CTRL_ENABLE
  let s := storeReg Reg.MEM_HOT_CTRL a v s
  if rdb s Fld.MEM_HOT_CTRL_ENABLE && !was then
    let s := wr s Fld.MEM_HOT_STATUS_EPOCH 0
    { s with mem := { s.mem with hotAt := after s 0, epochReports := 0 } }
  else s

/-- ECC_TEST_CTRL: the operation named runs before the reply (R249). -/
def testCtrlWrite (a v : Nat) (s : State) : State :=
  let s := testWakes (storeReg Reg.ECC_TEST_CTRL a v s)
  match bitsOf v 56 3 with
  | 1 => testWriteRaw (testTileIdle s) s
  | 2 => testReadRaw (testTileIdle s) s
  | 3 => testReadDecoded (testTileIdle s) s
  | _ => s

/-- FAB_PATH: one half of an entry of the inactive bank; bits above V are reserved (R286). -/
def pathWrite (i v : Nat) (s : State) : State :=
  let x := putBits (inactivePath s (i / 2)) (64 * (i % 2)) 64 v
  setInactivePath (i / 2) (x % 2 ^ 121) s

/-- XLT_FAULT_RESOLVE (R120, R125). -/
def resolveWrite (v : Nat) (s : State) : State :=
  let e := BitVec.ofNat 16 v
  let k := BitVec.ofNat 5 (v / 2 ^ 16)
  let f := BitVec.ofNat 32 (v / 2 ^ 32)
  match bitsOf v 24 2 with
  | 1 => retryFault e k f s
  | 2 => abortFault e k f s
  | _ => s

/-- COH_RECLAIM (R146, R149). -/
def reclaimWrite (v : Nat) (s : State) : State :=
  match bitsOf v 16 2 with
  | 1 => serveWaiting (declareDead (BitVec.ofNat 14 v) s)
  | 2 => revive (BitVec.ofNat 14 v) s
  | _ => s

/-- A whole 8-byte register is written. -/
def writeReg (b : RegBlock) (a v : Nat) (s : State) : State :=
  if b = Reg.XLT_ROOT then rootWrite (b.index a) v s
  else if b = Reg.XLT_PTW_DATA then ptwWrite (b.index a) v s
  else if b = Reg.XLT_FQ_CONSUME then fqConsume (b.index a) (v % 2 ^ 13) s
  else if b = Reg.XLT_FAULT_RESOLVE then resolveWrite v s
  else if b = Reg.MEM_LAND_PUSH then landPush (v % 2 ^ 19) s
  else if b = Reg.MEM_SECTOR_REGION then sectorRegionWrite (b.index a) v s
  else if b = Reg.MEM_REFRESH_CTRL then reloseMasked (storeReg b a v s)
  else if b = Reg.MEM_HOT_CTRL then hotCtrlWrite a v s
  else if b = Reg.COH_RECLAIM then reclaimWrite v s
  else if b = Reg.ECC_TEST_CTRL then testCtrlWrite a v s
  else if b = Reg.FAB_PATH then pathWrite (b.index a) v s
  else storeReg b a v s

/-- What the other half of a register keeps when 4 of its 8 bytes are written. -/
def heldHalf (b : RegBlock) (a : Nat) (s : State) : Nat :=
  if b = Reg.FAB_PATH then bitsOf (inactivePath s (b.index a / 2)) (64 * (b.index a % 2)) 64
  else if b = Reg.XLT_PTW_DATA then (ptwRead (b.index a) s).1
  else regGet s a

/-- A CSR of 4 or 8 bytes is written at a mapped, aligned address; the fault-queue windows are read only. -/
def writeCsr (a w v : Nat) (s : State) : State :=
  match Reg.blockOf a with
  | none => s
  | some b =>
    let r := alignDown a 8
    if w = 8 then writeReg b r v s else writeReg b r (putBits (heldHalf b r s) (8 * (a - r)) 32 v) s

/-- A CSR of 4 or 8 bytes is read. -/
def readWidth (a w : Nat) (s : State) : Nat × State :=
  let r := readCsr (alignDown a 8) s
  (if w = 8 then r.1 else bitsOf r.1 (8 * (a % 8)) 32, r.2)

/-! ### The commands (R57, R59) -/

/-- Width 4 or 8, and an address aligned to it. -/
def accessOk (a w : Nat) : Bool := (w = 4 || w = 8) && a % w = 0

/-- Registers are read in rising order up to an unmapped address: the values, and whether it was met. -/
def readRun (w : Nat) : Nat → Nat → State → List Byte × Bool × State
  | 0, _, s => ([], false, s)
  | n + 1, a, s =>
    if !csrMapped s (alignDown a 8) then ([], true, s)
    else
      let r := readWidth a w s
      let q := readRun w n (a + w) r.2
      (leBytes w r.1 ++ q.1, q.2)

/-- CSR_READ. -/
def execCsrRead (t : Ltc) (h : CmdHdr) (addr : BitVec 32) (width : Byte) (count : BitVec 16) (s : State) :
    Host.Outcome State Fault Refusal :=
  opcode t h .platform false (fun s =>
    if !accessOk addr.toNat width.toNat || count.toNat = 0 || decide (512 < count.toNat) then refuseCmd h Status.BAD_PARAM s
    else
      let r := readRun width.toNat count.toNat addr.toNat s
      finish h (if r.2.1 then Status.CSR_UNMAPPED else Status.OK) r.1 r.2.2) s

/-- Registers are written in rising order up to an unmapped address; true where it was met. -/
def writeRun (w : Nat) : List Word → Nat → State → Bool × State
  | [], _, s => (false, s)
  | v :: r, a, s => if !csrMapped s (alignDown a 8) then (true, s) else writeRun w r (a + w) (writeCsr a w v.toNat s)

/-- CSR_WRITE. -/
def execCsrWrite (t : Ltc) (h : CmdHdr) (addr : BitVec 32) (width : Byte) (values : List Word) (s : State) :
    Host.Outcome State Fault Refusal :=
  opcode t h .platform false (fun s =>
    if !accessOk addr.toNat width.toNat || values.isEmpty || decide (512 < values.length) then refuseCmd h Status.BAD_PARAM s
    else
      let r := writeRun width.toNat values addr.toNat s
      finishWrites s.mem.heldPtw.length h (if r.1 then Status.CSR_UNMAPPED else Status.OK) [] r.2) s

/-- CSR_MODIFY: the bits of mask are written and the old value is returned. -/
def execCsrModify (t : Ltc) (h : CmdHdr) (addr : BitVec 32) (width : Byte) (mask value : Word) (s : State) :
    Host.Outcome State Fault Refusal :=
  opcode t h .platform false (fun s =>
    let a := addr.toNat
    let w := width.toNat
    if !accessOk a w then refuseCmd h Status.BAD_PARAM s
    else if !csrMapped s (alignDown a 8) then refuseCmd h Status.CSR_UNMAPPED s
    else
      let r := readWidth a w s
      let m := mask.toNat % 2 ^ (8 * w)
      let v := (r.1 &&& (2 ^ (8 * w) - 1 - m)) ||| (value.toNat &&& m)
      finishWrites s.mem.heldPtw.length h Status.OK (leBytes 8 r.1) (writeCsr a w v r.2)) s

/-- A register matches a value under a mask. -/
def pollHit (x w mask value : Nat) : Bool := (x &&& mask) % 2 ^ (8 * w) = (value &&& mask) % 2 ^ (8 * w)

/-- CSR_POLL: answered once the register matches; until then it runs, and is looked at again when the command is repeated
(log entry 44). -/
def execCsrPoll (t : Ltc) (h : CmdHdr) (addr : BitVec 32) (width : Byte) (mask value : Word) (limit : BitVec 16) (s : State) :
    Host.Outcome State Fault Refusal :=
  opcode t h .platform false (fun s =>
    let a := addr.toNat
    let w := width.toNat
    if !accessOk a w || limit = 0 then refuseCmd h Status.BAD_PARAM s
    else if !csrMapped s (alignDown a 8) then refuseCmd h Status.CSR_UNMAPPED s
    else
      let r := readWidth a w s
      if pollHit r.1 w mask.toNat value.toNat then okCmd h (leBytes 8 r.1) r.2 else beginLong h r.2) s

/-- A running poll whose limit has passed reads its register a last time. -/
def pollEnds (e : JEntry) (s : State) : State :=
  let p := ownParams e.h e.params
  let w := parAt p 4 1
  let r := readWidth (parAt p 0 4) w s
  finish e.h (if pollHit r.1 w (parAt p 5 8) (parAt p 13 8) then Status.OK else Status.POLL_TIMEOUT) (leBytes 8 r.1) r.2

/-- The time a running poll may take, in ns. -/
def pollNs (e : JEntry) : Nat := us (parAt (ownParams e.h e.params) 21 2)

/-- POLL_TIMEOUT (R57). -/
def execPollTimeout (t : Ltc) (session seq : BitVec 32) (s : State) : Host.Outcome State Fault Refusal :=
  let s := adv t s
  .next (match entryBy s session seq with
    | none => s
    | some e =>
      match e.st with
      | .running began => if e.h.opcode = 0x0103 && decide (began.toNat + pollNs e ≤ now s) then pollEnds e s else s
      | _ => s)

/-- REGISTER_WRITE (R12): a register of 8 bytes is written; one without behaviour of its own stores its RW bits. -/
def execRegisterWrite (t : Ltc) (addr : BitVec 32) (v : Word) (s : State) : Host.Outcome State Fault Refusal :=
  let s := adv t s
  let a := alignDown addr.toNat 8
  .next (if csrMapped s a then writeCsr a 8 v.toNat s else s)

end Sys2Proof.Machine
end

