-- ==== Sys2Proof/Machine/Engines.lean ====
section
/-! DEFINITION. The life of a descriptor: fetch, header check, dispatch, stealing, beginning, completion, deadlines; rings made and
destroyed; the engine bitmap (R151-R173). -/

namespace Sys2Proof.Machine

/-! ### Completion records (R163, R164) -/

/-- What a record says beside its header fields. -/
structure RecordInfo where
  status : Nat
  result : Nat
  poison : Bool
  missed : Bool
  eng : Nat

/-- An engine outside a ring's home cluster. -/
def stolenBy (r : Ring) (e : Nat) : Bool := bitsOf e 4 4 ≠ 8 * r.die + r.cl

/-- The 32 bytes of record c of a ring (R164). -/
def recordWord (s : State) (r : Ring) (q : QDesc) (i : RecordInfo) : Nat :=
  packBits [(32, q.tag), (32, q.slot.toNat), (16, q.ring.toNat), (8, i.status), (1, b2n i.missed), (1, b2n i.poison),
    (1, b2n (r.written.toNat / r.cqSize % 2 = 0)), (1, b2n (stolenBy r i.eng)), (4, 0), (16, i.eng), (16, 0), (64, i.result),
    (48, now48 s), (16, 0)]

/-- A record is to be written: QUIET suppresses it for `OK` alone (R161). -/
def wantsRecord (q : QDesc) (status : Nat) : Bool := !(q.quiet && q.counter && status = 0)

/-- The line of a ring's next record. -/
def Ring.recordLine (r : Ring) : Nat := r.recordAddr r.written.toNat / 64

/-- The number of a ring among the requesters of this part (R134). -/
def ringRequester (n : Nat) : Nat := 2 ^ 20 + n

/-- A ring's unit at the home of a line: its descriptors and records, like every uncached access, may be answered `NACK`. -/
def ringTaken (n ln : Nat) (s : State) : Bool × State := takenAtHome (ringRequester n) ln s

/-- A record that cannot be written is lost (R153, R159). -/
def loseRecord (q : QDesc) (s : State) : State :=
  let s := bump s Fld.ENG_STATUS_RECORDS_LOST
  let s := raiseFault { cls := 6, code := 3, sev := 2, kind := 8, index := q.ring.toNat, tenant := q.tenant.toNat,
                        detail := packBits [(32, q.slot.toNat)] } s
  ringError q.ring.toNat q.slot.toNat s

/-- The record goes to the completion queue (R158, R163). -/
def putRecord (q : QDesc) (i : RecordInfo) (x : Ext) (s : State) : State :=
  match ringOf s q.ring.toNat with
  | none => s
  | some r =>
    let la := r.recordAddr r.written.toNat
    if !accessAllowed s r.tenant.toNat la true then loseRecord q s
    else
      let off := la % 64
      let l := dataLine (recordWord s r q i * 2 ^ (8 * off))
      let s := homeWrite (la / 64) (byteMask off (off + 32)) l x s
      let s := if i.missed then countEv (bitsOf i.eng 4 4) 0x014 q.tenant.toNat 1 s else s
      updRing q.ring.toNat (fun r => { r with written := r.written + 1 }) s

/-- A descriptor has its status: record, counts, and an engine's failure reported (R163, R165). -/
def writeRecord (q : QDesc) (i : RecordInfo) (x : Ext) (s : State) : State :=
  let s := if wantsRecord q i.status then putRecord q i x s else s
  let s := countEv (bitsOf i.eng 4 4) (if i.status = 0 then 0x011 else 0x012) q.tenant.toNat 1 s
  let s := updRing q.ring.toNat (fun r => { r with inflight := r.inflight - 1 }) s
  if i.status = 0xFF then
    raiseFault { cls := 6, code := 1, sev := 2, kind := 1, index := i.eng, tenant := q.tenant.toNat } s
  else s

/-- A ring that is being destroyed is free once nothing of it remains (R160). -/
def tryFreeRing (n : Nat) (s : State) : State :=
  match ringOf s n with
  | none => s
  | some r =>
    if r.state = 3 && r.inflight = 0 && (tasksOf s n).isEmpty then
      let s := { s with eng := { s.eng with rings := s.eng.rings.del n } }
      match r.destroyer with
      | some h => okCmd h [] s
      | none => s
    else s

/-- The body of a type 2 record after its header (R423); stage times, TLB misses are open. -/
def tagBody (q : QDesc) (t : Task) (e status chunks : Nat) (s : State) : Nat × State :=
  let d := draw s
  let stolen := match ringOf s q.ring.toNat with | some r => stolenBy r e | none => false
  (packBits [(16, q.ring.toNat), (32, q.slot.toNat), (32, q.tag), (10, q.tenant.toNat), (6, 0), (8, q.op), (3, q.group),
    (1, b2n stolen), (4, 0), (16, e), (8, status), (56, 0), (48, q.fetchedAt.toNat), (16, 0), (192, d.1), (16, d.1 / 2 ^ 192),
    (16, d.1 / 2 ^ 208), (8, min 255 t.faults), (8, min 255 t.lockWaits), (16, chunks)], d.2)

/-- A tagged descriptor has completed (R422, R423). -/
def sampleDone (key : Nat) (t : Task) (s : State) : State :=
  if t.q.tagged then
    sampleRecord (tenantGrants s t.q.tenant.toNat 1) 2 (keyCluster key)
      (tagBody t.q t (key / 32) (t.recorded.getD 0).toNat (areaOf s key).chunks) s
  else s

/-- In DOZE a tile that holds no task any more goes into retention (R383). -/
def restTile (eng : Nat) (s : State) : State :=
  if rd s Fld.PWR_STATUS_STATE = 1 && eng / 256 = 0 && (tasksOn s eng).isEmpty then
    { s with ecc := { s.ecc with retained := s.ecc.retained.put (eng % 256 / 128 * 128 + eng % 128) true } }
  else s

/-- The ports of a tile's store met while a descriptor of the tile worked; in which cycles they write is not shown, so how often they
collided is open (R237, R238, log entry 18). -/
def storeCollisions (key : Nat) (s : State) : State :=
  if key / 32 / 256 = 0 then
    let d := draw s
    bumpBy d.2 Fld.ECC_STATUS_SRAM_COLLISIONS d.1
  else s

/-- A descriptor has completed: its task, lock, area and slots are free; fenced descriptors and a destroyed ring go on. -/
def descEnds (key : Nat) (t : Task) (x : Ext) (s : State) : State :=
  let s := restTile (key / 32) (dropTask key (sampleDone key t (storeCollisions key s)))
  let s := { s with cru := { s.cru with areas := s.cru.areas.del key } }
  let s := if key / 32 / 256 = 0 then topUp (keyCluster key) (freeLock t.q key x s) else s
  let s := { s with red := { s.red with runs := s.red.runs.keep fun _ r => r.task ≠ key } }
  tryFreeRing t.q.ring.toNat (placeAll s)

/-- A failed counter update is reported (R163). -/
def counterFails (q : QDesc) (s : State) : State :=
  raiseFault { cls := 6, code := 4, sev := 1, kind := 8, index := q.ring.toNat, tenant := q.tenant.toNat,
               detail := packBits [(32, q.slot.toNat)] } s

/-- The counter of a descriptor whose record is written receives its ADD (R163); a fault parks the task. -/
def counterStep (w : Who) (t : Task) (s : State) : State :=
  match atomicVa w t.q.counterVa 0 true 1 0 s with
  | .ok r s => descEnds w.key t w.x (if r.2 then counterFails t.q s else s)
  | .park s => s
  | .busy s => s
  | .fail _ s => descEnds w.key t w.x (counterFails t.q s)

/-- The STAGE of a task whose deadline passes (R412). -/
def Task.missStage (t : Task) : Nat := match t.st with | .fault _ _ => 4 | .promo _ => 4 | _ => 3

/-- Whether a held descriptor is held by FENCE. -/
def heldStage (s : State) (n : Nat) (r : Ring) : Nat :=
  if r.held.any QDesc.fence && !fenceClear s n then 2 else 1

/-- A descriptor's miss is reported with its completion where that comes first (R172). -/
def reportLate (q : QDesc) (stage : Nat) (s : State) : State := if descLate s q && !q.reported then reportMiss q stage s else s

/-- The record of a task's descriptor, then its counter. -/
def recordTask (w : Who) (t : Task) (status result : Nat) (s : State) : State :=
  match ringOf s t.q.ring.toNat with
  | none => s
  | some r =>
    let h := if wantsRecord t.q status then ringTaken t.q.ring.toNat r.recordLine s else (true, s)
    if !h.1 then h.2
    else
      let s := h.2
      let i : RecordInfo := { status := status, result := result, poison := t.poison, missed := t.missed || descLate s t.q,
                              eng := w.eng.toNat }
      let t' := { t with recorded := some (BitVec.ofNat 8 status), st := .ready, poison := false, figure := 0 }
      let s := putTask w.key t' (writeRecord t.q i w.x (reportLate t.q t.missStage s))
      if t.q.counter then counterStep w t' s else descEnds w.key t' w.x s

/-- A reduce descriptor whose run is full writes its result first (R230). -/
def settleRun (w : Who) (t : Task) (s : State) : State :=
  match runOfTask s w.key with
  | some (_, r) => if r.complete && (t.st = .wait || t.st = .ready) then finishRun w t r s else s
  | none => s

/-- DESCRIPTOR_COMPLETE (R163). -/
def descriptorComplete (e : Eng) (ctx : Nat) (x : Ext) (s : State) : State :=
  let key := taskKey e.toNat ctx
  match taskOf s key with
  | none => s
  | some t =>
    let w : Who := { eng := e, task := ctx, tenant := t.q.tenant.toNat, x := x }
    if t.chunk.isSome then s
    else if t.recorded.isSome then
      match t.st with
      | .ready => counterStep w t s
      | .done c _ => descEnds key t x (if c = 0 && !t.poison then s else counterFails t.q s)
      | _ => s
    else
      let s := settleRun w t s
      match taskOf s key with
      | some t =>
        match t.st with
        | .done c v => recordTask w t c.toNat v.toNat s
        | _ => s
      | none => s

/-- DESCRIPTOR_COMPLETE (R163). -/
def execDescriptorComplete (t : Ltc) (eng : Eng) (task : BitVec 5) (x : Ext) (s : State) : Host.Outcome State Fault Refusal :=
  .next (descriptorComplete eng task.toNat x (adv t s))

/-- RESULT of a descriptor that was never begun: the progress figure of its group with nothing done (R164, R196, R217). -/
def unbegunFigure (group : Nat) (q : QDesc) (s : State) : Nat × State :=
  if group = 1 then (gatherFigure 0 noPos, s)
  else if group = 0 && (q.op = 1 || q.op = 2) then refusalFigure q s
  else (0, s)

/-- The home takes the record of a descriptor that never began, and a task context of its engine is free for its counter. -/
def canComplete (e : Nat) (q : QDesc) (counts : Bool) (s : State) : Bool × State :=
  match ringOf s q.ring.toNat with
  | none => (true, s)
  | some r => if counts && q.counter && (freeCtx s e).isNone then (false, s) else ringTaken q.ring.toNat r.recordLine s

/-- A descriptor that never began completes under an engine's name: its record, and its counter in a task context of that
engine. DESIGN CHOICE (log entry 56): DEADLINE_MISSED of a refused descriptor whose DEADLINE word is poison is tested on the
bits the word reads as. -/
def unbegunDone (e : Nat) (q : QDesc) (status stage : Nat) (poison counts : Bool) (x : Ext) (s : State) : State :=
  match ringOf s q.ring.toNat with
  | none => s
  | some r =>
    let f := unbegunFigure r.group q (reportLate q stage s)
    let i : RecordInfo := { status := status, result := f.1, poison := poison, missed := descLate s q, eng := e }
    match (if counts && q.counter then freeCtx s e else none) with
    | some ctx =>
      let t : Task := { q := q, began := after s 0, missed := i.missed, recorded := some (BitVec.ofNat 8 status) }
      let w : Who := { eng := BitVec.ofNat 11 e, task := ctx, tenant := q.tenant.toNat, x := x }
      counterStep w t (putTask w.key t (writeRecord q i x f.2))
    | none => tryFreeRing q.ring.toNat (placeAll (writeRecord q i x f.2))

/-- A fetched descriptor that has not begun completes `RING_DESTROYED`, once that can be: `out` takes it from where it waits
(R160). -/
def destroyOne (e : Nat) (q : QDesc) (stage : Nat) (out : State → State) (s : State) : State :=
  let h := canComplete e q true s
  if h.1 then unbegunDone e q 0x30 stage false true noExt (out h.2) else h.2

/-! ### Fetch (R158, R166) -/

/-- A ring is ready for a batch (R166). -/
def Ring.readyFor (r : Ring) (die cl group : Nat) : Bool :=
  r.die = die && r.cl = cl && r.group = group && r.state = 1 && r.waiting ≠ 0 && r.room ≠ 0 && decide (r.batches.length < 4)

/-- A ring that no engine may serve is reported once (R166, R412). -/
def reportNoEngine (n : Nat) (r : Ring) (s : State) : State :=
  if r.noEngine then s
  else
    raiseFault { cls := 6, code := 6, sev := 1, kind := 8, index := n, tenant := r.tenant.toNat,
                 detail := packBits [(3, r.group), (4, 8 * r.die + r.cl)] } (putRing n { r with noEngine := true } s)

/-- The two lines of a slot as they read, and the poison marks of its 16 words. -/
def readSlot (r : Ring) (i : Nat) (x : Ext) (s : State) : (BitVec 1024 × BitVec 16) × State :=
  let ln := r.slotAddr i / 64
  let a := homeRead ln x s
  let b := homeRead (ln + 1) x a.2
  ((BitVec.ofNat 1024 (linesData [a.1, b.1]), BitVec.ofNat 16 (linesPoison [a.1, b.1])), b.2)

/-- k slots from index i as they read. -/
def readSlots (r : Ring) (x : Ext) : Nat → Nat → State → List (BitVec 1024 × BitVec 16) × State
  | 0, _, s => ([], s)
  | k + 1, i, s =>
    let d := readSlot r i x s
    let rest := readSlots r x k ((i + 1) % 2 ^ 32) d.2
    (d.1 :: rest.1, rest.2)

/-- The home takes the reads of some slots' lines (R134). -/
def slotsTaken (n : Nat) (r : Ring) (i k : Nat) (s : State) : Bool × State :=
  ((List.range k).flatMap fun j => [r.slotAddr (i + j) / 64, r.slotAddr (i + j) / 64 + 1]).foldl
    (fun a ln => if a.1 then ringTaken n ln a.2 else a) (true, s)

/-- A batch of a ring is issued: its slots pass R103 or the ring errs (R153, R166). HEAD passes them with their reads, so that
software may rewrite them from then on (R154). -/
def issueBatch (n : Nat) (r : Ring) (x : Ext) (s : State) : State :=
  let k := min 8 (min r.waiting r.room)
  let ok := (List.range k).all fun j => accessAllowed s r.tenant.toNat (r.slotAddr (r.head.toNat + j)) false
  if !ok then ringError n r.head.toNat s
  else
    let h := slotsTaken n r r.head.toNat k s
    if !h.1 then h.2
    else
      let d := readSlots r x k r.head.toNat h.2
      putRing n { r with head := r.head + BitVec.ofNat 32 k, inflight := r.inflight + k, batches := r.batches ++ [(r.head, d.1)],
                         noEngine := false } d.2

/-- The number of a fetch unit (R166). -/
def fetchUnit (die cl group : Nat) : Nat := 64 * die + 8 * cl + group

/-- FETCH_BATCH (R166): the first ready ring after the one served last; in STANDBY nothing is fetched (R384). -/
def fetchBatch (die cl group : Nat) (x : Ext) (s : State) : State :=
  if rd s Fld.PWR_STATUS_STATE = 2 then s
  else
    let ready := s.eng.rings.filter fun e => e.2.readyFor die cl group
    let s := (ready.filter fun e => (placeCluster s e.2).isNone).foldl (fun s e => reportNoEngine e.1 e.2 s) s
    let can := ready.filter fun e => ((placeCluster s e.2).bind fun c => pickEngine s die c group).isSome
    let u := fetchUnit die cl group
    let last := s.eng.served.find u
    let pick := match last with
      | some l => (can.find? fun e => decide (l < e.1)).or can.head?
      | none => can.head?
    match pick with
    | none => s
    | some (n, r) => issueBatch n r x { s with eng := { s.eng with served := s.eng.served.put u n } }

/-- FETCH_BATCH (R166). -/
def execFetchBatch (t : Ltc) (die : BitVec 1) (cluster : BitVec 3) (group : BitVec 3) (x : Ext) (s : State) :
    Host.Outcome State Fault Refusal :=
  .next (fetchBatch die.toNat cluster.toNat group.toNat x (adv t s))

/-- One descriptor arrives: refused, destroyed with its ring, or held for a run queue (R160, R162, R172). False where it must
complete and its record is not taken yet: it arrives later. -/
def arriveOne (n i : Nat) (d : BitVec 1024 × BitVec 16) (x : Ext) (s : State) : Bool × State :=
  match ringOf s n with
  | none => (true, s)
  | some r =>
    let bad := d.2.toNat
    let a := nextAge s
    let q : QDesc := { ring := BitVec.ofNat 12 n, slot := BitVec.ofNat 32 i, desc := d.1, tenant := r.tenant,
                       age := a.1, fetchedAt := after s 0 }
    let check := fetchCheck r q bad
    let counts := check ≠ some 0x11
    let h := if check.isSome || r.state = 3 then canComplete r.homeEng q counts s else (true, s)
    if !h.1 then h
    else
      let late := descLate s q && !bitAt bad 1
      let q := { q with reported := late || bitAt bad 1 }
      let s := { h.2 with eng := { h.2.eng with age := a.2.eng.age } }
      let s := if late then reportMiss q 0 s else s
      (true, match check with
        | some c =>
          let q := if bitAt bad 0 then { q with desc := BitVec.ofNat 1024 (putBits q.desc.toNat 32 32 0) } else q
          unbegunDone r.homeEng q c 0 (bad ≠ 0) counts x s
        | none =>
          if r.state = 3 then unbegunDone r.homeEng q 0x30 0 false true x s
          else putRing n { r with held := r.held ++ [q] } s)

/-- The slots of a batch arrive in order, as far as they can; those that are left. -/
def arriveAll (n : Nat) (x : Ext) : Nat → List (BitVec 1024 × BitVec 16) → State → List (BitVec 1024 × BitVec 16) × State
  | _, [], s => ([], s)
  | i, d :: rest, s =>
    let a := arriveOne n i d x s
    if a.1 then arriveAll n x ((i + 1) % 2 ^ 32) rest a.2 else (d :: rest, a.2)

/-- DESCRIPTOR_ARRIVAL (R162): the oldest batch of a ring arrives. -/
def descriptorArrival (n : Nat) (x : Ext) (s : State) : State :=
  match ringOf s n with
  | none => s
  | some r =>
    match r.batches with
    | [] => s
    | (i, ds) :: rest =>
      let a := arriveAll n x i.toNat ds (putRing n { r with batches := rest } s)
      let s := if a.1.isEmpty then a.2
        else updRing n (fun r => { r with batches := (i + BitVec.ofNat 32 (ds.length - a.1.length), a.1) :: r.batches }) a.2
      placeAll s

/-- DESCRIPTOR_ARRIVAL (R162). -/
def execDescriptorArrival (t : Ltc) (ring : BitVec 12) (x : Ext) (s : State) : Host.Outcome State Fault Refusal :=
  .next (descriptorArrival ring.toNat x (adv t s))

/-! ### Beginning (R167, R171) -/

/-- A gather engine's or data mover's task that keeps the next descriptor from beginning. -/
def Task.blocksBegin (group : Nat) (t : Task) : Bool :=
  t.recorded.isNone && (match t.st with
    | .ready => true
    | .walking _ _ => true
    | .wait => group = 2
    | _ => false)

/-- An engine could begin a descriptor (R167, R186). -/
def couldBegin (s : State) (e : Nat) (group : Nat) (q : QDesc) : Bool :=
  (freeCtx s e).isSome &&
    (match group with
     | 0 => tileRoom s e q
     | 1 => !(tasksOn s e).any fun x => x.2.blocksBegin 1
     | 2 => !(tasksOn s e).any fun x => x.2.blocksBegin 2
     | _ => true)

/-- The body check of a group (R175, R198, R210, R220, R227). -/
def bodyCheck (s : State) (group : Nat) (q : QDesc) : Option Nat :=
  match group with
  | 0 => tileCheck s q
  | 1 => gatherCheck q
  | 2 => moverCheck q
  | _ => reduceCheck q

/-- The oldest descriptor of a run queue. -/
def oldestOf (l : List QDesc) : Option QDesc := firstMin QDesc.age l

/-- A descriptor leaves a run queue. -/
def unqueue (e : Nat) (q : QDesc) (s : State) : State := setRunq e ((runqOf s e).erase q) s

/-- A begun operation of the TR-12 may be tagged: at most 64 tags of a die are in flight (R422, R423). -/
def tagDesc (e : Eng) (q : QDesc) (s : State) : QDesc × State :=
  match s.variant with
  | .tr6 => (q, s)
  | .tr12 =>
    let c := chosen e.group q.tenant.toNat s
    if !c.1 then (q, c.2)
    else
      let tags := (c.2.eng.tasks.filter fun x => x.2.q.tagged && x.2.chunk.isNone && bitsOf (x.1 / 32) 7 1 = e.die).length
      if tags < 64 && ringUsable c.2 then ({ q with tagged := true }, c.2) else (q, bump (noteRingLost c.2) Fld.TEL_STATUS_SKIPPED)

/-- A descriptor begins in a context: its body is checked; a tile's sequence operation takes its lock (R162, R195). -/
def beginIn (e : Eng) (ctx : Nat) (q : QDesc) (s : State) : State :=
  let g := tagDesc e q s
  let s := if e.group = 0 && q.op ≠ 4 then readCtx (cbCtx q) g.2 else g.2
  let a := nextAge (countEv e.cl 0x010 q.tenant.toNat 1 s)
  let key := taskKey e.toNat ctx
  let t : Task := { q := g.1, began := after s 0, order := a.1, missed := descLate s q }
  match bodyCheck a.2 e.group q with
  | some c =>
    let f := unbegunFigure e.group q a.2
    putTask key { t with st := .done (BitVec.ofNat 8 c) (BitVec.ofNat 64 f.1) } f.2
  | none =>
    if e.group = 0 && q.op ≠ 4 then
      let l := takeLock q key a.2
      putTask key { t with st := l.1, area := tileArea a.2 q, figure := if q.op = 3 then 0 else seqFigure a.2 q 0,
                           lockWaits := if l.1 = .ready then 0 else 1 } l.2
    else
      putTask key { t with area := if e.group = 0 then tileArea a.2 q else 0,
                           figure := if e.group = 1 then gatherFigure 0 noPos else 0 } a.2

/-- A descriptor that DROP_LATE keeps from beginning completes without running (R171, R172). -/
def dropIn (e : Eng) (ctx : Nat) (q : QDesc) (s : State) : State :=
  let s := if q.reported then s else reportMiss q 5 s
  let f := unbegunFigure e.group q s
  let t : Task := { q := { q with reported := true }, began := after s 0, missed := true,
                    st := .done 0x01 (BitVec.ofNat 64 f.1) }
  putTask (taskKey e.toNat ctx) t f.2

/-- DESCRIPTOR_BEGIN (R167): the oldest descriptor of an enabled engine's run queue, when the engine could begin it. -/
def descriptorBegin (e : Eng) (s : State) : State :=
  let code := e.toNat
  match oldestOf (runqOf s code) with
  | none => s
  | some q =>
    let destroyed : Bool := match ringOf s q.ring.toNat with | some r => decide (r.state = 3) | none => true
    if destroyed then destroyOne code q 1 (unqueue code q) s
    else if !engPresent s e || !engEnabled s e.die e.cluster e.group e.unit || !couldBegin s code e.group q then s
    else
      match freeCtx s code with
      | none => s
      | some ctx =>
        let s := unqueue code q s
        if q.dropLate && descLate s q then dropIn e ctx q s else beginIn e ctx q s

/-- DESCRIPTOR_BEGIN (R167). -/
def execDescriptorBegin (t : Ltc) (eng : Eng) (s : State) : Host.Outcome State Fault Refusal :=
  let s := adv t s
  .next (if (runqOf s eng.toNat).isEmpty then s else awake eng (descriptorBegin eng) s)

/-! ### Stealing (R167, R169) -/

/-- A thief may take a descriptor (R167, R169, R186). -/
def maySteal (s : State) (e : Eng) (q : QDesc) : Bool :=
  match ringOf s q.ring.toNat with
  | none => false
  | some r =>
    r.state ≠ 3 && mayServe s e.die e.cluster e.group q.tenant.toNat &&
      (!r.noSteal || (e.die = r.die && e.cluster = r.cl)) && couldBegin s e.toNat e.group q

/-- What a thief can find in a cluster of its die: (engine, descriptor) pairs. -/
def stealable (s : State) (e : Eng) (cl : Nat) : List (Nat × QDesc) :=
  (List.range (unitsOf e.group)).flatMap fun u =>
    let v := engCode e.die cl e.group u
    if v = e.toNat then [] else ((runqOf s v).filter (maySteal s e)).map fun q => (v, q)

/-- The first cluster in the probe order that holds a descriptor for a thief, its own first. -/
def stealFrom (s : State) (e : Eng) : Option (Nat × QDesc) :=
  ((probeOrder e.cluster).find? fun c => !(stealable s e c).isEmpty).bind fun c => firstMin (fun x => x.2.age) (stealable s e c)

/-- STEAL (R167). -/
def steal (e : Eng) (s : State) : State :=
  if !engPresent s e || !engEnabled s e.die e.cluster e.group e.unit || !(runqOf s e.toNat).isEmpty then s
  else
    match stealFrom s e with
    | none => s
    | some (v, q) =>
      let s := setRunq e.toNat [q] (unqueue v q s)
      let s := countEv e.cl 0x013 q.tenant.toNat 1 s
      bump s (if bitsOf v 4 3 = e.cluster then Fld.ENG_STATUS2_STEALS_CLUSTER else Fld.ENG_STATUS2_STEALS_DIE)

/-- STEAL (R167). -/
def execSteal (t : Ltc) (eng : Eng) (s : State) : Host.Outcome State Fault Refusal := .next (steal eng (adv t s))

/-! ### Deadlines (R172) -/

/-- A fetched descriptor: its ring and SLOT. -/
def QDesc.isAt (q : QDesc) (n : Nat) (slot : BitVec 32) : Bool := q.ring.toNat = n && q.slot = slot

/-- Marks a descriptor as reported, wherever it is. -/
def markReported (n : Nat) (slot : BitVec 32) (s : State) : State :=
  let f (q : QDesc) : QDesc := if q.isAt n slot then { q with reported := true } else q
  let s := updRing n (fun r => { r with held := r.held.map f }) s
  { s with eng := { s.eng with
      runq := s.eng.runq.mapVals fun _ l => l.map f
      tasks := s.eng.tasks.mapVals fun _ t => { t with q := f t.q } } }

/-- Where a fetched descriptor is: itself and the STAGE a miss would carry. -/
def findDesc (s : State) (n : Nat) (slot : BitVec 32) : Option (QDesc × Nat) :=
  match s.eng.tasks.vals.find? fun t => t.q.isAt n slot && t.chunk.isNone && t.recorded.isNone with
  | some t =>
    let parked := s.eng.tasks.vals.any fun c => c.q.isAt n slot && c.chunk.isSome && c.missStage = 4
    some (t.q, if parked then 4 else t.missStage)
  | none =>
    match (queuedOf s n).find? fun q => q.isAt n slot with
    | some q => some (q, 1)
    | none =>
      match ringOf s n with
      | none => none
      | some r => (r.held.find? fun q => q.isAt n slot).map fun q => (q, heldStage s n r)

/-- DEADLINE_MISS (R172): reported once for a fetched descriptor whose deadline has passed. -/
def deadlineMiss (n : Nat) (slot : BitVec 32) (s : State) : State :=
  match findDesc s n slot with
  | none => s
  | some (q, stage) =>
    if q.reported || !descLate s q then s else markReported n slot (reportMiss q stage s)

/-- DEADLINE_MISS (R172). -/
def execDeadlineMiss (t : Ltc) (ring : BitVec 12) (slot : BitVec 32) (s : State) : Host.Outcome State Fault Refusal :=
  .next (deadlineMiss ring.toNat slot (adv t s))

/-! ### RING_CREATE and RING_DESTROY (R152, R153, R160) -/

/-- Bytes lo..hi − 1 lie wholly inside one KIND 0 ingot of a tenant. -/
def insideOwn (s : State) (t lo hi : Nat) : Bool :=
  s.mem.ingots.vals.any fun i =>
    i.kind = 0 && i.tenant.toNat = t && i.releasing.isNone &&
      decide (i.base.toNat * gib ≤ lo ∧ hi ≤ (i.base.toNat + i.count.toNat) * gib)

/-- The refusals of R153 for a well-formed entry. -/
def ringEntryOk (s : State) (t : Nat) (r : Ring) : Bool :=
  let n := bitsOf r.entry.toNat 0 4
  let lo := r.base
  let hi := lo + 128 * r.slots
  let clo := r.cqBase
  let chi := clo + 32 * r.cqSize
  decide (6 ≤ n ∧ n ≤ 15) && decide (6 ≤ r.cqLog ∧ r.cqLog ≤ 15) && decide (r.die < dies s) && insideOwn s t lo hi &&
    insideOwn s t clo chi && (decide (hi ≤ clo) || decide (chi ≤ lo))

/-- The lowest ring number not in use. DESIGN CHOICE (log entry 56): the manual names no order for the numbers returned. -/
def freeRing (s : State) : Option Nat := (List.range 4096).find? fun n => (ringOf s n).isNone

/-- RING_CREATE (R153). -/
def execRingCreate (t : Ltc) (h : CmdHdr) (e : BitVec 512) (s : State) : Host.Outcome State Fault Refusal :=
  opcode t h .tenant false (fun s =>
    let r : Ring := { entry := e, tenant := BitVec.ofNat 10 h.tenant.toNat }
    if bitsOf e.toNat 44 4 ≠ 0 || bitsOf e.toNat 76 436 ≠ 0 || r.group = 3 || decide (5 ≤ r.group) then
      refuseCmd h Status.RSV_NONZERO s
    else if !ringEntryOk s h.tenant.toNat r then refuseCmd h Status.BAD_PARAM s
    else
      match freeRing s with
      | none => refuseCmd h Status.NO_RESOURCE s
      | some n => okCmd h (leBytes 2 n) (putRing n r s)) s

/-- The descriptors of a run queue that belong to a ring complete RING_DESTROYED; one that cannot complete now stays. -/
def destroyQueued (n : Nat) (s : State) (e : Nat) : State :=
  ((runqOf s e).filter fun q => q.ring.toNat = n).foldl (fun s q => destroyOne e q 1 (unqueue e q) s) s

/-- The held descriptors of a ring complete RING_DESTROYED. -/
def destroyHeld (n : Nat) (s : State) : State :=
  match ringOf s n with
  | none => s
  | some r => r.held.foldl (fun s q =>
      destroyOne r.homeEng q (heldStage s n r) (updRing n fun r => { r with held := r.held.erase q }) s) s

/-- RING_DESTROY (R160). -/
def execRingDestroy (t : Ltc) (h : CmdHdr) (ring : BitVec 16) (s : State) : Host.Outcome State Fault Refusal :=
  opcode t h .either false (fun s =>
    let n := ring.toNat
    match ringOf s n with
    | none => refuseCmd h Status.NOT_FOUND s
    | some r =>
      if r.state = 3 || (h.tenant ≠ 0xFFF && h.tenant.toNat ≠ r.tenant.toNat) then refuseCmd h Status.NOT_FOUND s
      else
        let s := beginLong h (putRing n { r with state := 3, destroyer := some h } s)
        let s := s.eng.runq.keys.foldl (destroyQueued n) s
        tryFreeRing n (destroyHeld n s)) s

/-! ### ENGINE_SET_ENABLE (R151) -/

/-- The engine bitmap in force, by the bits written. -/
def enableBits (s : State) : Nat := (List.range 8).foldl (fun x i => x + rd s (Fld.ENG_ENABLE_ENABLE i) * 2 ^ (64 * i)) 0

/-- ENGINE_SET_ENABLE (R151, R384). -/
def execEngineSetEnable (t : Ltc) (h : CmdHdr) (bitmap : BitVec 512) (s : State) : Host.Outcome State Fault Refusal :=
  opcode t h .platform false (fun s =>
    let b := bitmap.toNat
    if dies s = 1 && b / 2 ^ 256 ≠ 0 then refuseCmd h Status.RSV_NONZERO s
    else if rd s Fld.PWR_STATUS_STATE = 2 && b ||| enableBits s ≠ enableBits s then refuseCmd h Status.NOT_PERMITTED s
    else
      let s := (List.range 8).foldl (fun s i => wr s (Fld.ENG_ENABLE_ENABLE i) (bitsOf b (64 * i) 64)) s
      okCmd h [] (placeAll s)) s

end Sys2Proof.Machine
end

