-- ==== Sys2Proof/Machine/Home.lean ====
section
/-! DEFINITION. The commands that reach a home agent, each followed by the fabric requests of class 0 whose lines it leaves
idle (R130-R148). -/

namespace Sys2Proof.Machine

/-- A message reaches a home; requests of class 0 whose turn has come are performed (R134). -/
def atHome (f : State → State) (t : Ltc) (s : State) : Host.Outcome State Fault Refusal := .next (serveWaiting (f (adv t s)))

/-- RD_SHARED at the home (R133). -/
def execRdShared (t : Ltc) (aid : BitVec 14) (ln : BitVec 34) (s : State) : Host.Outcome State Fault Refusal :=
  atHome (homeRequest { aid := aid, op := .rdShared } ln.toNat) t s

/-- RD_OWN at the home (R133). -/
def execRdOwn (t : Ltc) (aid : BitVec 14) (ln : BitVec 34) (s : State) : Host.Outcome State Fault Refusal :=
  atHome (homeRequest { aid := aid, op := .rdOwn } ln.toNat) t s

/-- UPGRADE at the home (R131, R133). -/
def execUpgrade (t : Ltc) (aid : BitVec 14) (ln : BitVec 34) (s : State) : Host.Outcome State Fault Refusal :=
  atHome (homeRequest { aid := aid, op := .upgrade } ln.toNat) t s

/-- RD_CUR at the home (R137). -/
def execRdCur (t : Ltc) (aid : BitVec 14) (ln : BitVec 34) (s : State) : Host.Outcome State Fault Refusal :=
  atHome (homeRequest { aid := aid, op := .rdCur } ln.toNat) t s

/-- WR_LINE at the home (R137, R147). -/
def execWrLine (t : Ltc) (aid : BitVec 14) (ln : BitVec 34) (mask : BitVec 64) (l : Line) (s : State) :
    Host.Outcome State Fault Refusal :=
  atHome (homeRequest { aid := aid, op := .wrLine mask l } ln.toNat) t s

/-- ATOMIC at the home atomic unit (R140-R142). An unassigned encoding is discarded as a cell's is (R261). -/
def execHomeAtomic (t : Ltc) (aid : BitVec 14) (ln : BitVec 34) (code : BitVec 4) (size8 : Bool) (offset : BitVec 6)
    (operand cmp : Word) (s : State) : Host.Outcome State Fault Refusal :=
  atHome (fun s =>
    if !atomicAssigned code.toNat size8 then bump s Fld.FAB_STATUS_CHECK_FAIL
    else if offset.toNat % (if size8 then 8 else 4) ≠ 0 then sendRefused aid ln.toNat 0x12 s
    else homeRequest { aid := aid, op := .atomic code size8 offset operand cmp } ln.toNat s) t s

/-- EVICT_CLEAN (R132). -/
def execEvictClean (t : Ltc) (aid : BitVec 14) (ln : BitVec 34) (s : State) : Host.Outcome State Fault Refusal :=
  atHome (homeRelease aid ln.toNat none) t s

/-- WRITEBACK (R132). -/
def execWriteback (t : Ltc) (aid : BitVec 14) (ln : BitVec 34) (l : Line) (s : State) : Host.Outcome State Fault Refusal :=
  atHome (homeRelease aid ln.toNat (some l)) t s

/-- RSP_I (R133). -/
def execRspI (t : Ltc) (aid : BitVec 14) (ln : BitVec 34) (s : State) : Host.Outcome State Fault Refusal :=
  atHome (homeResponse aid ln.toNat (fun tr s => (tr, ownerGone aid ln.toNat s))) t s

/-- RSP_S (R133): the agent keeps the line shared; in answer to `SNP_CUR`, in its state. -/
def execRspS (t : Ltc) (aid : BitVec 14) (ln : BitVec 34) (s : State) : Host.Outcome State Fault Refusal :=
  atHome (homeResponse aid ln.toNat (fun tr s => ({ tr with kept := true }, s))) t s

/-- RSP_I_DATA (R133). -/
def execRspIData (t : Ltc) (aid : BitVec 14) (ln : BitVec 34) (l : Line) (s : State) : Host.Outcome State Fault Refusal :=
  atHome (homeResponse aid ln.toNat (fun tr s => ({ tr with data := some l }, ownerGone aid ln.toNat s))) t s

/-- RSP_S_DATA (R133). -/
def execRspSData (t : Ltc) (aid : BitVec 14) (ln : BitVec 34) (l : Line) (s : State) : Host.Outcome State Fault Refusal :=
  atHome (homeResponse aid ln.toNat (fun tr s => ({ tr with data := some l, kept := true }, s))) t s

/-- RSP_WB_IN_FLIGHT (R136, R139). -/
def execRspWbInFlight (t : Ltc) (aid : BitVec 14) (ln : BitVec 34) (dirty : Bool) (s : State) :
    Host.Outcome State Fault Refusal :=
  atHome (homeResponse aid ln.toNat (fun tr s =>
    if tr.early.contains aid then (tr, s)
    else if dirty then ({ tr with wb := tr.wb ++ [aid], st := .hWbwait }, s)
    else (tr, setCoh { s.coh with expect := s.coh.expect ++ [(ln.toNat, aid)] } (ownerGone aid ln.toNat s)))) t s

/-- A transaction that waits for its line's data gets it and ends: a request in H_RD, or an atomic at the home atomic unit. -/
def lineData (n : Nat) (s : State) : State :=
  match s.coh.htt.find n with
  | none => s
  | some tr =>
    match tr.st with
    | .hRd =>
      let r := readLine .stack n s
      settleLine n (grantWith tr.req n tr.kept r.1 (delTrans n r.2))
    | .hAtomic => settleLine n (endAtomic tr.req n none (delTrans n s))
    | _ => s

/-- LINE_DATA_FROM_STACK (R138, R142). -/
def execLineDataFromStack (t : Ltc) (ln : BitVec 34) (s : State) : Host.Outcome State Fault Refusal :=
  atHome (lineData ln.toNat) t s

/-- COH_RECLAIM_DECLARE_DEAD (R146). -/
def execCohReclaimDeclareDead (t : Ltc) (aid : BitVec 14) (s : State) : Host.Outcome State Fault Refusal :=
  atHome (declareDead aid) t s

/-- The oldest walk that runs has read every entry; the per-line steps of H_RECLAIM begin and end within this one. -/
def endReclaimWalk (s : State) : State :=
  match s.coh.walks with
  | [] => s
  | a :: rest =>
    let s := s.coh.dir.keys.foldl (reclaimEntry a) (setCoh { s.coh with walks := rest } s)
    let s := wr s Fld.COH_RECLAIM_STATUS_ACTIVE (b2n (!rest.isEmpty))
    if rd s Fld.COH_RECLAIM_STATUS_AID = a.toNat then wr s Fld.COH_RECLAIM_STATUS_DONE 1 else s

/-- RECLAIM_WALK_DONE (R146). -/
def execReclaimWalkDone (t : Ltc) (s : State) : Host.Outcome State Fault Refusal := atHome endReclaimWalk t s

/-- A request of this part itself that was answered `NACK` is sent again (R134). -/
def retryOwn (k : Nat) (s : State) : State := if k < 2 ^ 40 then resendElc k s else tryFinishCtx (k - 2 ^ 40) noExt s

/-- NACK_BACKOFF (R134, R279): 2^min(n − 1, 6) µs after the n-th NACK. Where `dest` names this part, the request is the one of
its cache of key `num` (2^34 × die + line), or the write-back of sequence context `num` − 2^40. -/
def execNackBackoff (t : Ltc) (dest : BitVec 12) (enc : Bool) (owner : BitVec 13) (num : BitVec 48) (s : State) :
    Host.Outcome State Fault Refusal :=
  let s := adv t s
  .next (match requestOf s dest enc owner num with
    | none => if dest = sourceId s then serveWaiting (retryOwn num.toNat s) else s
    | some r =>
      if !r.backoff || r.waiting || decide (now s < r.nackAt.toNat + us (2 ^ min (r.nacks - 1) 6)) then s else resend r s)

end Sys2Proof.Machine
end

