-- ==== Sys2Proof/Machine/Tenancy.lean ====
section
/-! DEFINITION. Tenants destroyed (R332), partitions (R350) and debug reads (R345). -/

namespace Sys2Proof.Machine

/-! ### TENANT_DESTROY (R332) -/

/-- A tenant holds an ingot, a ring, a bound sequence context or a debug handle. -/
def tenantHolds (s : State) (t : Nat) : Bool :=
  (s.mem.ingots.vals.any fun i => i.kind.toNat ≤ 1 && i.tenant.toNat = t) ||
    (s.eng.rings.vals.any fun r => r.tenant.toNat = t) || (s.cru.ctxs.vals.any fun c => c.tenant.toNat = t) ||
    (s.sec.jobs.vals.any fun j => bindTenant j.binding.toNat = t && j.dbg.isSome)

/-- Every job-key slot bound to a tenant is retired (R344). -/
def retireTenantSlots (t : Nat) (s : State) : State :=
  endScan (stopCounters { s with sec := { s.sec with jobs := s.sec.jobs.keep fun _ j => bindTenant j.binding.toNat ≠ t } })

/-- Moves of a tenant's pages end where they stand: a landing frame in use returns to the list, and window writes held for their
entries take effect (R111). -/
def dropMoves (t : Nat) (s : State) : State :=
  let mine := s.mem.moves.filter fun m => m.tenant.toNat = t
  let s := { s with mem := { s.mem with
    moves := s.mem.moves.filter (fun m => m.tenant.toNat ≠ t), waitPromote := s.mem.waitPromote.filter fun w => w.1.toNat ≠ t } }
  mine.foldl (fun s m => releasePtw m.pte (match m.kind with | .promote f => landAppend f s | _ => s)) s

/-- What a tenant's pages hold is freed: far frames, sectors, page maps, promoted landing frames. -/
def freeTenantPages (t : Nat) (s : State) : State :=
  let s := dropMoves t s
  let s := (s.mem.farUsed.filter fun e => e.2.1.toNat = t).foldl (fun s e => freeFarFrame e.1 s) s
  let s := (s.mem.maps.filter fun e => e.2.tenant.toNat = t).foldl (fun s e => freeMap e.1 s) s
  (s.mem.promoted.filter fun e => e.2.toNat = t).foldl (fun s e => vacateFrame t e.1 s) s

/-- The tenant, its root, partition and keys are gone. -/
def eraseTenant (t : Nat) (s : State) : State :=
  let s := filterWalks (fun w => w.tenant.toNat ≠ t) (regSet s (Reg.XLT_ROOT.base + 8 * t) 0)
  let m := s.mode
  { s with sec := { s.sec with tenants := s.sec.tenants.del t },
           mode := { m with applied := { m.applied with partitions := m.applied.partitions.del t } } }

/-- The sequence of R332; a `TIER_MOVE` that runs on finds its page gone. -/
def destroyTenant (t : Nat) (s : State) : State :=
  let s := { s with sec := { s.sec with tenants := s.sec.tenants.upd t fun x => { x with sweep := none } } }
  let s := freeTenantSlots t (retireTenantSlots t s)
  placeAll (advanceTiers (eraseTenant t (freeTenantPages t s)))

/-- TENANT_DESTROY (R332). -/
def execTenantDestroy (t : Ltc) (h : CmdHdr) (s : State) : Host.Outcome State Fault Refusal :=
  opcode t h .tenant false (fun s =>
    let ten := h.tenant.toNat
    if (s.sec.tenants.find ten).isNone then refuseCmd h Status.NOT_FOUND s
    else if tenantHolds s ten then refuseCmd h Status.IN_USE s
    else okCmd h [] (destroyTenant ten s)) s

/-! ### PARTITION_SET (R350, R61) -/

/-- An unstaged partition entry takes effect on execution, unless R350 refuses it. -/
def applyPartition (h : CmdHdr) (e : Nat) (s : State) : State :=
  let st := s.mode.applied.setPartition (bitsOf e 0 10) e
  if bitAt e 10 && !partitionsOk (clusters s) st then refuseCmd h Status.NO_RESOURCE s
  else okCmd h [] (placeAll { s with mode := { s.mode with applied := st } })

/-- PARTITION_SET (R350). -/
def execPartitionSet (t : Ltc) (h : CmdHdr) (e : BitVec 512) (s : State) : Host.Outcome State Fault Refusal :=
  opcode t h .tenant true (fun s =>
    let n := e.toNat
    if partRsv n then refuseCmd h Status.RSV_NONZERO s
    else if bitsOf n 0 10 ≠ h.tenant.toNat || 1024 < partInj n || 8 < partElc n || 32 < partHtt n || 2048 < partStreams n then
      refuseCmd h Status.BAD_PARAM s
    else if h.staged then stageCmd h (.partition (BitVec.ofNat 10 (bitsOf n 0 10)) e) s
    else applyPartition h n s) s

/-! ### DEBUG_READ (R345) -/

/-- The lines of a tenant's memory from a virtual address on, through TIER 0 pages only; fuel bounds their number. -/
def debugLines (t : Nat) : Nat → Nat → State → Option (List Line) × State
  | 0, _, s => (some [], s)
  | n + 1, va, s =>
    let w := walkPlain t va s
    match w.1 with
    | .leaf p _ _ size =>
      if p.tier = 0 && framesAllowed w.2 t p size false then
        let la := p.addr + va % 2 ^ size
        let r := homeRead (la / 64) noExt w.2
        let rest := debugLines t n (alignDown va 64 + 64) r.2
        (rest.1.map fun l => r.1 :: l, rest.2)
      else (none, w.2)
    | .bad _ _ _ => (none, w.2)

/-- How many lines n bytes at an address touch. -/
def linesTouched (va n : Nat) : Nat := if n = 0 then 0 else (va + n - 1) / 64 - va / 64 + 1

/-- DEBUG_READ (R345). -/
def execDebugRead (t : Ltc) (h : CmdHdr) (handle : BitVec 32) (addr : Word) (len : BitVec 16) (s : State) :
    Host.Outcome State Fault Refusal :=
  opcode t h .platform false (fun s =>
    let n := len.toNat
    match debugSlot s handle with
    | none => refuseCmd h Status.CONSENT_REQUIRED s
    | some j =>
      if !j.valid || !(j.dbg.map fun d => bitAt d.scope.toNat 0).getD false then refuseCmd h Status.CONSENT_REQUIRED s
      else if 4096 < n then refuseCmd h Status.BAD_PARAM s
      else if 2 ^ 57 < addr.toNat + n then refuseCmd h Status.NOT_FOUND s
      else
        let r := debugLines (bindTenant j.binding.toNat) (linesTouched addr.toNat n) addr.toNat s
        match r.1 with
        | none => refuseCmd h Status.NOT_FOUND r.2
        | some ls =>
          let bytes := ls.flatMap fun l => leBytes 64 l.data.toNat
          okCmd h ((bytes.drop (addr.toNat % 64)).take n) r.2) s

end Sys2Proof.Machine
end

