-- ==== Sys2Proof/Machine/Reset.lean ====
section
/-! DEFINITION. Resets (R397-R399, R429): what each type reaches. -/

namespace Sys2Proof.Machine

/-! ### Registers -/

/-- The registers of an address range return to their reset values (R14). -/
def resetRegs (lo hi : Nat) (s : State) : State :=
  { s with regs := s.regs.keep fun a _ => !(decide (lo ≤ a ∧ a < hi)) }

/-- Every reset writes RST_STATUS (R407). -/
def noteReset (type source : Nat) (s : State) : State :=
  let s := wr (wr s Fld.RST_STATUS_LAST_TYPE type) Fld.RST_STATUS_LAST_SOURCE source
  wr s Fld.RST_STATUS_LAST_LTC (now48 s)

/-- Start-up begins again: no phase is complete (R400, R407). -/
def clearPhases (s : State) : State :=
  let s := wr s Fld.RST_STATUS_PHASES 0
  { s with regs := s.regs.keep fun a _ => !(Reg.RST_PHASE_LTC.holds a) }

/-! ### ENGINES (R397, R398) -/

/-- The long commands whose objects are freed complete: ring destructions and context releases. -/
def completeFreed (s : State) : State :=
  let hs := (s.eng.rings.vals.filterMap fun r => r.destroyer) ++ (s.cru.ctxs.vals.filterMap fun c => c.releasing)
  hs.foldl (fun s h => okCmd h [] s) s

/-- An ENGINES reset reaches the cluster islands of both core dies. -/
def engineScope (s : State) : State :=
  let s := resetRegs 0xD0000 0x100000 (completeFreed s)
  let x := s.xlt
  { s with
    eng := {}, cru := {}, red := {}
    xlt := { x with l1 := [], l2 := [], wc := [], walkers := [], walkq := [], fq := [] }
    mem := { s.mem with waitPromote := [], noticedEmpty := false }
    coh := { s.coh with pend := s.coh.pend.mapVals fun _ p => { p with task := none } }
    tel := { s.tel with counters := [] } }

/-- RESET_ENGINES. -/
def execResetEngines (t : Ltc) (s : State) : Host.Outcome State Fault Refusal :=
  .next (noteReset 1 0 (engineScope (adv t s)))

/-! ### CONTROL -/

/-- An Anvil that a reset reaches is in LOADER with cause 5; one that is unpowered stays OFF (R356). -/
def resetAnvil (a : Anvil) : Anvil := if a.state = 0 then { state := 0 } else { state := 1, lastFault := 5 }

/-- The control plane's tables return to their reset state; the part ID and the frames of the links stay (log entry 47). -/
def clearControl (s : State) : State :=
  { s with
    ctl := { kA := s.ctl.kA, kB := s.ctl.kB, partId := s.ctl.partId }
    mode := {}
    anv := { a := resetAnvil s.anv.a, b := resetAnvil s.anv.b, staging := s.anv.staging }
    fab := { s.fab with paths0 := [], paths1 := [], drains := [] }
    tc := { s.tc with
      ports := s.tc.ports.mapVals fun _ p => { p with bank0 := [], bank1 := [], cycle := 0, armed := none }
      meters := [] } }

/-- A CONTROL reset (R397, R398, R429). -/
def controlScope (s : State) : State :=
  let s := resetRegs 0x1200 0x1300 (resetRegs 0x1000 0x1100 (clearControl s))
  let s := { s with regs := s.regs.keep fun a _ => !(Reg.FAB_ROUTE_STATUS.holds a || Reg.TC_GATE_STATE.holds a) }
  resetRegs 0x180008 0x180018 s

/-- RESET_CONTROL. -/
def execResetControl (t : Ltc) (s : State) : Host.Outcome State Fault Refusal :=
  .next (noteReset 2 0 (controlScope (adv t s)))

/-! ### FABRIC_A and FABRIC_B -/

/-- A port of a die that stops: high-impedance, its cells gone, its registers at reset (R304, R398). -/
def stopPort (s : State) (p : Nat) : State :=
  let s := setPortState p 0 (dropUnacked p s)
  let s := setLport s p {}
  let s := resetRegs (0x130100 + 32 * p) (0x130100 + 32 * p + 32) s
  let s := setReady p [] s
  let x := tportOf s p
  syncQueued p (setTport s p { x with queues := [], v := 0 })

/-- Requests through the endpoints of a die end as at their time-out (R279, R398). -/
def endRequestsOf (d : FDie) (s : State) : State :=
  (s.fab.reqs.filter fun r => onDie d r.port.toNat).foldl (fun s r => endRequest r s) s

/-- The Kaferlink port of a die stops; replies that left on it and are not acknowledged wait again (R398). -/
def stopKafer (p : KPort) (s : State) : State :=
  let old := rd s (Fld.KAFER_LINK_STATUS_STATE p.num)
  let s := resetRegs (0x1100 + 0x80 * p.num) (0x1180 + 0x80 * p.num) s
  let s := if old = 0 then s else linkStateEvent true p.num old 0 0 s
  let s := mapJournal (fun e =>
    match e.sentOn with
    | some (q, _) => if q = p then { e with sentOn := none } else e
    | none => e) s
  setKlink s p {}

/-- The Anvil of a die is OFF; an activation of it fails; the token is settled (R355, R356, R398). -/
def stopAnvil (d : FDie) (s : State) : State :=
  let s := endActivation d false s
  settleToken (setAnvil d { state := 0, lastFault := 5 } s)

/-- What the DDR5 channels of a die held is lost (R398). -/
def loseChannels (d : FDie) (s : State) : State :=
  let tick := s.mem.tick + 1
  let keys := (List.range 48).map fun i => segKey (384 + 6 * d.num + i / 8) (i % 8)
  let units := s.mem.units.keep fun k _ => !(decide (384 + 6 * d.num ≤ k ∧ k < 384 + 6 * d.num + 6))
  { s with mem := { s.mem with
    tick := tick, units := units, lost := keys.foldl (fun (t : Tab Nat) k => t.put k tick) s.mem.lost } }

/-- A reset that reaches one fabric die (R397, R398). -/
def fabricScope (d : FDie) (s : State) : State :=
  let s := endRequestsOf d s
  let s := ((List.range 16).filter (onDie d)).foldl stopPort s
  let s := stopKafer (if d = .f0 then .a else .b) s
  let s := loseChannels d (stopAnvil d s)
  { s with
    pwr := { s.pwr with downA := s.pwr.downA || d = .f0, downB := s.pwr.downB || d = .f1, retrain := true }
    fab := { s.fab with crossing := [], cong := s.fab.cong.keep fun p _ => !(onDie d p) } }

/-- RESET_FABRIC. -/
def execResetFabric (t : Ltc) (d : FDie) (s : State) : Host.Outcome State Fault Refusal :=
  .next (noteReset (3 + d.num) 0 (fabricScope d (adv t s)))

/-! ### CORE (R399) -/

/-- Long commands whose work lies in the core dies end with `INTERNAL_ERROR` (log entry 48). -/
def failCoreWork (s : State) : State :=
  let hs := (s.mem.ingots.vals.filterMap fun i => i.releasing) ++ (s.mem.tierCmds.map fun c => c.h) ++
    (s.xlt.invals.map fun i => i.h) ++ (s.eng.rings.vals.filterMap fun r => r.destroyer) ++
    (s.cru.ctxs.vals.filterMap fun c => c.releasing)
  hs.foldl (fun s h => refuseCmd h Status.INTERNAL_ERROR s) s

/-- MEM_CONFIG keeps what the far tier's channels on the fabric dies set, and takes the reset grain. -/
def keepFarConfig (s : State) : State :=
  let old := regGet s Reg.MEM_CONFIG.base
  let s := resetRegs 0x20000 0x30000 s
  wr (regSet s Reg.MEM_CONFIG.base old) Fld.MEM_CONFIG_GRAIN 4

/-- Both core dies and every stack: contents, tables and tenants are gone; the fabric dies and Anvils keep running. -/
def coreScope (s : State) : State :=
  let s := failCoreWork s
  let s := resetRegs 0x30000 0x100000 (keepFarConfig s)
  let s := wr (wr s Fld.FAB_STREAM_STATUS_USED_C0 0) Fld.FAB_STREAM_STATUS_USED_C1 0
  { s with
    eng := {}, cru := {}, red := {}, xlt := {}, coh := {}
    mem := { far := s.mem.far
             units := s.mem.units.keep fun k _ => decide (384 ≤ k)
             tick := s.mem.tick, lost := s.mem.lost.keep fun k _ => decide (8 * 384 ≤ k)
             zeroed := s.mem.zeroed.keep fun k _ => decide (2 ^ 20 ≤ k) }
    sec := { s.sec with tenants := [], jobs := [], scan := none }
    fab := { s.fab with streams := [], waiting := [] }
    ecc := { s.ecc with spares := [], retired := [], retained := [], wakes := [], annealAt := [], annealed := [], writes := [] }
    tel := { s.tel with counters := [] } }

/-- RESET_CORE (R399): from a reset level on VCORE or a stack rail. -/
def execResetCore (t : Ltc) (s : State) : Host.Outcome State Fault Refusal :=
  .next (noteReset 6 2 (coreScope (adv t s)))

/-! ### PART and power-on -/

/-- What no PART reset reaches: the always-on domains' LTC, pins of the supply, PENDING, fuses and reset registers. -/
def partScope (s : State) : State :=
  let keepRegs := s.regs.keep fun a _ => Reg.RST_STATUS.holds a
  let s' : State := {
    variant := s.variant, clk := s.clk, fuses := s.fuses, draws := s.draws, out := s.out, pending := s.pending
    pins := { thermtripLow := s.pins.thermtripLow, bankEnA := s.pins.bankEnA, bankEnB := s.pins.bankEnB }
    pwr := { poresetLow := s.pwr.poresetLow, tripped := s.pwr.tripped, rails := s.pwr.rails,
             enabledAt := s.pwr.enabledAt, bankOkA := s.pwr.bankOkA, bankOkB := s.pwr.bankOkB,
             hotA := s.pwr.hotA, hotB := s.pwr.hotB, vaonOut := s.pwr.vaonOut, goodAt := after s 0 }
    sec := { platformKey := s.draws + 1 }
    ecc := { leakAt := after s 0 }
    regs := keepRegs }
  let pending := rd s Fld.ECC_TIN_STATUS_PENDING
  clearPhases (wr { s' with draws := s.draws + 1 } Fld.ECC_TIN_STATUS_PENDING pending)

/-- RESET_PART. -/
def execResetPart (t : Ltc) (s : State) : Host.Outcome State Fault Refusal :=
  .next (noteReset 5 0 (partScope (adv t s)))

/-! ### RESET (R397) -/

/-- Commands that stand behind a `RESET` in the journal, begun or not, are not executed and get no reply (R52, R397). -/
def dropLater (h : CmdHdr) (s : State) : State :=
  let before := s.ctl.journal.takeWhile fun e => e.h ≠ h
  let rest := s.ctl.journal.drop before.length
  { s with ctl := { s.ctl with journal := before ++ rest.take 1 ++ (rest.drop 1).filter fun e => e.st = .replied } }

/-- The scope of a reset type. -/
def resetScope (type : Nat) (s : State) : State :=
  match type with
  | 1 => engineScope s
  | 2 => controlScope s
  | 3 => fabricScope .f0 s
  | 4 => fabricScope .f1 s
  | _ => partScope s

/-- RESET: the reply goes out before the reset takes effect. -/
def execReset (t : Ltc) (h : CmdHdr) (type : Byte) (s : State) : Host.Outcome State Fault Refusal :=
  opcode t h .platform false (fun s =>
    if type.toNat = 0 || decide (5 < type.toNat) then refuseCmd h Status.BAD_PARAM s
    else noteReset type.toNat 0 (resetScope type.toNat (dropLater h (okCmd h [] s)))) s

end Sys2Proof.Machine
end

