-- ==== Sys2Proof/Machine/Power.lean ====
section
/-! DEFINITION. Power and start-up: states and throttling (R382-R384), supply episodes (R379-R381), PMBus polls (R375), bank
faults (R386), temperature (R387), the supply sequence (R385), start-up phases (R400, R401) and VAON (R395). -/

namespace Sys2Proof.Machine

/-! ### Rails (R370, R378) -/

/-- A rail's setpoint or nominal value, in mV. -/
def nominalMv (s : State) (rail : Nat) : Nat :=
  match rail with
  | 0 => s.fuses.setpointMv.toNat
  | 1 => 1050
  | 2 => 750
  | 3 => 1800
  | 4 => 750
  | 5 => 750
  | 6 => 900
  | 7 => 900
  | 8 => 1100
  | 9 => 1100
  | 10 => 3300
  | 11 => 3300
  | _ => 1800

/-- The domain that a rail fed by one bank belongs to (R370). -/
def railDomain (rail : Nat) : FDie := if rail % 2 = 0 then .f0 else .f1

/-- Rails 4..11 of one bank. -/
def ownRails (d : FDie) : List Nat := [4 + d.num, 6 + d.num, 8 + d.num, 10 + d.num]

/-- A rail is in its window. -/
def railUp (s : State) (rail : Nat) : Bool := s.pwr.rails.getLsbD rail

/-- Rails made in or out of window. -/
def setRails (up : Bool) (rails : List Nat) (s : State) : State :=
  { s with pwr := { s.pwr with
    rails := BitVec.ofNat 14 (rails.foldl (fun x r => putBit x r up) s.pwr.rails.toNat) } }

/-- The lowest on-die reading of a rail since the last read, in 0.1 % below the setpoint (R389). -/
def noteMin (rail mv : Nat) (s : State) : State :=
  let n := nominalMv s rail
  let pct := min 255 ((n - mv) * 1000 / n)
  let words := if rail < 4 then [2 * rail, 2 * rail + 1] else [2 * rail]
  words.foldl (fun s w => wr s (Fld.PWR_RAIL_MIN_PCT w) (max pct (rd s (Fld.PWR_RAIL_MIN_PCT w)))) s

/-- A record of class 8 whose reading and STATUS_WORD are given (R411, R412). -/
def powerFault (code sev kind index reading status : Nat) (s : State) : State :=
  raiseFault { cls := 8, code := code, sev := sev, kind := kind, index := index, detail := packBits [(16, reading), (16, status)] } s

/-- As `powerFault`, with the reading and STATUS_WORD left open, and the rail where it is not named (log entry 49). -/
def powerFaultFree (code sev : Nat) (rail : Option Nat) (s : State) : State :=
  let d := draw s
  let e := draw d.2
  powerFault code sev 9 (rail.getD (d.1 % 14)) (e.1 % 2 ^ 16) (e.1 / 2 ^ 16 % 2 ^ 16) e.2

/-! ### Power states and command limits (R382-R384) -/

/-- Tiles by macro group that hold no task. -/
def idleTiles (s : State) : List Nat :=
  (List.range (128 * dies s)).filter fun g => (tasksOn s (engCode (g / 128) (g % 128 / 16) 0 (g % 16))).isEmpty

/-- The tile stores that a power state retains (R383). -/
def retainTiles (state : Nat) (s : State) : State :=
  let gs := if state = 0 then [] else if state = 1 then idleTiles s else List.range (128 * dies s)
  { s with ecc := { s.ecc with retained := gs.map fun g => (g, true) } }

/-- No engine is enabled and none holds a task (R384). -/
def enginesStopped (s : State) : Bool :=
  s.eng.tasks.isEmpty && (List.range 8).all fun n => enableWord s n = 0

/-- POWER_STATE_SET (R383, R384). -/
def execPowerStateSet (t : Ltc) (h : CmdHdr) (state : Byte) (s : State) : Host.Outcome State Fault Refusal :=
  opcode t h .platform false (fun s =>
    if 2 < state.toNat then refuseCmd h Status.BAD_PARAM s
    else if state.toNat = 2 && !enginesStopped s then refuseCmd h Status.NOT_PERMITTED s
    else okCmd h [] (reloseMasked (retainTiles state.toNat (wr s Fld.PWR_STATUS_STATE state.toNat)))) s

/-- The island mask and limit of a `THROTTLE_SET` are allowed (R382). -/
def throttleOk (s : State) (mask limit : Nat) : Bool :=
  mask < 2 ^ 18 && (dies s = 2 || (bitsOf mask 8 8 = 0 && !bitAt mask 17)) && decide (75 ≤ limit ∧ limit ≤ 600)

/-- THROTTLE_SET (R382). -/
def execThrottleSet (t : Ltc) (h : CmdHdr) (mask : BitVec 32) (limit : BitVec 16) (s : State) : Host.Outcome State Fault Refusal :=
  opcode t h .platform false (fun s =>
    if !throttleOk s mask.toNat limit.toNat then refuseCmd h Status.BAD_PARAM s
    else
      let limits := (setBits 18 mask.toNat).foldl (fun (x : Tab Nat) i => Tab.set 600 x i limit.toNat) s.pwr.limits
      okCmd h [] { s with pwr := { s.pwr with limits := limits } }) s

/-! ### Supply episodes (R379, R380) -/

/-- A reading is below a rail's warning level, 5 % below. -/
def belowWarning (s : State) (rail mv : Nat) : Bool := decide (100 * mv < 95 * nominalMv s rail)

/-- A fall below the warning level begins an episode, or belongs to the one that has not ended. -/
def beginEpisode (rail mv : Nat) (s : State) : State :=
  match s.pwr.episodes.find rail with
  | some e =>
    { s with pwr := { s.pwr with episodes := s.pwr.episodes.put rail { e with last := after s 0, minMv := min e.minMv mv } } }
  | none =>
    let e : Episode := { start := after s 0, last := after s 0, minMv := mv }
    bump { s with pwr := { s.pwr with episodes := s.pwr.episodes.put rail e } } Fld.PWR_EPISODES_SUPPLY_EPISODES

/-- WARNING_LEVEL_CROSSING (R379). -/
def execWarningLevelCrossing (t : Ltc) (rail : BitVec 4) (mv : BitVec 16) (s : State) : Host.Outcome State Fault Refusal :=
  let s := adv t s
  .next (if rail.toNat < 14 && belowWarning s rail.toNat mv.toNat then
      beginEpisode rail.toNat mv.toNat (noteMin rail.toNat mv.toNat s)
    else s)

/-- A SUPPLY_WARNING payload (R380); only VCORE throttles. -/
def supplyPayload (s : State) (rail : Nat) (e : Episode) (minMv belowNs : Nat) : Nat :=
  let throttled := if rail = 0 then (now s - e.start.toNat) / 1000 else 0
  packBits [(4, rail), (4, 0), (16, minMv), (8, 0), (32, belowNs), (48, e.start.toNat), (16, min 0xFFFF throttled)]

/-- THROTTLE_RELEASE (R379, R380): at the earliest 10 µs after the latest crossing; the monitors give the lowest reading and the
time below the level. -/
def execThrottleRelease (t : Ltc) (rail : BitVec 4) (minMv : BitVec 16) (belowNs : BitVec 32) (s : State) :
    Host.Outcome State Fault Refusal :=
  let s := adv t s
  let r := rail.toNat
  .next (match s.pwr.episodes.find r with
    | none => s
    | some e =>
      if now s < e.last.toNat + us 10 then s
      else
        let low := min e.minMv minMv.toNat
        let s := noteMin r low { s with pwr := { s.pwr with episodes := s.pwr.episodes.del r } }
        raiseEvent 6 0xFFF 16 (supplyPayload s r e low belowNs.toNat) s)

/-! ### Banks (R386) -/

/-- A bank is in regulation. -/
def bankOk (s : State) : FDie → Bool
  | .f0 => s.pwr.bankOkA
  | .f1 => s.pwr.bankOkB

/-- Sets a bank's regulation. -/
def setBankOk (d : FDie) (ok : Bool) (s : State) : State :=
  match d with
  | .f0 => { s with pwr := { s.pwr with bankOkA := ok } }
  | .f1 => { s with pwr := { s.pwr with bankOkB := ok } }

/-- Drives BANK_EN of a bank. -/
def setBankEn (d : FDie) (high : Bool) (s : State) : State :=
  match d with
  | .f0 => { s with pins := { s.pins with bankEnA := high } }
  | .f1 => { s with pins := { s.pins with bankEnB := high } }

/-- Both Anvils are without power. -/
def darkAnvils (s : State) : State :=
  { s with anv := { s.anv with a := { state := 0 }, b := { state := 0 }, token := none } }

/-- The whole part loses its power except the always-on domains (R386, R387, R399). -/
def powerLoss (s : State) : State :=
  let s := setRails false (List.range 12) (darkAnvils (partScope s))
  let s := setBankOk .f1 false (setBankOk .f0 false s)
  { s with pwr := { s.pwr with enabledAt := [] } }

/-- What is lost with a fabric die, in the degraded picture (R425). -/
def noteDomainLost (d : FDie) (s : State) : State :=
  let n := d.num
  let set (f : Fld) (m : Nat) (s : State) : State := wr s f (rd s f ||| m)
  set Fld.FLT_DEGRADED_PORTS_LOST (0xFF * 2 ^ (8 * n))
    (set Fld.FLT_DEGRADED_DDR_LOST (0x3F * 2 ^ (6 * n))
      (set Fld.FLT_DEGRADED_UNITS_LOST ((1 + 4 + 16) * 2 ^ n) s))

/-- A bank fails while the other is healthy (R386). -/
def loseBank (d : FDie) (rail : Option Nat) (s : State) : State :=
  let s := bump s (if d = .f0 then Fld.PWR_EPISODES_BANK_FAULTS_A else Fld.PWR_EPISODES_BANK_FAULTS_B)
  let s := emit (.coreOff d) (setRails false (ownRails d) (setBankOk d false s))
  let s := noteReset (3 + d.num) 2 (fabricScope d s)
  let s := powerFaultFree 3 3 rail (noteDomainLost d s)
  replaceRequest 2 s.ecc.exhausted.toNat s

/-- A bank fault: the other bank carries the core, or none is left and the part loses power. -/
def bankFault (d : FDie) (rail : Option Nat) (s : State) : State :=
  if !bankOk s d then s
  else if bankOk s d.other then loseBank d rail s
  else powerLoss (bump s (if d = .f0 then Fld.PWR_EPISODES_BANK_FAULTS_A else Fld.PWR_EPISODES_BANK_FAULTS_B))

/-- BANK_FAULT (R386). -/
def execBankFault (t : Ltc) (bank : FDie) (s : State) : Host.Outcome State Fault Refusal :=
  .next (bankFault bank none (adv t s))

/-! ### Reset levels (R381, R388) -/

/-- A rail that serves the core dies or stacks reaches its reset level: CORE, and no warning for its episode. The code and
reading of the record R388 calls for are open (log entry 49). -/
def coreLevel (rail : Nat) (s : State) : State :=
  let s := { s with pwr := { s.pwr with episodes := s.pwr.episodes.del rail } }
  let d := draw (noteReset 6 2 (coreScope s))
  powerFaultFree (d.1 % 256) (d.1 / 256 % 4) (some rail) d.2

/-- RAIL_RESET_LEVEL (R381). -/
def execRailResetLevel (t : Ltc) (rail : BitVec 4) (s : State) : Host.Outcome State Fault Refusal :=
  let s := adv t s
  let r := rail.toNat
  .next (if r < 4 then coreLevel r s
    else if r < 12 then bankFault (railDomain r) (some r) s
    else s)

/-! ### VR_HOT (R382, R388) -/

/-- A bank's VR_HOT input is low. -/
def hotLow (s : State) : FDie → Bool
  | .f0 => s.pwr.hotA
  | .f1 => s.pwr.hotB

/-- Sets it. -/
def setHot (d : FDie) (low : Bool) (s : State) : State :=
  match d with
  | .f0 => { s with pwr := { s.pwr with hotA := low } }
  | .f1 => { s with pwr := { s.pwr with hotB := low } }

/-- VR_HOT: both core dies throttle to 300 MHz. -/
def execVrHot (t : Ltc) (bank : FDie) (s : State) : Host.Outcome State Fault Refusal :=
  let s := adv t s
  .next (if hotLow s bank then s else powerFaultFree 5 1 none (setHot bank true s))

/-- VR_HOT_RELEASE: the limit is lifted. -/
def execVrHotRelease (t : Ltc) (bank : FDie) (s : State) : Host.Outcome State Fault Refusal :=
  .next (setHot bank false (adv t s))

/-! ### PMBus (R375) -/

/-- The register word of a bank's device on a rail, where the bank has one (R389). -/
def railWord (bank : FDie) (rail : Nat) : Option Nat :=
  if rail < 4 then some (2 * rail + bank.num)
  else if rail < 12 && railDomain rail = bank then some (2 * rail)
  else none

/-- The number of a bank's device on a rail: addresses 0x40..0x47 in rail order. -/
def deviceOf (bank : FDie) (rail : Nat) : Nat := 16 * bank.num + (if rail < 4 then rail else 4 + (rail - 4) / 2)

/-- A device answered: its readings are shown, and a fault bit that comes up is reported. -/
def pollAnswer (r : PmbReading) (w dev : Nat) (s : State) : State :=
  let old := rd s (Fld.PWR_RAIL_STATUS_WORD w)
  let s := wr (wr s (Fld.PWR_RAIL_VOUT_MV w) r.voutMv.toNat) (Fld.PWR_RAIL_IOUT_A w) r.ioutA.toNat
  let s := wr (wr s (Fld.PWR_RAIL_TEMP_C w) r.tempC.toNat) (Fld.PWR_RAIL_STATUS_WORD w) r.status.toNat
  let s := { s with pwr := { s.pwr with missed := s.pwr.missed.del dev } }
  if r.status &&& ~~~(BitVec.ofNat 16 old) ≠ 0 then powerFault 2 1 9 r.rail.toNat r.voutMv.toNat r.status.toNat s else s

/-- A device did not answer; the third time in a row is reported. -/
def pollMiss (rail dev : Nat) (s : State) : State :=
  let n := s.pwr.missed.get 0 dev + 1
  let s := bump { s with pwr := { s.pwr with missed := s.pwr.missed.put dev n } } Fld.PWR_EPISODES_PMBUS_ERRORS
  if n = 3 then powerFaultFree 1 0 (some rail) s else s

/-- One device's part of a poll. -/
def pollDevice (bank : FDie) (s : State) (r : PmbReading) : State :=
  match railWord bank r.rail.toNat with
  | none => s
  | some w =>
    let dev := deviceOf bank r.rail.toNat
    if r.answered then pollAnswer r w dev s else pollMiss r.rail.toNat dev s

/-- PMBUS_POLL (R375): every 1 ms. -/
def execPmbusPoll (t : Ltc) (bank : FDie) (readings : List PmbReading) (s : State) : Host.Outcome State Fault Refusal :=
  let s := adv t s
  .next (if now s < (s.pwr.pollAt.get 0 bank.num).toNat then s
    else readings.foldl (pollDevice bank) { s with pwr := { s.pwr with pollAt := s.pwr.pollAt.put bank.num (after s (us 1000)) } })

/-! ### Temperature (R387) -/

/-- The core-die throttle temperature: values outside 70..105 act as 100 (R389). -/
def throttleC (s : State) : Nat :=
  let v := rd s Fld.PWR_THERMAL_T_THROTTLE
  if 70 ≤ v && v ≤ 105 then v else 100

/-- A die's latest readings, and the highest of each kind. -/
def noteTemps (die coreC stackC : Nat) (s : State) : State :=
  let temps := s.pwr.temps.put die (coreC, stackC)
  let top (f : Nat × Nat → Nat) : Nat := temps.foldl (fun m e => max m (f e.2)) 0
  let s := { s with pwr := { s.pwr with temps := temps } }
  wr (wr s Fld.PWR_THERMAL_T_CORE_MAX (top (·.1))) Fld.PWR_THERMAL_T_STACK_MAX (top (·.2))

/-- 100 µs have passed since the limit of a die last moved. -/
def stepDue (s : State) (die : Nat) : Bool :=
  match s.pwr.stepAt.find die with
  | none => true
  | some t => decide (t.toNat + us 100 ≤ now s)

/-- Entry into thermal throttling is counted and reported: the core die's sensor, or one of its stacks, which one is open. -/
def enterThrottle (die coreC stackC : Nat) (s : State) : State :=
  let s := bump s Fld.PWR_THERMAL_THERMAL_EVENTS
  if throttleC s < coreC then powerFault 4 1 12 die coreC 0 s
  else
    let d := draw s
    powerFault 4 1 12 (4 + 6 * die + d.1 % 6) stackC 0 d.2

/-- The limit falls by a step, to 75 MHz at least. -/
def coolDown (die coreC stackC : Nat) (s : State) : State :=
  let cur := s.pwr.thermal.get 6000 die
  let s := { s with pwr := { s.pwr with coolAt := s.pwr.coolAt.del die } }
  if !stepDue s die then s
  else
    let s := { s with pwr := { s.pwr with
      thermal := Tab.set 6000 s.pwr.thermal die (max 750 (cur - 375)), stepAt := s.pwr.stepAt.put die (after s 0) } }
    if cur = 6000 then enterThrottle die coreC stackC s else s

/-- The limit rises by a step once the die has been cool for 100 µs. -/
def warmUp (die : Nat) (s : State) : State :=
  let cur := s.pwr.thermal.get 6000 die
  match s.pwr.coolAt.find die with
  | none => { s with pwr := { s.pwr with coolAt := s.pwr.coolAt.put die (after s 0) } }
  | some t =>
    if cur < 6000 && decide (t.toNat + us 100 ≤ now s) && stepDue s die then
      { s with pwr := { s.pwr with
        thermal := Tab.set 6000 s.pwr.thermal die (min 6000 (cur + 375)), stepAt := s.pwr.stepAt.put die (after s 0) } }
    else s

/-- The thermal limit follows a die's readings. -/
def thermalStep (die coreC stackC : Nat) (s : State) : State :=
  let s := noteTemps die coreC stackC s
  let thr := throttleC s
  if thr < coreC || 95 < stackC then coolDown die coreC stackC s
  else if coreC + 5 ≤ thr && stackC + 5 ≤ 95 then warmUp die s
  else { s with pwr := { s.pwr with coolAt := s.pwr.coolAt.del die } }

/-- THERMAL_THROTTLE (R387): the readings of a core die and of its stacks, every 100 µs. -/
def execThermalThrottle (t : Ltc) (die : BitVec 1) (coreC stackC : Byte) (s : State) : Host.Outcome State Fault Refusal :=
  let s := adv t s
  .next (if die.toNat < dies s then thermalStep die.toNat coreC.toNat stackC.toNat s else s)

/-- The readings reach a trip temperature. -/
def tripReached (coreC fabC stackC : Nat) : Bool := decide (115 ≤ coreC) || decide (110 ≤ fabC) || decide (105 ≤ stackC)

/-- THERMAL_TRIP (R387): the highest readings of each kind. -/
def execThermalTrip (t : Ltc) (coreC fabC stackC : Byte) (s : State) : Host.Outcome State Fault Refusal :=
  let s := adv t s
  .next (if tripReached coreC.toNat fabC.toNat stackC.toNat then
      let s := setBankEn .f1 false (setBankEn .f0 false (powerLoss s))
      { s with pins := { s.pins with thermtripLow := true }, pwr := { s.pwr with tripped := true } }
    else wr (wr (wr s Fld.PWR_THERMAL_T_CORE_MAX coreC.toNat) Fld.PWR_THERMAL_T_FAB_MAX fabC.toNat)
      Fld.PWR_THERMAL_T_STACK_MAX stackC.toNat)

/-! ### The supply sequence (R385) -/

/-- Step 1 or 2 of a domain is complete. -/
def step1Done (s : State) (d : FDie) : Bool := railUp s (4 + d.num) && railUp s (10 + d.num)
def step2Done (s : State) (d : FDie) : Bool := step1Done s d && railUp s (6 + d.num) && railUp s (8 + d.num)

/-- BANK_EN of a bank is high. -/
def bankEn (s : State) : FDie → Bool
  | .f0 => s.pins.bankEnA
  | .f1 => s.pins.bankEnB

/-- A rail is enabled by the order of R385. -/
def railEnabled (s : State) (rail : Nat) : Bool :=
  let d := railDomain rail
  let both := bankEn s .f0 && bankEn s .f1 && step2Done s .f0 && step2Done s .f1
  match rail with
  | 0 => both && railUp s 3 && railUp s 1 && railUp s 2
  | 1 => both && railUp s 3
  | 2 => both && railUp s 3 && railUp s 1
  | 3 => both
  | 4 => bankEn s d
  | 5 => bankEn s d
  | 10 => bankEn s d
  | 11 => bankEn s d
  | _ => rail < 12 && bankEn s d && step1Done s d

/-- Every enabled rail that is not in window has its time of enabling noted. -/
def noteEnabled (s : State) : State :=
  let waiting := (List.range 12).filter fun r => railEnabled s r && !railUp s r
  let tab := waiting.map fun r => (r, (s.pwr.enabledAt.find r).getD (after s 0))
  { s with pwr := { s.pwr with enabledAt := tab } }

/-- Every rail of a bank is in regulation: PWR_OK. -/
def bankComplete (s : State) (d : FDie) : Bool := (List.range 4).all (railUp s) && (ownRails d).all (railUp s)

/-- PWR_OK of both banks follows the rails; power is good once both are high (R400). -/
def notePowerOk (s : State) : State :=
  let was := s.pwr.bankOkA && s.pwr.bankOkB
  let s := setBankOk .f1 (s.pwr.bankOkB || bankComplete s .f1) (setBankOk .f0 (s.pwr.bankOkA || bankComplete s .f0) s)
  if s.pwr.bankOkA && s.pwr.bankOkB && !was then { s with pwr := { s.pwr with goodAt := after s 0 } } else s

/-- PORESET_N (R385): it rises, and the sequencers bring up their banks. -/
def execPoresetN (t : Ltc) (s : State) : Host.Outcome State Fault Refusal :=
  let s := adv t s
  .next (if !s.pwr.poresetLow then s
    else
      let s := noteReset 7 (if s.pwr.tripped then 3 else 1) s
      let s := { s with pwr := { s.pwr with poresetLow := false, tripped := false } }
      noteEnabled (setBankEn .f1 true (setBankEn .f0 true s)))

/-- PORESET_N_LOW (R399): the whole part is held in reset and its rails come down. -/
def execPoresetNLow (t : Ltc) (s : State) : Host.Outcome State Fault Refusal :=
  let s := adv t s
  .next (let s := setBankEn .f1 false (setBankEn .f0 false (powerLoss s))
    { s with pins := { s.pins with thermtripLow := false }, pwr := { s.pwr with poresetLow := true } })

/-- RAIL_IN_WINDOW (R385). -/
def execRailInWindow (t : Ltc) (rail : BitVec 4) (s : State) : Host.Outcome State Fault Refusal :=
  let s := adv t s
  let r := rail.toNat
  .next (if railEnabled s r && !railUp s r then noteEnabled (notePowerOk (setRails true [r] s)) else s)

/-- A bank is powered down after its sequence failed. -/
def endSequence (s : State) (d : FDie) : State := setBankEn d false (setRails false (ownRails d) (setBankOk d false s))

/-- RAIL_ENABLE_TIMEOUT (R385): 5 ms after its enable a rail is not in window; a shared rail ends both sequences. -/
def execRailEnableTimeout (t : Ltc) (rail : BitVec 4) (s : State) : Host.Outcome State Fault Refusal :=
  let s := adv t s
  let r := rail.toNat
  .next (match s.pwr.enabledAt.find r with
    | none => s
    | some e =>
      if railUp s r || decide (now s < e.toNat + us 5000) then s
      else
        let s := if r < 4 then setRails false (List.range 4) ([FDie.f0, FDie.f1].foldl endSequence s)
          else endSequence s (railDomain r)
        powerFaultFree 6 3 (some r) (noteEnabled s))

/-! ### Start-up phases (R400, R401) -/

/-- A phase is complete. -/
def phaseDone (s : State) (n : Nat) : Bool := bitAt (rd s Fld.RST_STATUS_PHASES) (n - 1)

/-- The phases a phase comes after. -/
def phasePreds : Nat → List Nat
  | 2 => [1]
  | 3 => [2]
  | 4 => [2]
  | 5 => [3, 4]
  | 6 => [1]
  | 7 => [1, 4]
  | 8 => [1, 4]
  | _ => []

/-- Power is good: every rail is in window and PORESET_N high. -/
def powerGood (s : State) : Bool := !s.pwr.poresetLow && (List.range 14).all (railUp s)

/-- The highest speed every populated DIMM supports, in MT/s (R71). -/
def dimmSpeed (f : Dimms) : Option Nat :=
  let all := f.speeds.foldl (fun m x => m &&& x) 7
  if all.getLsbD 2 then some 8000 else if all.getLsbD 1 then some 7200 else if all.getLsbD 0 then some 6400 else none

/-- The population is one that R71 supports. -/
def populationOk (f : Dimms) : Bool :=
  let m := f.channels.toNat
  let n := popCount 12 m
  (m = 0 || m = 0xFFF || m = 0x1C7) && f.gib.length = n && f.speeds.length = n && (f.gib.all fun g => some g = f.gib.head?) &&
    (m = 0 || (f.gib.head?.any fun g => g.toNat = 64 || g.toNat = 128 || g.toNat = 256 || g.toNat = 512) && (dimmSpeed f).isSome)

/-- MEM_CONFIG after the SPD read (R71, R98). -/
def setPopulation (f : Dimms) (s : State) : State :=
  if !populationOk f then raiseFault { cls := 3, code := 6, sev := 3 } (wr s Fld.MEM_CONFIG_FAR_STATE 3)
  else
    let n := popCount 12 f.channels.toNat
    let d := match f.gib.head? with | some g => g.toNat | none => 0
    let s := wr (wr s Fld.MEM_CONFIG_FAR_CHANNELS n) Fld.MEM_CONFIG_FAR_DIMM_GIB d
    wr (wr s Fld.MEM_CONFIG_FAR_MTS (if n = 0 then 0 else (dimmSpeed f).getD 0)) Fld.MEM_CONFIG_FAR_STATE (if n = 0 then 0 else 2)

/-- Anvils that are OFF in a domain with power enter LOADER, and the fabric dies leave reset (R355). -/
def startAnvils (s : State) : State :=
  let s := { s with pwr := { s.pwr with
    downA := s.pwr.downA && !step2Done s .f0, downB := s.pwr.downB && !step2Done s .f1 } }
  let go (d : FDie) (s : State) : State :=
    if (anvil s d).state = 0 && step2Done s d then setAnvil d { anvil s d with state := 1 } s else s
  resumeOutput (go .f1 (go .f0 s))

/-- The reserved far frame is written zero under the platform key (R401). -/
def zeroReservedFrame (s : State) : State := if 0 < farFrames s then zeroFarFrame (farFrames s - 1) s else s

/-- The work of a phase (R400). -/
def phaseWork (n : Nat) (f : Dimms) (s : State) : State :=
  match n with
  | 3 => { s with mem := { s.mem with sram := {}, hot := [] } }
  | 4 => { s with draws := s.draws + 1, sec := { s.sec with platformKey := s.draws + 1 } }
  | 5 => startAnvils s
  | 7 =>
    freeReserve { s with mem := { s.mem with stack := {}, lost := s.mem.lost.keep fun k _ => decide (8 * 384 ≤ k) } }
  | 8 => zeroReservedFrame (setPopulation f s)
  | _ => s

/-- Phases run again after a FABRIC reset: B1 and B5..B8 (R397); B8 reads the population and writes the reserved frame again. -/
def rerun (n : Nat) (f : Dimms) (s : State) : State :=
  if n = 5 then startAnvils s
  else if n = 8 && s.pwr.retrain then
    zeroReservedFrame (setPopulation f { s with pwr := { s.pwr with retrain := false } })
  else s

/-- A phase completes: noted with its LTC. Phase B8 trains the far tier from the end of B1 on (R98, log entry 57).
Phase B2 waits for a Tinning that was pending (R255, R400). -/
def powerOnPhase (n : Nat) (f : Dimms) (s : State) : State :=
  if n = 0 || decide (8 < n) || !powerGood s || !((phasePreds n).all (phaseDone s)) then s
  else if phaseDone s n then rerun n f s
  else if n = 2 && rdb s Fld.ECC_TIN_STATUS_PENDING then
    (if rd s Fld.ECC_TIN_STATUS_STATE = 1 then s else beginTinning 3 s)
  else
    let s := phaseWork n f s
    let s := wr s Fld.RST_STATUS_PHASES (putBit (rd s Fld.RST_STATUS_PHASES) (n - 1) true)
    let s := if n = 1 then wr s Fld.MEM_CONFIG_FAR_STATE 1 else s
    regSet s (Reg.RST_PHASE_LTC.at (n - 1)) (now48 s)

/-- POWER_ON_PHASE (R400). -/
def execPowerOnPhase (t : Ltc) (phase : BitVec 4) (far : Dimms) (s : State) : Host.Outcome State Fault Refusal :=
  .next (powerOnPhase phase.toNat far (adv t s))

/-- The time of a phase from power-good, in ns. -/
def phaseLimit : Nat → Nat
  | 1 => us 100
  | 2 => us 300
  | 3 => us 1300
  | 4 => us 10300
  | 5 => us 10300
  | 6 => us 50100
  | 7 => us 30000
  | _ => us 60100

/-- PHASE_LATE (R400, R425): what is lost goes out of service. -/
def phaseLate (n : Nat) (stackMask ddr ports : Nat) (s : State) : State :=
  if n = 0 || decide (8 < n) || phaseDone s n || decide (now s < s.pwr.goodAt.toNat + phaseLimit n) then s
  else
    let set (f : Fld) (m : Nat) (s : State) : State := wr s f (rd s f ||| m)
    let s := set Fld.FLT_DEGRADED_PORTS_LOST ports
      (set Fld.FLT_DEGRADED_DDR_LOST ddr (set Fld.FLT_DEGRADED_STACKS_LOST stackMask s))
    let s := raiseFault { cls := 9, code := 4, sev := 3 } s
    if stackMask = 0 && ddr = 0 && ports = 0 then s else replaceRequest 3 s.ecc.exhausted.toNat s

/-- PHASE_LATE. -/
def execPhaseLate (t : Ltc) (phase : BitVec 4) (stackMask ddr : BitVec 12) (ports : BitVec 16) (s : State) :
    Host.Outcome State Fault Refusal :=
  .next (phaseLate phase.toNat stackMask.toNat ddr.toNat ports.toNat (adv t s))

/-! ### The always-on domains (R385, R395) -/

/-- A domain's VAON is in its window. -/
def vaon (s : State) : FDie → Bool
  | .f0 => s.clk.vaonA
  | .f1 => s.clk.vaonB

/-- Sets it. -/
def setVaon (d : FDie) (up : Bool) (s : State) : State :=
  match d with
  | .f0 => { s with clk := { s.clk with vaonA := up } }
  | .f1 => { s with clk := { s.clk with vaonB := up } }

/-- The copy of a domain is the one followed. -/
def followed (s : State) (d : FDie) : Bool := s.clk.followB = (d = .f1)

/-- A copy of the LTC is loaded. -/
def loadLtc (d : FDie) (v : Ltc) (s : State) : State :=
  match d with
  | .f0 => { s with clk := { s.clk with ltcA := v } }
  | .f1 => { s with clk := { s.clk with ltcB := v } }

/-- Both VAON supplies are gone: the LTC returns to 0 and the whole part is without power (R395). -/
def allDark (s : State) : State :=
  let s := setBankEn .f1 false (setBankEn .f0 false (powerLoss s))
  { s with
    clk := { s.clk with ltcA := 0, ltcB := 0, followB := false }
    pins := { s.pins with thermtripLow := false }, pwr := { s.pwr with tripped := false, poresetLow := true, vaonOut := [] } }

/-- VAON_LOSS (R395). -/
def execVaonLoss (t : Ltc) (d : FDie) (s : State) : Host.Outcome State Fault Refusal :=
  let s := adv t s
  .next (if !vaon s d then s
    else
      let v := after s 0
      let s := setRails false [12 + d.num] (setVaon d false s)
      if !vaon s d.other then allDark s
      else
        let s := if followed s d then loadLtc d.other v { s with clk := { s.clk with followB := d = .f0 } } else s
        { s with pwr := { s.pwr with vaonOut := s.pwr.vaonOut.put d.num v } })

/-- A domain whose always-on supply was lost starts again from R385. -/
def restartDomain (d : FDie) (s : State) : State :=
  let s := setBankEn d true (setRails false (ownRails d) (fabricScope d s))
  noteEnabled s

/-- VAON_RETURN (R385, R395): the copy is loaded; a loss shorter than 1 ms is a glitch, which is tamper. -/
def execVaonReturn (t : Ltc) (d : FDie) (s : State) : Host.Outcome State Fault Refusal :=
  let s := adv t s
  .next (if vaon s d then s
    else
      let since := s.pwr.vaonOut.find d.num
      let s := loadLtc d (after s 0) (setRails true [12 + d.num] (setVaon d true s))
      let s := { s with pwr := { s.pwr with vaonOut := s.pwr.vaonOut.del d.num } }
      match since with
      | none => s
      | some t0 => if now s < t0.toNat + us 1000 then tamperNow 3 s else restartDomain d s)

end Sys2Proof.Machine
end

