-- ==== Sys2Proof/Machine/Telemetry.lean ====
section
/-! DEFINITION. Telemetry (R414-R422): counters, snapshots, dumps, sampling, and the ends of coalescing windows. -/

namespace Sys2Proof.Machine

/-! ### Counters (R416-R418) -/

/-- An event number of R417. -/
def eventListed (e : Nat) : Bool :=
  e ≤ 1 || (0x010 ≤ e && e ≤ 0x014) || (0x020 ≤ e && e ≤ 0x023) || (0x030 ≤ e && e ≤ 0x035) || (0x040 ≤ e && e ≤ 0x043) ||
    (0x200 ≤ e && e ≤ 0x203) || (0x210 ≤ e && e ≤ 0x212) || (0x300 ≤ e && e ≤ 0x302) ||
    (0x400 ≤ e && e < 0x450 && e % 16 < 4 && e / 16 ≠ 0x43)

/-- COUNTER_SELECT (R416). -/
def execCounterSelect (t : Ltc) (h : CmdHdr) (cluster counter : Byte) (event : BitVec 16) (s : State) :
    Host.Outcome State Fault Refusal :=
  opcode t h .either false (fun s =>
    let part := h.tenant = 0xFFF
    if clusters s ≤ cluster.toNat || decide (16 ≤ counter.toNat) || !eventListed event.toNat then refuseCmd h Status.BAD_PARAM s
    else if !part && (!counterHandle s h.tenant.toNat || decide (0x200 ≤ event.toNat)) then refuseCmd h Status.BAD_PARAM s
    else
      let c : Counter := { event := event, tenant := h.tenant }
      okCmd h [] { s with tel := { s.tel with
        counters := s.tel.counters.set {} (16 * cluster.toNat + counter.toNat) c } }) s

/-- The body of a type 1 record: event numbers, then values (R420). -/
def latchCluster (cluster : Nat) (s : State) : Nat × State :=
  (List.range 16).foldl (fun acc i =>
    let c := acc.2.tel.counters.get {} (16 * cluster + i)
    let v := latchCounter c acc.2
    (acc.1 + c.event.toNat % 2 ^ 12 * 2 ^ (12 * i) + v.1 * 2 ^ (384 + 64 * i), v.2)) (0, s)

/-! ### Snapshots (R421) -/

/-- The records of a run of clusters, with DSEQ 0. -/
def snapshotOf (first n : Nat) (s : State) : List Byte × State :=
  (List.range n).foldl (fun acc i =>
    let r := latchCluster (first + i) acc.2
    (acc.1 ++ leBytes 256 (recordHeader 1 (first + i) 0 (now48 s) + 2 ^ 128 * r.1), r.2)) ([], s)

/-- SNAPSHOT_READ (R421). -/
def execSnapshotRead (t : Ltc) (h : CmdHdr) (group : BitVec 16) (s : State) : Host.Outcome State Fault Refusal :=
  opcode t h .platform false (fun s =>
    if group.toNat < clusters s then
      let r := snapshotOf group.toNat 1 s
      okCmd h r.1 r.2
    else if group = 0x00FF then
      let r := snapshotOf 0 (clusters s) s
      okCmd h r.1 r.2
    else refuseCmd h Status.NOT_FOUND s) s

/-! ### The dump ring (R419) -/

/-- A ring may be set: whole in one KIND 2 ingot, of an allowed size and period. -/
def ringParamsOk (s : State) (addr size period : Nat) : Bool :=
  addr % 4096 = 0 && size % 4096 = 0 && decide (4096 ≤ size ∧ size ≤ gib) &&
    (period = 0 || decide (10 ≤ period ∧ period ≤ 1000000)) && inPlatform s addr &&
    s.mem.ingots.vals.any fun i =>
      decide (i.base.toNat * gib ≤ addr ∧ addr + size ≤ (i.base.toNat + i.count.toNat) * gib)

/-- DUMP_RING_SET (R419). -/
def execDumpRingSet (t : Ltc) (h : CmdHdr) (addr : Word) (size period : BitVec 32) (s : State) :
    Host.Outcome State Fault Refusal :=
  opcode t h .platform false (fun s =>
    if !ringParamsOk s addr.toNat size.toNat period.toNat then refuseCmd h Status.BAD_PARAM s
    else
      let s := wr (wr s Fld.TEL_STATUS_RING_VALID 1) Fld.TEL_STATUS_RING_LOST 0
      okCmd h [] { s with tel := { s.tel with
        ringAddr := addr, ringSize := size, period := period, dumpAt := after s (us period.toNat) } }) s

/-- The bodies of every cluster's record, latched at one edge. -/
def latchAll (s : State) : List Nat × State :=
  (List.range (clusters s)).foldl (fun acc c =>
    let r := latchCluster c acc.2
    (acc.1 ++ [r.1], r.2)) ([], s)

/-- Every cluster's counters are latched, then recorded in ascending order. -/
def dumpAll (s : State) : State :=
  let r := latchAll s
  (List.range (clusters s)).foldl (fun s c => dumpRecord 1 c (r.1.getD c 0) s) r.2

/-- DUMP (R419): at the end of a period. -/
def execDump (t : Ltc) (s : State) : Host.Outcome State Fault Refusal :=
  let s := adv t s
  .next (if s.tel.period = 0 || decide (now s < s.tel.dumpAt.toNat) then s
    else if ringUsable s then
      let next := BitVec.ofNat 64 (s.tel.dumpAt.toNat + us s.tel.period.toNat)
      dumpAll { s with tel := { s.tel with dumpAt := next } }
    else noteRingLost s)

/-! ### Sampling (R346, R422) -/

/-- A tenant's sampling is consented to, or the part's (which samples consenting tenants alone). -/
def samplingConsent (s : State) (h : CmdHdr) : Bool := h.tenant = 0xFFF || tenantGrants s h.tenant.toNat 1

/-- SAMPLING_SET (R422). The generator's reseeding is in the free draws of `chosen`. -/
def execSamplingSet (t : Ltc) (h : CmdHdr) (rate : BitVec 32) (s : State) : Host.Outcome State Fault Refusal :=
  opcode t h .either false (fun s =>
    let r := rate.toNat
    let log := bitsOf r 0 5
    if bitsOf r 5 3 ≠ 0 || bitsOf r 13 19 ≠ 0 then refuseCmd h Status.RSV_NONZERO s
    else if bitAt r 11 || !(log = 0 || decide (6 ≤ log ∧ log ≤ 24)) then refuseCmd h Status.BAD_PARAM s
    else if !samplingConsent s h then refuseCmd h Status.CONSENT_REQUIRED s
    else okCmd h [] { s with tel := { s.tel with
        rateLog2 := BitVec.ofNat 5 log, groups := BitVec.ofNat 5 (bitsOf r 8 5), tenant := h.tenant } }) s

/-! ### Coalescing windows (R414) -/

/-- The window of a key. -/
def windowOf (s : State) (cls code locKind : Byte) (locIndex : BitVec 12) : Option Window :=
  s.ctl.windows.find? fun w => w.cls = cls && w.code = code && w.kind = locKind && w.index = locIndex

/-- A window that counted yields one record and a new window; an empty one closes its key. -/
def windowEnds (w : Window) (s : State) : State :=
  if w.count = 0 then { s with ctl := { s.ctl with windows := s.ctl.windows.filter (· ≠ w) } }
  else
    let s := mapWindows (fun x => if x = w then { w with ends := after s (us 100), count := 0, first := 0 } else x) s
    formRecord (putBits w.first 40 16 (min 0xFFFF w.count)) w.cls.toNat w.tenant.toNat s

/-- COALESCE_WINDOW_END (R414). -/
def execCoalesceWindowEnd (t : Ltc) (cls code locKind : Byte) (locIndex : BitVec 12) (s : State) :
    Host.Outcome State Fault Refusal :=
  let s := adv t s
  .next (match windowOf s cls code locKind locIndex with
    | none => s
    | some w => if w.ends.toNat ≤ now s then windowEnds w s else s)

end Sys2Proof.Machine
end

