-- ==== Sys2Proof/Machine/Dispatch.lean ====
section
/-! DEFINITION. One arm for each command: its meaning, or its refusal by name. -/

namespace Sys2Proof.Machine

/-- The effect of a command on everything but the queue. -/
def exec (i : Instr) (s : State) : Host.Outcome State Fault Refusal :=
  match i with
  | .kaferlinkFrame t p f good => Sys2Proof.Machine.execKaferlinkFrame t p f good s
  | .replayRequest t p replayFrom ack => Sys2Proof.Machine.execReplayRequest t p replayFrom ack s
  | .ackTimeout t p => Sys2Proof.Machine.execAckTimeout t p s
  | .commandReceive t src h params body tagOk => Sys2Proof.Machine.execCommandReceive t src h params body tagOk s
  | .commandBegin t => Sys2Proof.Machine.execCommandBegin t s
  | .inProgress t session seq => Sys2Proof.Machine.execInProgress t session seq s
  | .replyPortFallback t session seq => Sys2Proof.Machine.execReplyPortFallback t session seq s
  | .relayReply t m => Sys2Proof.Machine.execRelayReply t m s
  | .relayTimeout t target session seq => Sys2Proof.Machine.execRelayTimeout t target session seq s
  | .replyAck t session seq => Sys2Proof.Machine.execReplyAck t session seq s
  | .replyAckTimeout t session seq => Sys2Proof.Machine.execReplyAckTimeout t session seq s
  | .eventRepeat t eventSeq => Sys2Proof.Machine.execEventRepeat t eventSeq s
  | .genDiscard t => Sys2Proof.Machine.execGenDiscard t s
  | .modeApply t => Sys2Proof.Machine.execModeApply t s
  | .nop t h => Sys2Proof.Machine.execNop t h s
  | .identify t h => Sys2Proof.Machine.execIdentify t h s
  | .sessionOpen t h slot subscriber node ct => Sys2Proof.Machine.execSessionOpen t h slot subscriber node ct s
  | .sessionClose t h id => Sys2Proof.Machine.execSessionClose t h id s
  | .assignPartId t h id => Sys2Proof.Machine.execAssignPartId t h id s
  | .neighbours t h => Sys2Proof.Machine.execNeighbours t h s
  | .eventAck t h eventSeq => Sys2Proof.Machine.execEventAck t h eventSeq s
  | .relayListSet t h parts => Sys2Proof.Machine.execRelayListSet t h parts s
  | .csrRead t h addr width count => Sys2Proof.Machine.execCsrRead t h addr width count s
  | .csrWrite t h addr width values => Sys2Proof.Machine.execCsrWrite t h addr width values s
  | .csrModify t h addr width mask value => Sys2Proof.Machine.execCsrModify t h addr width mask value s
  | .csrPoll t h addr width mask value limit => Sys2Proof.Machine.execCsrPoll t h addr width mask value limit s
  | .pollTimeout t session seq => Sys2Proof.Machine.execPollTimeout t session seq s
  | .registerWrite t addr v => Sys2Proof.Machine.execRegisterWrite t addr v s
  | .modeArm t h gen => Sys2Proof.Machine.execModeArm t h gen s
  | .modeCommit t h gen act => Sys2Proof.Machine.execModeCommit t h gen act s
  | .modeClose t h gen => Sys2Proof.Machine.execModeClose t h gen s
  | .modeAbort t h gen => Sys2Proof.Machine.execModeAbort t h gen s
  | .ingotAdd t h e => Sys2Proof.Machine.execIngotAdd t h e s
  | .ingotRelease t h ingot => Sys2Proof.Machine.execIngotRelease t h ingot s
  | .ingotQuery t h ingot => Sys2Proof.Machine.execIngotQuery t h ingot s
  | .tierMove t h va pages dest => Sys2Proof.Machine.execTierMove t h va pages dest s
  | .interleaveSet t h grain => Sys2Proof.Machine.execInterleaveSet t h grain s
  | .pageInvalidate t h va pages => Sys2Proof.Machine.execPageInvalidate t h va pages s
  | .epochWaitDone t w => Sys2Proof.Machine.execEpochWaitDone t w s
  | .tenantCreate t h e => Sys2Proof.Machine.execTenantCreate t h e s
  | .tenantDestroy t h => Sys2Proof.Machine.execTenantDestroy t h s
  | .jobkeyEstablish t h slot binding ct confirmOk => Sys2Proof.Machine.execJobkeyEstablish t h slot binding ct confirmOk s
  | .jobkeyRetire t h slot => Sys2Proof.Machine.execJobkeyRetire t h slot s
  | .tenantKeyRotate t h => Sys2Proof.Machine.execTenantKeyRotate t h s
  | .partitionSet t h e => Sys2Proof.Machine.execPartitionSet t h e s
  | .routeDrain t h mask => Sys2Proof.Machine.execRouteDrain t h mask s
  | .drainComplete t => Sys2Proof.Machine.execDrainComplete t s
  | .routeTableWrite t h epoch first entries => Sys2Proof.Machine.execRouteTableWrite t h epoch first entries s
  | .routeEpochSet t h epoch => Sys2Proof.Machine.execRouteEpochSet t h epoch s
  | .congestionRead t h mask => Sys2Proof.Machine.execCongestionRead t h mask s
  | .portDisable t h port action width => Sys2Proof.Machine.execPortDisable t h port action width s
  | .portEnable t h port width => Sys2Proof.Machine.execPortEnable t h port width s
  | .fastRetrain t h port width => Sys2Proof.Machine.execFastRetrain t h port width s
  | .widthChange t h port width => Sys2Proof.Machine.execWidthChange t h port width s
  | .ringCreate t h e => Sys2Proof.Machine.execRingCreate t h e s
  | .ringDestroy t h ring => Sys2Proof.Machine.execRingDestroy t h ring s
  | .seqctxBind t h ctx va x => Sys2Proof.Machine.execSeqctxBind t h ctx va x s
  | .seqctxRelease t h ctx x => Sys2Proof.Machine.execSeqctxRelease t h ctx x s
  | .reduceSlotReserve t h count => Sys2Proof.Machine.execReduceSlotReserve t h count s
  | .reduceSlotRelease t h => Sys2Proof.Machine.execReduceSlotRelease t h s
  | .engineSetEnable t h bitmap => Sys2Proof.Machine.execEngineSetEnable t h bitmap s
  | .trafficTableWrite t h table first entries => Sys2Proof.Machine.execTrafficTableWrite t h table first entries s
  | .counterSelect t h cluster counter event => Sys2Proof.Machine.execCounterSelect t h cluster counter event s
  | .dumpRingSet t h addr size period => Sys2Proof.Machine.execDumpRingSet t h addr size period s
  | .snapshotRead t h group => Sys2Proof.Machine.execSnapshotRead t h group s
  | .samplingSet t h rate => Sys2Proof.Machine.execSamplingSet t h rate s
  | .healthRead t h => Sys2Proof.Machine.execHealthRead t h s
  | .powerStateSet t h state => Sys2Proof.Machine.execPowerStateSet t h state s
  | .throttleSet t h mask limit => Sys2Proof.Machine.execThrottleSet t h mask limit s
  | .anvilSwitchBack t h => Sys2Proof.Machine.execAnvilSwitchBack t h s
  | .scrubControl t h enable mask => Sys2Proof.Machine.execScrubControl t h enable mask s
  | .fwLoadBegin t h length version => Sys2Proof.Machine.execFwLoadBegin t h length version s
  | .fwLoadChunk t h offset data => Sys2Proof.Machine.execFwLoadChunk t h offset data s
  | .fwLoadEnd t h sigOk => Sys2Proof.Machine.execFwLoadEnd t h sigOk s
  | .fwActivate t h anvil => Sys2Proof.Machine.execFwActivate t h anvil s
  | .hallmarkRead t h => Sys2Proof.Machine.execHallmarkRead t h s
  | .assayRequest t h nonce => Sys2Proof.Machine.execAssayRequest t h nonce s
  | .lifecycleAdvance t h target signer sigOk ownerKey ct => Sys2Proof.Machine.execLifecycleAdvance t h target signer sigOk ownerKey ct s
  | .debugOpen t h slot scope => Sys2Proof.Machine.execDebugOpen t h slot scope s
  | .debugRead t h handle addr len => Sys2Proof.Machine.execDebugRead t h handle addr len s
  | .debugClose t h handle => Sys2Proof.Machine.execDebugClose t h handle s
  | .scanEnable t h slot durationUs => Sys2Proof.Machine.execScanEnable t h slot durationUs s
  | .scanExpiry t => Sys2Proof.Machine.execScanExpiry t s
  | .reset t h type => Sys2Proof.Machine.execReset t h type s
  | .resetEngines t => Sys2Proof.Machine.execResetEngines t s
  | .resetControl t => Sys2Proof.Machine.execResetControl t s
  | .resetFabric t d => Sys2Proof.Machine.execResetFabric t d s
  | .resetPart t => Sys2Proof.Machine.execResetPart t s
  | .resetCore t => Sys2Proof.Machine.execResetCore t s
  | .xltRootWrite t tenant v => Sys2Proof.Machine.execXltRootWrite t tenant v s
  | .xltPtwDataWrite t index v => Sys2Proof.Machine.execXltPtwDataWrite t index v s
  | .xltFqConsume t die count => Sys2Proof.Machine.execXltFqConsume t die count s
  | .faultRetry t eng task fseq => Sys2Proof.Machine.execFaultRetry t eng task fseq s
  | .faultAbort t eng task fseq => Sys2Proof.Machine.execFaultAbort t eng task fseq s
  | .memLandPush t frame => Sys2Proof.Machine.execMemLandPush t frame s
  | .memSectorRegionWrite t n v => Sys2Proof.Machine.execMemSectorRegionWrite t n v s
  | .cohReclaimDeclareDead t aid => Sys2Proof.Machine.execCohReclaimDeclareDead t aid s
  | .cohReclaimRevive t aid => Sys2Proof.Machine.execCohReclaimRevive t aid s
  | .reclaimWalkDone t => Sys2Proof.Machine.execReclaimWalkDone t s
  | .writeRaw t => Sys2Proof.Machine.execWriteRaw t s
  | .readRaw t => Sys2Proof.Machine.execReadRaw t s
  | .readDecoded t => Sys2Proof.Machine.execReadDecoded t s
  | .memRequest t u r => Sys2Proof.Machine.execMemRequest t u r s
  | .refresh t u bank => Sys2Proof.Machine.execRefresh t u bank s
  | .selfRefreshEntry t u => Sys2Proof.Machine.execSelfRefreshEntry t u s
  | .bucketLeak t => Sys2Proof.Machine.execBucketLeak t s
  | .promotion t tenant va => Sys2Proof.Machine.execPromotion t tenant va s
  | .promotionDone t tenant va => Sys2Proof.Machine.execPromotionDone t tenant va s
  | .hotPage t => Sys2Proof.Machine.execHotPage t s
  | .hotEpoch t => Sys2Proof.Machine.execHotEpoch t s
  | .walkStart t eng task va write => Sys2Proof.Machine.execWalkStart t eng task va write s
  | .walkComplete t eng task => Sys2Proof.Machine.execWalkComplete t eng task s
  | .dbTail t ring tenant v => Sys2Proof.Machine.execDbTail t ring tenant v s
  | .dbCqHead t ring tenant v => Sys2Proof.Machine.execDbCqHead t ring tenant v s
  | .fetchBatch t die cluster group x => Sys2Proof.Machine.execFetchBatch t die cluster group x s
  | .descriptorArrival t ring x => Sys2Proof.Machine.execDescriptorArrival t ring x s
  | .descriptorBegin t eng => Sys2Proof.Machine.execDescriptorBegin t eng s
  | .steal t eng => Sys2Proof.Machine.execSteal t eng s
  | .descriptorComplete t eng task x => Sys2Proof.Machine.execDescriptorComplete t eng task x s
  | .deadlineMiss t ring slot => Sys2Proof.Machine.execDeadlineMiss t ring slot s
  | .fill t eng task x => Sys2Proof.Machine.execFill t eng task x s
  | .copy t eng task x => Sys2Proof.Machine.execCopy t eng task x s
  | .compare t eng task x => Sys2Proof.Machine.execCompare t eng task x s
  | .reduce t eng task x => Sys2Proof.Machine.execReduce t eng task x s
  | .atomic t eng task x => Sys2Proof.Machine.execAtomic t eng task x s
  | .attend t eng task x => Sys2Proof.Machine.execAttend t eng task x s
  | .append t eng task x => Sys2Proof.Machine.execAppend t eng task x s
  | .sketch t eng task x => Sys2Proof.Machine.execSketch t eng task x s
  | .matmul t eng task x => Sys2Proof.Machine.execMatmul t eng task x s
  | .layerLockGrant t ctx layer => Sys2Proof.Machine.execLayerLockGrant t ctx layer s
  | .chunkTake t eng x => Sys2Proof.Machine.execChunkTake t eng x s
  | .partialMerge t eng task x => Sys2Proof.Machine.execPartialMerge t eng task x s
  | .gather t eng task x => Sys2Proof.Machine.execGather t eng task x s
  | .pool t eng task x => Sys2Proof.Machine.execPool t eng task x s
  | .reduceArm t eng task x => Sys2Proof.Machine.execReduceArm t eng task x s
  | .contribution t port c => Sys2Proof.Machine.execContribution t port c s
  | .reduceTimeout t eng task => Sys2Proof.Machine.execReduceTimeout t eng task s
  | .rdShared t aid ln => Sys2Proof.Machine.execRdShared t aid ln s
  | .rdOwn t aid ln => Sys2Proof.Machine.execRdOwn t aid ln s
  | .upgrade t aid ln => Sys2Proof.Machine.execUpgrade t aid ln s
  | .rdCur t aid ln => Sys2Proof.Machine.execRdCur t aid ln s
  | .wrLine t aid ln mask l => Sys2Proof.Machine.execWrLine t aid ln mask l s
  | .homeAtomic t aid ln code size8 offset operand cmp => Sys2Proof.Machine.execHomeAtomic t aid ln code size8 offset operand cmp s
  | .evictClean t aid ln => Sys2Proof.Machine.execEvictClean t aid ln s
  | .writeback t aid ln l => Sys2Proof.Machine.execWriteback t aid ln l s
  | .rspI t aid ln => Sys2Proof.Machine.execRspI t aid ln s
  | .rspS t aid ln => Sys2Proof.Machine.execRspS t aid ln s
  | .rspIData t aid ln l => Sys2Proof.Machine.execRspIData t aid ln l s
  | .rspSData t aid ln l => Sys2Proof.Machine.execRspSData t aid ln l s
  | .rspWbInFlight t aid ln dirty => Sys2Proof.Machine.execRspWbInFlight t aid ln dirty s
  | .lineDataFromStack t ln => Sys2Proof.Machine.execLineDataFromStack t ln s
  | .snpInv t die ln => Sys2Proof.Machine.execSnpInv t die ln s
  | .snpShared t die ln => Sys2Proof.Machine.execSnpShared t die ln s
  | .snpCur t die ln => Sys2Proof.Machine.execSnpCur t die ln s
  | .dataS t die ln l => Sys2Proof.Machine.execDataS t die ln l s
  | .dataE t die ln l => Sys2Proof.Machine.execDataE t die ln l s
  | .grantE t die ln => Sys2Proof.Machine.execGrantE t die ln s
  | .cmp t die ln old => Sys2Proof.Machine.execCmp t die ln old s
  | .wbAck t die ln => Sys2Proof.Machine.execWbAck t die ln s
  | .nack t die ln => Sys2Proof.Machine.execNack t die ln s
  | .refused t die ln status => Sys2Proof.Machine.execRefused t die ln status s
  | .snoopTimeout t ln aid => Sys2Proof.Machine.execSnoopTimeout t ln aid s
  | .memReqRead t port c x => Sys2Proof.Machine.execMemReqRead t port c x s
  | .memReqWrite t port c x => Sys2Proof.Machine.execMemReqWrite t port c x s
  | .writeMasked t port c x => Sys2Proof.Machine.execWriteMasked t port c x s
  | .writeCount t port c x => Sys2Proof.Machine.execWriteCount t port c x s
  | .memReqAtomic t port c x => Sys2Proof.Machine.execMemReqAtomic t port c x s
  | .fence t port c => Sys2Proof.Machine.execFence t port c s
  | .data t port c => Sys2Proof.Machine.execData t port c s
  | .ack t port c => Sys2Proof.Machine.execAck t port c s
  | .status t port c => Sys2Proof.Machine.execStatus t port c s
  | .fenceDone t port c => Sys2Proof.Machine.execFenceDone t port c s
  | .ackHold t src enc owner => Sys2Proof.Machine.execAckHold t src enc owner s
  | .retry t dest enc owner num => Sys2Proof.Machine.execRetry t dest enc owner num s
  | .nackBackoff t dest enc owner num => Sys2Proof.Machine.execNackBackoff t dest enc owner num s
  | .completionTimeout t dest enc owner num => Sys2Proof.Machine.execCompletionTimeout t dest enc owner num s
  | .fenceGap t src enc owner => Sys2Proof.Machine.execFenceGap t src enc owner s
  | .streamEntryFree t src enc owner => Sys2Proof.Machine.execStreamEntryFree t src enc owner s
  | .routerSlot t d cells => Sys2Proof.Machine.execRouterSlot t d cells s
  | .congestionWindow t => Sys2Proof.Machine.execCongestionWindow t s
  | .queueJoin t tenant c => Sys2Proof.Machine.execQueueJoin t tenant c s
  | .schedulerSlot t port => Sys2Proof.Machine.execSchedulerSlot t port s
  | .gateSwap t port => Sys2Proof.Machine.execGateSwap t port s
  | .gateIntervalEnd t port => Sys2Proof.Machine.execGateIntervalEnd t port s
  | .signalDetect t port lanes => Sys2Proof.Machine.execSignalDetect t port lanes s
  | .trainingComplete t port lanes => Sys2Proof.Machine.execTrainingComplete t port lanes s
  | .hello t port c => Sys2Proof.Machine.execHello t port c s
  | .helloTimer t port => Sys2Proof.Machine.execHelloTimer t port s
  | .retrainReq t port c => Sys2Proof.Machine.execRetrainReq t port c s
  | .widthReq t port c => Sys2Proof.Machine.execWidthReq t port c s
  | .reqAck t port c => Sys2Proof.Machine.execReqAck t port c s
  | .linkControlResend t port => Sys2Proof.Machine.execLinkControlResend t port s
  | .widthChangeDone t port => Sys2Proof.Machine.execWidthChangeDone t port s
  | .linkDataCell t port fec w c => Sys2Proof.Machine.execLinkDataCell t port fec w c s
  | .replayTimer t port => Sys2Proof.Machine.execReplayTimer t port s
  | .unackedLimit t port => Sys2Proof.Machine.execUnackedLimit t port s
  | .signalLoss t port => Sys2Proof.Machine.execSignalLoss t port s
  | .laneFailure t port lane => Sys2Proof.Machine.execLaneFailure t port lane s
  | .uncorrLimit t port => Sys2Proof.Machine.execUncorrLimit t port s
  | .scrubRead t u => Sys2Proof.Machine.execScrubRead t u s
  | .annealPass t group badRows badCols => Sys2Proof.Machine.execAnnealPass t group badRows badCols s
  | .wakeRequest t island => Sys2Proof.Machine.execWakeRequest t island s
  | .wakeComplete t island => Sys2Proof.Machine.execWakeComplete t island s
  | .tinning t cause => Sys2Proof.Machine.execTinning t cause s
  | .tinningDone t clean => Sys2Proof.Machine.execTinningDone t clean s
  | .tamper t source => Sys2Proof.Machine.execTamper t source s
  | .sweepStep t tenant => Sys2Proof.Machine.execSweepStep t tenant s
  | .heartbeat t => Sys2Proof.Machine.execHeartbeat t s
  | .heartbeatLoss t a => Sys2Proof.Machine.execHeartbeatLoss t a s
  | .standbySample t mailboxSeen sidebandSeen => Sys2Proof.Machine.execStandbySample t mailboxSeen sidebandSeen s
  | .fenced t a => Sys2Proof.Machine.execFenced t a s
  | .isram t a => Sys2Proof.Machine.execIsram t a s
  | .touchstonePass t a failed => Sys2Proof.Machine.execTouchstonePass t a failed s
  | .loaderCommand t => Sys2Proof.Machine.execLoaderCommand t s
  | .poresetN t => Sys2Proof.Machine.execPoresetN t s
  | .railInWindow t rail => Sys2Proof.Machine.execRailInWindow t rail s
  | .railEnableTimeout t rail => Sys2Proof.Machine.execRailEnableTimeout t rail s
  | .powerOnPhase t phase far => Sys2Proof.Machine.execPowerOnPhase t phase far s
  | .phaseLate t phase stackMask ddr ports => Sys2Proof.Machine.execPhaseLate t phase stackMask ddr ports s
  | .bankFault t bank => Sys2Proof.Machine.execBankFault t bank s
  | .vrHot t bank => Sys2Proof.Machine.execVrHot t bank s
  | .warningLevelCrossing t rail mv => Sys2Proof.Machine.execWarningLevelCrossing t rail mv s
  | .throttleRelease t rail minMv belowNs => Sys2Proof.Machine.execThrottleRelease t rail minMv belowNs s
  | .railResetLevel t rail => Sys2Proof.Machine.execRailResetLevel t rail s
  | .pmbusPoll t bank readings => Sys2Proof.Machine.execPmbusPoll t bank readings s
  | .thermalThrottle t die coreC stackC => Sys2Proof.Machine.execThermalThrottle t die coreC stackC s
  | .thermalTrip t coreC fabC stackC => Sys2Proof.Machine.execThermalTrip t coreC fabC stackC s
  | .vaonLoss t d => Sys2Proof.Machine.execVaonLoss t d s
  | .vaonReturn t d => Sys2Proof.Machine.execVaonReturn t d s
  | .dump t => Sys2Proof.Machine.execDump t s
  | .coalesceWindowEnd t cls code locKind locIndex => Sys2Proof.Machine.execCoalesceWindowEnd t cls code locKind locIndex s
  | .kaferlinkLinkUp t p => Sys2Proof.Machine.execKaferlinkLinkUp t p s
  | .kaferlinkLinkLoss t p => Sys2Proof.Machine.execKaferlinkLinkLoss t p s
  | .demotionDone t tenant va => Sys2Proof.Machine.execDemotionDone t tenant va s
  | .poresetNLow t => Sys2Proof.Machine.execPoresetNLow t s
  | .vrHotRelease t bank => Sys2Proof.Machine.execVrHotRelease t bank s

end Sys2Proof.Machine
end

