-- ==== Sys2Proof/Safety.lean ====
section
/-! DEFINITION. What counts as a sound state, and the terms in which statements say what a command leaves alone: groups of
components, commands that wait for their reply, replies given, events held. -/

namespace Sys2Proof.Machine

/-! ### Groups of components -/

/-- The memory arrays, tiers, controllers and repair state are as before. -/
def SameMemory (s s' : State) : Prop := s'.mem = s.mem ∧ s'.ecc = s.ecc

/-- Homes, engine line caches, translation, rings, tasks, contexts and reduce slots are as before. -/
def SameEngines (s s' : State) : Prop :=
  s'.coh = s.coh ∧ s'.xlt = s.xlt ∧ s'.eng = s.eng ∧ s'.cru = s.cru ∧ s'.red = s.red

/-- Endpoints, routers, links and traffic control are as before. -/
def SameFabric (s s' : State) : Prop := s'.fab = s.fab ∧ s'.link = s.link ∧ s'.tc = s.tc

/-- Variant, fuses, keys, the Anvil pair, power and reset sequencing are as before. -/
def SamePlatform (s s' : State) : Prop :=
  s'.variant = s.variant ∧ s'.fuses = s.fuses ∧ s'.sec = s.sec ∧ s'.anv = s.anv ∧ s'.pwr = s.pwr

/-- Mode settings and counters are as before. -/
def SameModes (s s' : State) : Prop := s'.mode = s.mode ∧ s'.tel = s.tel

/-- Every register but those at the addresses listed reads as before. -/
def SameRegs (except : List Nat) (s s' : State) : Prop := ∀ a, a ∉ except → regGet s' a = regGet s a

/-- The addresses of the registers that fault records and their windows move (R428). -/
def faultRegs : List Nat := [Reg.FLT_STATUS.base, Reg.FLT_STATUS2.base]

/-- Nothing changes but the clock, the control plane (sessions, journal, Kaferlink, events, fault log), the sideband pins that
events drive, the fault registers and what was sent. -/
def ControlOnly (s s' : State) : Prop :=
  SameMemory s s' ∧ SameEngines s s' ∧ SameFabric s s' ∧ SamePlatform s s' ∧ SameModes s s' ∧ SameRegs faultRegs s s' ∧
    s'.draws = s.draws ∧ s'.pending = s.pending

/-! ### Commands and replies -/

/-- A command of an opcode runs: it has a journal entry without a final reply (R51). -/
def Waits (s : State) (h : CmdHdr) : Prop := ∃ e ∈ s.ctl.journal, e.h = h ∧ e.st ≠ .replied

/-- A command has its final reply: STATUS, payload (that of `TIER_MOVE` is never empty, R88), and the fields it echoes (R48). -/
def Answered (s : State) (h : CmdHdr) (status : Nat) (payload : List Byte) : Prop :=
  ∃ e ∈ s.ctl.journal, e.h = h ∧ e.st = .replied ∧
    ∃ r, e.reply = some r ∧ r.status.toNat = status ∧ r.payload = payloadFor h payload ∧ r.opcode = h.opcode ∧ r.tag = h.tag ∧
      r.tenant = h.tenant ∧ r.session = h.session ∧ r.seq = h.seq

/-- A command's journal entry holds a final reply. -/
def HasReply (s : State) (h : CmdHdr) (r : Reply) : Prop := ∃ e ∈ s.ctl.journal, e.h = h ∧ e.st = .replied ∧ e.reply = some r

/-- A command runs on as a long command: its entry is kept and has no final reply (R49). -/
def Running (s : State) (h : CmdHdr) : Prop := ∃ e ∈ s.ctl.journal, e.h = h ∧ e.running = true

/-- The TENANT field and the STAGED flag suit an opcode that is not staged (R45, R57). -/
def Suits (h : CmdHdr) (sc : Scope) : Prop := h.scopeOk sc = true ∧ h.staged = false

/-- An event of a class with this tenant and payload is held (R55). -/
def EventHeld (s : State) (cls tenant payload : Nat) : Prop :=
  ∃ e ∈ s.ctl.events, e.cls.toNat = cls ∧ e.tenant.toNat = tenant ∧ e.payload = payload

/-- The event store has room (R55). -/
def EventRoom (s : State) : Prop := s.ctl.events.length < 256

/-! ### The secure regions -/

/-- A location lies in the secure region of a die of the part (R236). -/
def inSecure (s : State) (l : Nat) : Bool :=
  (List.range (dies s)).any fun d => decide (sramLoc 0 1 d 0 ≤ l ∧ l < sramLoc 0 1 d 0 + secureBytes)

/-- Every byte of the secure regions is 0 with valid check bits, and every other byte of SRAM is as before (R255). -/
def SecureWiped (s s' : State) : Prop :=
  (∀ l, inSecure s l = true → s'.mem.sram.byte l = 0 ∧ s'.mem.sram.errOf (l / 8) = 0) ∧
  (∀ l, inSecure s l = false → s'.mem.sram.byte l = s.mem.sram.byte l)

/-- A Tinning of a cause runs: STATE 1, PENDING, its cause, COUNT one higher, secure regions wiped (R255, R256). -/
def TinningBegun (cause : Nat) (s s' : State) : Prop :=
  rd s' Fld.ECC_TIN_STATUS_STATE = 1 ∧ rd s' Fld.ECC_TIN_STATUS_PENDING = 1 ∧ rd s' Fld.ECC_TIN_STATUS_LAST_CAUSE = cause ∧
    rd s' Fld.ECC_TIN_STATUS_COUNT = min (2 ^ Fld.ECC_TIN_STATUS_COUNT.w - 1) (rd s Fld.ECC_TIN_STATUS_COUNT + 1) ∧
    SecureWiped s s' ∧ s'.mem.stack = s.mem.stack ∧ s'.mem.far = s.mem.far

/-! ### Registers -/

/-- Registers whose value another part of the state decides when they are read (R98, R125, R149, R181, R214, R234, R258, R286, R353,
R369, R389, R407, R428). -/
def shownRegs : List RegBlock :=
  [Reg.CTRL_JOURNAL_STATUS, Reg.ANV_STATUS, Reg.MEM_REFRESH_CTRL, Reg.MEM_TIER_STATUS, Reg.MEM_SECTOR_REGION, Reg.XLT_CONFIG,
    Reg.XLT_FQ_STATUS, Reg.XLT_PTW_DATA, Reg.COH_STATUS2, Reg.COH_DEAD, Reg.ENG_ENABLE, Reg.ENG_RING_STATE, Reg.CRU_CTX,
    Reg.RED_SLOT, Reg.ECC_TEST_CHECK, Reg.FAB_ROUTE, Reg.FAB_PATH, Reg.FAB_PORT_STATUS, Reg.SEC_STATUS, Reg.SEC_TENANT, Reg.SEC_JOBKEY,
    Reg.PWR_STATUS, Reg.PWR_RAIL, Reg.CLK_LTC, Reg.CLK_STATUS, Reg.FLT_LOG]

/-- Registers whose writes do more than store (R81, R89, R95, R107, R111, R119, R120, R146, R249, R272, R80). -/
def actingRegs : List RegBlock :=
  [Reg.XLT_ROOT, Reg.XLT_PTW_DATA, Reg.XLT_FQ_CONSUME, Reg.XLT_FAULT_RESOLVE, Reg.MEM_LAND_PUSH, Reg.MEM_SECTOR_REGION,
    Reg.MEM_REFRESH_CTRL, Reg.MEM_HOT_CTRL, Reg.COH_RECLAIM, Reg.ECC_TEST_CTRL, Reg.FAB_PATH]

/-- A mapped 8-byte register at an aligned address, no fault-queue window. -/
def RegAt (s : State) (b : RegBlock) (a : Nat) : Prop :=
  Reg.blockOf a = some b ∧ a % 8 = 0 ∧ csrMapped s a = true ∧ queueAt s a = none

/-! ### Fabric ports -/

/-- The addresses of a port's registers (R306). -/
def portRegs (p : Nat) : List Nat :=
  [Reg.FAB_PORT_STATUS.base + 32 * p, Reg.FAB_PORT_UID.base + 32 * p, Reg.FAB_PORT_ERR.base + 32 * p,
    Reg.FAB_PORT_ERR2.base + 32 * p]

/-- Nothing of the fabric changes but one port's link state and registers, and the control plane beside it. -/
def OnlyPort (p : Nat) (s s' : State) : Prop :=
  SameMemory s s' ∧ SameEngines s s' ∧ SamePlatform s s' ∧ SameModes s s' ∧ s'.fab = s.fab ∧ s'.tc = s.tc ∧
    (∀ q, q ≠ p → lport s' q = lport s q) ∧ SameRegs (portRegs p ++ faultRegs) s s'

/-- The payload of the LINK_STATE event of a fabric port's change of state (R290, R430). -/
def linkPayload (p old new width : Nat) : Nat :=
  packBits [(1, 0), (7, 0), (4, p), (4, 0), (3, old), (5, 0), (3, new), (5, 0), (5, width)]

/-! ### Requests that arrive from the fabric -/

/-- A line reads as its bits: contents kept, none of the part's own structures, every codeword right, read under the key it was
written with (R243, R333). -/
def Readable (s : State) (a : Arr) (ln : Nat) : Prop :=
  lossOf s a ln = none ∧ ownKeyed s a ln = false ∧ (∀ i, i < 8 → errHeld s a ln i = 0) ∧
    ((keyOf s a ln = .raw ∧ (storeOf s a).tagOf ln = 0) ∨ ∃ n, keyOf s a ln = .key n ∧ (storeOf s a).tagOf ln = n + 1)

/-- No grant of a line is on its way to a cache of this part (R136). -/
def NoGrants (s : State) (ln : Nat) : Prop := ∀ d, d < 2 → (s.coh.pend.find (elcKey d ln)).bind ElcPend.grant = none

/-- A line that reads as its bits and that no agent holds or is about to hold. -/
def Plain (s : State) (ln : Nat) : Prop := Readable s .stack ln ∧ s.coh.dir.find ln = none ∧ NoGrants s ln

/-- A line that a whole write reaches: its key not lost, no grant on its way, no dead owner (R137, R335). -/
def Writable (s : State) (ln : Nat) : Prop :=
  keyOf s .stack ln ≠ .lost ∧ NoGrants s ln ∧ ∀ a, (s.coh.dir.find ln).bind DirEntry.owner = some a → isDead s a = false

/-- The home of a line takes a request of the fabric at once: no line at work, room for a transaction (R134). -/
def HomeOpen (s : State) (ln : Nat) : Prop := lineBusy s ln = false ∧ homeFull s ln = false

/-- Access counting is off (R94). -/
def NotCounting (s : State) : Prop := rdb s Fld.MEM_HOT_CTRL_ENABLE = false

/-- A reply cell as its requester reads it: an encrypted payload decrypted, by the number of the request it answers (R341). -/
def readReply (s : State) (c d : Cell) : Cell :=
  plain s (cellNonce (requestNum s c) c.src.toNat d.src.toNat (some (bitsOf d.addr.toNat 14 21))) d

/-- A request cell of a class and OP passes its endpoint's check and meter, on a part that answers requests; p is the cell as the
endpoint reads it, an encrypted payload decrypted. It has the stream entry e, in whose window its number n lies (R261, R263, R277,
R314, R341, R348). -/
def Admitted (t : Ltc) (port : BitVec 4) (c p : Cell) (cls op : Nat) (e : Stream) (n : Nat) (s : State) : Prop :=
  c.cls.toNat = cls ∧ c.op.toNat = op ∧ p = plain (adv t s) (requestNonce (adv t s) c) c ∧
    cellOk (adv t s) (requestNonce (adv t s) c) c = true ∧ s.sec.tampered = false ∧ peerFull s p = false ∧
    (meterCell ((settingsFor s c.gen.toNat).getD s.mode.applied) port.toNat (cellTenant s p) p (adv t s)).1 = false ∧
    streamOf s (cellStream c) = some e ∧ n = extendSeq e.base.toNat c.sseq.toNat ∧ n < e.base.toNat + 1024 ∧
    e.base.toNat + 1024 < 2 ^ 48 ∧ ∀ w ∈ s.fab.waiting, cellStream w.cell = cellStream c → w.num ≠ n

/-- An admitted request that is new (R263, R277, R280). -/
def NewRequest (t : Ltc) (port : BitVec 4) (c p : Cell) (cls op : Nat) (e : Stream) (n : Nat) (s : State) : Prop :=
  Admitted t port c p cls op e n s ∧ e.has n = false ∧ e.fence = none ∧ encMissing s p = false

/-- A request has been performed: its number is marked, PERFORMED is one higher (R277). -/
def PerformedNow (c : Cell) (e : Stream) (n : Nat) (s' : State) : Prop :=
  ∃ e', streamOf s' (cellStream c) = some e' ∧ e'.performed = e.performed + 1 ∧ e'.has n = true

/-- A request's acknowledgement is held (R278). -/
def AckHeld (c : Cell) (n : Nat) (s' : State) : Prop :=
  ∃ e', streamOf s' (cellStream c) = some e' ∧ BitVec.ofNat 48 n ∈ e'.acks

/-- One cell joins those that wait for a place at port q, and at no other port does any (R268, R307). -/
def CellQueued (d : Cell) (q : Nat) (s s' : State) : Prop :=
  readyAt s' q = readyAt s q ++ [d] ∧ ∀ p, p ≠ q → readyAt s' p = readyAt s p

/-- A cell is the reply of an OP and status to a request: it echoes DEST, ENC, OWNER and SSEQ (R264). -/
def IsReply (d c : Cell) (op status : Nat) : Prop :=
  d.cls = 1 ∧ d.op.toNat = op ∧ d.dest = c.src ∧ d.enc = c.enc ∧ d.owner = c.owner ∧ d.sseq = c.sseq ∧
    bitsOf d.addr.toNat 0 8 = status

/-- A request works on memory, homes, its stream and counters alone. -/
def RequestOnly (s s' : State) : Prop :=
  s'.mem.far = s.mem.far ∧ (∀ l, s'.mem.sram.byte l = s.mem.sram.byte l) ∧ s'.xlt = s.xlt ∧ s'.cru = s.cru ∧
    s'.red = s.red ∧ s'.link = s.link ∧ s'.mode = s.mode ∧ s'.variant = s.variant ∧ s'.fuses = s.fuses ∧ s'.anv = s.anv ∧ s'.pwr = s.pwr ∧
    s'.sec.tenants = s.sec.tenants ∧ s'.fab.reqs = s.fab.reqs ∧ s'.pending = s.pending

/-- Every byte of the stacks outside a set of lines is as before. -/
def StackSameBut (lines : List Nat) (s s' : State) : Prop :=
  ∀ a, a / 64 ∉ lines → s'.mem.stack.byte a = s.mem.stack.byte a

/-- An outstanding request has ended, and no other has (R279). -/
def RequestEnded (r : Request) (s s' : State) : Prop :=
  s'.fab.reqs = s.fab.reqs.filter fun x => !x.is r.dest r.enc r.owner r.num

/-- A reply cell passes its checks; p is the cell as the endpoint reads it (R261, R263, R341). -/
def ReplyTaken (t : Ltc) (c p : Cell) (op : Nat) (s : State) : Prop :=
  c.cls = 1 ∧ c.op.toNat = op ∧ p = plain (adv t s) (replyNonce (adv t s) c) c ∧
    cellOk (adv t s) (replyNonce (adv t s) c) c = true ∧ encMissing s c = false

/-! ### Coherence -/

/-- Nothing changes but homes, the stacks and counters. -/
def HomeOnly (s s' : State) : Prop :=
  s'.mem.far = s.mem.far ∧ s'.mem.sram = s.mem.sram ∧ s'.ecc = s.ecc ∧ s'.xlt = s.xlt ∧ s'.eng = s.eng ∧ s'.cru = s.cru ∧
    s'.red = s.red ∧ SameFabric s s' ∧ SamePlatform s s' ∧ s'.mode = s.mode ∧ s'.coh.elc = s.coh.elc ∧
    s'.coh.dead = s.coh.dead ∧ s'.pending = s.pending

/-- Nothing is at work on a line and no transaction waits for its eviction. -/
def LineIdle (s : State) (ln : Nat) : Prop :=
  s.coh.htt.find ln = none ∧ waitsOf s ln = [] ∧ ∀ e ∈ s.coh.htt, e.2.blocked ≠ some ln

/-- No request of the fabric waits at the homes (R134). -/
def NoneWaiting (s : State) : Prop := s.fab.waiting = []

/-- A live member's request meets an idle line of the platform's memory, a home with room and a directory set with room
(R130, R134, R148). -/
def HomeFree (aid : BitVec 14) (ln : Nat) (s : State) : Prop :=
  64 * ln < stackBytes s ∧ isDead s aid = false ∧ (s.sec.tampered = false ∨ (ownDie s aid).isSome = true) ∧
    isMember s aid = true ∧ LineIdle s ln ∧ homeFull s ln = false ∧ (setMates s ln).length < 16 ∧ NoneWaiting s

/-- The owner the directory records for a line. -/
def dirOwner (s : State) (ln : Nat) : Option (BitVec 14) := (s.coh.dir.find ln).bind DirEntry.owner

/-- A transaction of a line waits for an agent's response and for no other line, the agent is not dead, and no other line waits
for this one. -/
def Awaits (aid : BitVec 14) (ln : Nat) (tr : Trans) (s : State) : Prop :=
  s.coh.htt.find ln = some tr ∧ isDead s aid = false ∧ aid ∈ tr.need ∧ tr.blocked = none ∧ NoneWaiting s ∧
    ∀ e ∈ s.coh.htt, e.2.blocked ≠ some ln

/-- It waits for that agent alone and nothing follows it. -/
def AwaitsLast (aid : BitVec 14) (ln : Nat) (tr : Trans) (s : State) : Prop :=
  Awaits aid ln tr s ∧ tr.need = [aid] ∧ tr.wb = [] ∧ waitsOf s ln = []

/-- A coalesced fault is counted in its window (R414). -/
def FaultCounted (cls code kind index : Nat) (s' : State) : Prop :=
  ∃ w ∈ s'.ctl.windows, w.cls.toNat = cls ∧ w.code.toNat = code ∧ w.kind.toNat = kind ∧ w.index.toNat = index

/-! ### Engines -/

/-- Nothing changes but rings, run queues and tasks, the control plane, counters and free values drawn. -/
def EnginesOnly (s s' : State) : Prop :=
  SameMemory s s' ∧ s'.coh = s.coh ∧ s'.xlt = s.xlt ∧ s'.cru = s.cru ∧ s'.red = s.red ∧ SameFabric s s' ∧
    SamePlatform s s' ∧ s'.mode = s.mode ∧ s'.pending = s.pending

/-- Every ring but one is as before. -/
def OtherRings (n : Nat) (s s' : State) : Prop := ∀ m, m ≠ n → ringOf s' m = ringOf s m

/-- Stack bytes outside a range are as before. -/
def StackSameOutside (lo n : Nat) (s s' : State) : Prop :=
  ∀ a, a < lo ∨ lo + n ≤ a → s'.mem.stack.byte a = s.mem.stack.byte a

/-- A descriptor waits with its ring or in a run queue. -/
def QueuedIn (s : State) (n : Nat) (q : QDesc) : Prop :=
  (∃ r, ringOf s n = some r ∧ q ∈ r.held) ∨ ∃ e, q ∈ runqOf s e

/-- Translation is as before: TLBs by what they hold for each engine and cluster, all else whole. -/
def SameTranslation (s s' : State) : Prop :=
  (∀ k, s'.xlt.l1.get [] k = s.xlt.l1.get [] k ∧ s'.xlt.l2.get [] k = s.xlt.l2.get [] k) ∧
    { s'.xlt with l1 := [], l2 := [] } = { s.xlt with l1 := [], l2 := [] }

/-- An engine's L1 TLB holds the leaf that maps a tenant's address to a stack address, writable where a write is made, and
no entry of the address fails its parity (R112, R235). -/
def L1Maps (s : State) (eng : Eng) (t va la : Nat) (write : Bool) : Prop :=
  va < 2 ^ 57 ∧ la % 64 = va % 64 ∧
    (∀ e ∈ s.xlt.l1.get [] eng.toNat ++ s.xlt.l2.get [] eng.cl, e.covers t va = true → e.bad = false) ∧ ∃ e, (s.xlt.l1.get [] eng.toNat).find? (TlbEntry.hits t va) = some e ∧
    (write = true → e.w = true ∧ e.wOk = true) ∧ e.target va = .stack la

/-- The home of a line takes a requester of this part at once: no line at work, room, no back-off, no grant on its way (R134, R136). -/
def HomeTakes (s : State) (ln : Nat) : Prop :=
  lineBusy s ln = false ∧ homeFull s ln = false ∧ (∀ who, backedOff s who = false) ∧ NoGrants s ln

/-- A line an engine can read now: mapped, taken at its home, held by nobody, right codewords. -/
def CanRead (s : State) (eng : Eng) (t va la : Nat) : Prop :=
  L1Maps s eng t va la false ∧ HomeTakes s (la / 64) ∧ Plain s (la / 64)

/-- A line an engine can write now: mapped, taken at its home, its key not lost. -/
def CanWrite (s : State) (eng : Eng) (t va la : Nat) : Prop :=
  L1Maps s eng t va la true ∧ HomeTakes s (la / 64) ∧ keyOf s .stack (la / 64) ≠ .lost

/-- Every 2 MiB page of n bytes from a virtual address is mapped by an engine's L1 TLB (R220). -/
def CanTouchSpan (s : State) (eng : Eng) (t va n : Nat) (write : Bool) : Prop :=
  ∀ i, i < (if n = 0 then 0 else (va + n - 1) / mib2 - va / mib2 + 1) →
    ∃ la, L1Maps s eng t (if i = 0 then va else alignDown va mib2 + mib2 * i) la write

/-- No line of a side of n lines stands 64 KiB before the end of its page where the side goes on (R180). -/
def NoLookAhead (s : State) (eng : Eng) (t va n : Nat) : Prop :=
  ∀ i, i < n → ∀ e, (s.xlt.l1.get [] eng.toNat).find? (TlbEntry.hits t (va + 64 * i)) = some e →
    va + 64 * i + 65536 = alignDown (va + 64 * i) (2 ^ e.size) + 2 ^ e.size → va + 64 * n ≤ va + 64 * i + 65536

/-- A die's cache can take a line in (R126, R350). -/
def ElcRoom (s : State) (die ln : Nat) : Prop :=
  poolRoom s 16 partElc (elcSet s die ln).length (elcOf s (elcSet s die ln)) (lineTenant s ln) = true

/-- Accesses of a tenant's descriptors are not sampled one by one: the TR-12 has no such samples, the TR-6 only where sampling
of the tenant is on (R422, R424). -/
def NoExactSamples (s : State) (t : Nat) : Prop := s.variant = .tr12 ∨ sampled s t = false

/-- A task has its status and result. -/
def TaskDone (s' : State) (key status result : Nat) : Prop :=
  (taskOf s' key).map Task.st = some (.done (BitVec.ofNat 8 status) (BitVec.ofNat 64 result))

/-- An operation changes nothing but its task, homes, stack lines and counters. -/
def TaskOnly (key : Nat) (s s' : State) : Prop :=
  (∀ k, k ≠ key → taskOf s' k = taskOf s k) ∧ s'.eng.rings = s.eng.rings ∧ s'.eng.runq = s.eng.runq ∧
    s'.mem.far = s.mem.far ∧ (∀ l, s'.mem.sram.byte l = s.mem.sram.byte l) ∧ SameTranslation s s' ∧ s'.red = s.red ∧ SameFabric s s' ∧
    SamePlatform s s' ∧ s'.mode = s.mode ∧ s'.pending = s.pending

/-- Two words (by word number) of the stacks differ, or their metadata where it is compared (R176). -/
def WordsDiffer (s : State) (cmpMeta : Bool) (x y : Nat) : Prop :=
  s.mem.stack.num (8 * x) 8 ≠ s.mem.stack.num (8 * y) 8 ∨ (cmpMeta = true ∧ s.mem.stack.metaOf x ≠ s.mem.stack.metaOf y)

/-- The number of word k of a side of which line i lies at address l i. -/
def sideWord (l : Nat → Nat) (k : Nat) : Nat := l (k / 8) / 8 + k % 8

/-- The bytes of consecutive lines of a virtual range, as a span from its first byte: line i lies at address l i. -/
def spanAt (s : State) (va n : Nat) (l : Nat → Nat) : Span :=
  spanOf va ((List.range n).map fun i => lineOfBits (s.mem.stack.lineBits (l i / 64)) 0)

/-- Every line of n bytes from a virtual address can be read; line i lies at l i. -/
def CanReadSpan (s : State) (eng : Eng) (t va n : Nat) (l : Nat → Nat) : Prop :=
  CanRead s eng t va (l 0 + va % 64) ∧ l 0 % 64 = 0 ∧
    ∀ i, 1 ≤ i → i < spanLines va n → CanRead s eng t (alignDown va 64 + 64 * i) (l i)

/-- A block-table entry that names a block: VALID, no reserved bit, on a line, inside one page (R191, R192). -/
def goodEntry (c : SeqCtx) (e : Nat) : Prop :=
  bitAt e 63 = true ∧ bitsOf e 57 6 = 0 ∧ bitsOf e 0 57 % 64 = 0 ∧
    bitsOf e 0 57 / mib2 = (bitsOf e 0 57 + c.blockBytes - 1) / mib2

/-- The address of a block-table entry (R192). -/
def entryVa (c : SeqCtx) (layer b : Nat) : Nat := c.btVa + 8 * (layer * c.blocksMax + b)

/-- No other task's chunks wait to be posted. -/
def OnlyPoster (key : Nat) (s : State) : Prop := ∀ e ∈ s.cru.areas, e.1 ≠ key → e.2.own = []

/-- A task's chunks are posted as far as the queue of 64 of its cluster takes them; the task waits for them (R205). -/
def ChunksPosted (key cl : Nat) (cs : List Chunk) (s s' : State) : Prop :=
  chunkqOf s' cl = chunkqOf s cl ++ cs.take (64 - (chunkqOf s cl).length) ∧
    (areaOf s' key).own = cs.drop (64 - (chunkqOf s cl).length) ∧ (areaOf s' key).left = cs.length ∧
    (taskOf s' key).map Task.st = some .wait

/-! ### Power -/

/-- A bank failed while the other is healthy: its rails are down and its fabric die is reset, the other bank, its die and the
stacks keep on, and the fault is counted (R386). -/
def BankLost (d : FDie) (s s' : State) : Prop :=
  bankOk s' d = false ∧ bankOk s' d.other = true ∧ (∀ r ∈ ownRails d, railUp s' r = false) ∧
    (∀ r, r < 14 → r ∉ ownRails d → railUp s' r = railUp s r) ∧ Out.coreOff d ∈ s'.out ∧
    rd s' Fld.RST_STATUS_LAST_TYPE = 3 + d.num ∧ rd s' Fld.RST_STATUS_LAST_SOURCE = 2 ∧
    rd s' (if d = .f0 then Fld.PWR_EPISODES_BANK_FAULTS_A else Fld.PWR_EPISODES_BANK_FAULTS_B) =
      min 0xFFFF (rd s (if d = .f0 then Fld.PWR_EPISODES_BANK_FAULTS_A else Fld.PWR_EPISODES_BANK_FAULTS_B) + 1) ∧
    (∀ p, p < 16 → onDie d p = true → portState s' p = 0) ∧ (∀ p, onDie d p = false → lport s' p = lport s p) ∧
    (anvil s' d).state = 0 ∧ anvil s' d.other = anvil s d.other ∧ s'.mem.stack = s.mem.stack ∧ s'.coh = s.coh ∧
    s'.eng = s.eng ∧ s'.sec = s.sec ∧ s'.mode = s.mode

/-! ### Resets -/

/-- RST_STATUS shows a reset of this type and source, at this time (R407). -/
def ResetNoted (type source : Nat) (t : Ltc) (s s' : State) : Prop :=
  rd s' Fld.RST_STATUS_LAST_TYPE = type ∧ rd s' Fld.RST_STATUS_LAST_SOURCE = source ∧
    rd s' Fld.RST_STATUS_LAST_LTC = now48 (adv t s)

/-- The cluster islands are at reset; memory, homes, keys, fabric and modes are as before (R398). -/
def EnginesReset (s s' : State) : Prop :=
  s'.eng = {} ∧ s'.cru = {} ∧ s'.red = {} ∧ s'.xlt.l1 = [] ∧ s'.xlt.l2 = [] ∧ s'.xlt.fq = [] ∧ s'.tel.counters = [] ∧
    (∀ a, 0xD0000 ≤ a → a < 0x100000 → regGet s' a = Reg.resetOf a) ∧ s'.mem.stack = s.mem.stack ∧ s'.mem.far = s.mem.far ∧
    s'.mem.sram = s.mem.sram ∧ s'.mem.ingots = s.mem.ingots ∧ s'.coh.dir = s.coh.dir ∧ s'.coh.elc = s.coh.elc ∧
    s'.ecc = s.ecc ∧ SameFabric s s' ∧ SamePlatform s s' ∧ s'.mode = s.mode

/-- The control plane is at reset; memory, engines, keys and links are as before (R398). -/
def ControlReset (s s' : State) : Prop :=
  s'.ctl.journal = [] ∧ s'.ctl.sessions = [] ∧ s'.ctl.events = [] ∧ s'.ctl.relayList = [] ∧ s'.ctl.partId = s.ctl.partId ∧
    s'.mode = {} ∧ (∀ d, (anvil s' d).state = if (anvil s d).state = 0 then 0 else 1) ∧ s'.anv.token = none ∧
    rd s' Fld.CTRL_MODE_STATUS_APPLIED_GEN = 0 ∧ SameMemory s s' ∧ SameEngines s s' ∧ s'.link = s.link ∧ s'.sec = s.sec ∧
    s'.fuses = s.fuses ∧ s'.pwr = s.pwr ∧ s'.tel = s.tel

/-- A fabric die is at reset; the other die, engines, homes, stacks, keys and modes are as before (R398). -/
def FabricReset (d : FDie) (s s' : State) : Prop :=
  (∀ p, p < 16 → onDie d p = true → portState s' p = 0 ∧ lport s' p = {}) ∧
    (∀ p, onDie d p = false → lport s' p = lport s p) ∧ (anvil s' d).state = 0 ∧ anvil s' d.other = anvil s d.other ∧
    (∀ r ∈ s'.fab.reqs, onDie d r.port.toNat = false) ∧ s'.mem.stack = s.mem.stack ∧ s'.mem.sram = s.mem.sram ∧
    s'.coh = s.coh ∧ s'.eng = s.eng ∧ s'.sec = s.sec ∧ s'.mode = s.mode ∧ s'.fuses = s.fuses

/-- The part is as after power-on, but for what the always-on domains keep (R398). -/
def PartReset (s s' : State) : Prop :=
  s'.mem = {} ∧ s'.eng = {} ∧ s'.coh = {} ∧ s'.xlt = {} ∧ s'.sec.tenants = [] ∧ s'.sec.jobs = [] ∧ s'.sec.tampered = false ∧
    s'.ctl.sessions = [] ∧ s'.ctl.journal = [] ∧ s'.mode = {} ∧ s'.pins.tamperLow = false ∧
    s'.pins.replaceReqLow = false ∧ rd s' Fld.RST_STATUS_PHASES = 0 ∧
    rd s' Fld.ECC_TIN_STATUS_PENDING = rd s Fld.ECC_TIN_STATUS_PENDING ∧ s'.fuses = s.fuses ∧ s'.variant = s.variant ∧
    s'.pwr.rails = s.pwr.rails

/-! ### Invariants -/

/-- The life-cycle state, and that of a life-cycle change that waits, is one of R323; each Anvil's state is one of R355. -/
def LegalStates (s : State) : Prop :=
  s.fuses.lc.toNat ≤ 4 ∧ (∀ p, s.sec.lcPending = some p → p.target.toNat ≤ 4) ∧
    s.anv.a.state.toNat ≤ 4 ∧ s.anv.b.state.toNat ≤ 4

end Sys2Proof.Machine
end

