-- ==== Sys2Proof/Certificates/Slice0/Obligations.lean ====
section
/-! DEFINITION. The statements of this row for the provers. -/

open Sys2Proof Sys2Proof.Machine

/-- A step takes the first command of the queue and runs it with the queue's rest; on an empty queue the part idles (the
model's choice, log entry 1). -/
def Obligations.StepRunsFrontCommand : Prop :=
  (∀ s : State, s.pending = [] → step s = .next s) ∧
  (∀ (s : State) (c : Instr) (r : List Instr), s.pending = c :: r → step s = exec c { s with pending := r })

/-- What the part holds right after reset (R14, R68, R355, R395; the empty arrays are the model's choice, log entry 9). -/
def Obligations.ResetHoldsResetColumns : Prop :=
  (∀ a, regGet State.reset a = Reg.resetOf a) ∧ rd State.reset Fld.MEM_CONFIG_GRAIN = 4 ∧
  rd State.reset Fld.CTRL_MODE_STATUS_APPLIED_GEN = 0 ∧ now State.reset = 0 ∧
  State.reset.anv.a.state = 1 ∧ State.reset.anv.b.state = 1 ∧ State.reset.anv.token = none ∧
  State.reset.ctl.journal = [] ∧ State.reset.ctl.sessions = [] ∧ State.reset.ctl.events = [] ∧
  State.reset.sec.tenants = [] ∧ State.reset.sec.jobs = [] ∧ State.reset.mem = {} ∧ State.reset.pending = []

/-- The invariant of `LegalStatesKept` holds after reset. -/
def Obligations.LegalStatesAtReset : Prop := LegalStates State.reset

/-- No command leads to a life-cycle state or an Anvil state that the manual does not assign (R323, R355). -/
def Obligations.LegalStatesKept : Prop :=
  ∀ s s' : State, LegalStates s → step s = .next s' → LegalStates s'

/-- Kaferlink frames, replay requests and the acknowledgement time-out (R37, R39). -/
def Obligations.KaferlinkGoBackN : Prop :=
  (∀ (t : Ltc) (p : KPort) (f : Frame) (s : State), portUp s p = true → f.ftype = 1 →
    f.crc = frameSum f → f.fseq = (klink s p).lastGood + 1 →
    ∃ s', exec (.kaferlinkFrame t p f true) s = .next s' ∧ (klink s' p).lastGood = f.fseq ∧
      (klink s' p).discarding = false ∧ ControlOnly s s' ∧ s'.regs = s.regs) ∧
  (∀ (t : Ltc) (p : KPort) (f : Frame) (good : Bool) (s : State), portUp s p = true →
    good = false ∨ f.crc ≠ frameSum f →
    ∃ s', exec (.kaferlinkFrame t p f good) s = .next s' ∧
      s'.out = s.out ++ [.frame p (bareFrame (klink s p) 3 ((klink s p).lastGood + 1))] ∧
      (klink s' p).discarding = true ∧ (klink s' p).lastGood = (klink s p).lastGood ∧
      s'.ctl.journal = s.ctl.journal ∧ ControlOnly s s' ∧ s'.regs = s.regs) ∧
  (∀ (t : Ltc) (p : KPort) (first ack : BitVec 16) (s : State), portUp s p = true → (klink s p).resends + 1 < 8 →
    (∀ f ∈ (klink s p).unacked, coveredBy (klink s p) ack f = false) →
    (∃ f ∈ (klink s p).unacked, f.fseq = first) →
    ∃ s', exec (.replayRequest t p first ack) s = .next s' ∧
      s'.out = s.out ++ ((klink s p).unacked.filter fun x =>
        decide (behind (klink s p).lastSent x.fseq ≤ behind (klink s p).lastSent first)).map
          (fun x => .frame p (dataFrame (klink s p) x)) ∧
      rd s' (Fld.KAFER_LINK_STATUS_REPLAYS p.num) = min 0xFFFF (rd s (Fld.KAFER_LINK_STATUS_REPLAYS p.num) + 1) ∧
      (klink s' p).unacked = (klink s p).unacked) ∧
  (∀ (t : Ltc) (p : KPort) (f : TxFrame) (r : List TxFrame) (s : State), portUp s p = true →
    (klink s p).resends + 1 < 8 → (klink s p).unacked = f :: r →
    (klink s p).ackAt.toNat + 40000 ≤ now (adv t s) →
    (∀ x ∈ r, behind (klink s p).lastSent x.fseq ≤ behind (klink s p).lastSent f.fseq) →
    ∃ s', exec (.ackTimeout t p) s = .next s' ∧
      s'.out = s.out ++ (f :: r).map (fun x => .frame p (dataFrame (klink s p) x)) ∧
      rd s' (Fld.KAFER_LINK_STATUS_REPLAYS p.num) = min 0xFFFF (rd s (Fld.KAFER_LINK_STATUS_REPLAYS p.num) + 1) ∧
      (klink s' p).unacked = f :: r)

/-- Taking a command packet (R44, R46, R47) and beginning a command (R50, R51). -/
def Obligations.CommandTakenAndBegun : Prop :=
  (∀ (t : Ltc) (p : KPort) (h : CmdHdr) (params body : List Byte) (x : Session) (s : State),
    portServes s (.kafer p) = true → h.version = 1 → h.pathRouted = false → h.target = sourceId s →
    h.session ≠ 0 → s.sec.tampered = false → formatStatus h params = 0 → sessionOf s h.session = some x →
    (∀ e ∈ s.ctl.journal, ¬(e.h.session = h.session ∧ e.h.seq = h.seq)) → x.recs.find h.seq.toNat = none →
    (∀ hi, x.high = some hi → (hi - h.seq).toNat < 1024 ∨ 2 ^ 31 ≤ (hi - h.seq).toNat) →
    s.ctl.journal.length < 512 →
    ∃ s', exec (.commandReceive t (.kafer p) h params body true) s = .next s' ∧
      (∃ e, s'.ctl.journal = s.ctl.journal ++ [e] ∧ e.h = h ∧ e.params = params ∧ e.st = .queued ∧ e.reply = none) ∧
      s'.out = s.out ∧ ControlOnly s s') ∧
  (∀ (t : Ltc) (p : KPort) (h : CmdHdr) (params body : List Byte) (tagOk : Bool) (s : State),
    portServes s (.kafer p) = true → h.version ≠ 1 → (klink s p).waiting = [] → inGap (adv t s) = false →
    (klink s p).unacked.length < 500 →
    ∃ s' r fs, exec (.commandReceive t (.kafer p) h params body tagOk) s = .next s' ∧ s'.ctl.journal = s.ctl.journal ∧
      s'.out = s.out ++ .kafer p (.reply r) :: fs ∧ (∀ o ∈ fs, ∃ f, o = .frame p f) ∧ r.status.toNat = Status.BAD_VERSION ∧ r.tag = h.tag ∧ ControlOnly s s') ∧
  (∀ (t : Ltc) (e : JEntry) (r : List JEntry) (s : State), s.ctl.journal = e :: r → s.anv.takeover = none →
    e.st = .queued → e.h.fence = false → (∀ x ∈ r, x.running = false ∧ x.h ≠ e.h) →
    executable (adv t s) e.h e.params = true → cmdLate (adv t s) e.h = false →
    ∃ s', exec (.commandBegin t) s = .next s' ∧
      s'.ctl.journal = { e with st := .running (BitVec.ofNat 64 (now (adv t s))) } :: r ∧ s'.out = s.out ∧ ControlOnly s s')

/-- IN_PROGRESS (R49), Kaferlink ports up and down, and the port a reply leaves on (R36, R60, R430). -/
def Obligations.PortsAndInterimReplies : Prop :=
  (∀ (t : Ltc) (e : JEntry) (began : Ltc) (s : State),
    entryBy s e.h.session e.h.seq = some e → e ∈ s.ctl.journal → e.st = .running began → longCmd e.h = true →
    began.toNat + 1000000 * (e.interims + 1) ≤ now (adv t s) →
    ∃ s', exec (.inProgress t e.h.session e.h.seq) s = .next s' ∧
      (∃ e' ∈ s'.ctl.journal, e'.h = e.h ∧ e'.interims = e.interims + 1 ∧ e'.st = e.st) ∧ ControlOnly s s') ∧
  (∀ (t : Ltc) (p : KPort) (s : State), portUp s p = false → EventRoom s →
    ∃ s', exec (.kaferlinkLinkUp t p) s = .next s' ∧ rd s' (Fld.KAFER_LINK_STATUS_STATE p.num) = 2 ∧
      rd s' (Fld.KAFER_LINK_STATUS_SIGNAL p.num) = 1 ∧
      EventHeld s' 11 0xFFF (packBits [(1, 1), (7, 0), (4, p.num), (4, 0),
        (3, rd s (Fld.KAFER_LINK_STATUS_STATE p.num)), (5, 0), (3, 2), (5, 0), (5, 0)])) ∧
  (∀ (t : Ltc) (p : KPort) (s : State), portUp s p = true → EventRoom s →
    ∃ s', exec (.kaferlinkLinkLoss t p) s = .next s' ∧ rd s' (Fld.KAFER_LINK_STATUS_STATE p.num) = 0 ∧
      rd s' (Fld.KAFER_LINK_STATUS_SIGNAL p.num) = 0 ∧
      EventHeld s' 11 0xFFF (packBits [(1, 1), (7, 0), (4, p.num), (4, 0), (3, 2), (5, 0), (3, 0), (5, 0), (5, 0)])) ∧
  (∀ (t : Ltc) (p : KPort) (e : JEntry) (r : Reply) (s : State),
    entryBy s e.h.session e.h.seq = some e → e.reply = some r → e.sentOn = none → e.sentRelay = false → e.src = .kafer p →
    portUp s p = false → portUp s p.other = true → inGap (adv t s) = false →
    e.readyAt.toNat + 1000000 ≤ now (adv t s) → (klink s p).waiting = [] → (klink s p.other).waiting = [] →
    (klink s p.other).unacked.length + (KPacket.reply r).frames ≤ 512 →
    ∃ s' fs, exec (.replyPortFallback t e.h.session e.h.seq) s = .next s' ∧
      s'.out = s.out ++ .kafer p.other (.reply r) :: fs ∧ (∀ o ∈ fs, ∃ f, o = .frame p.other f) ∧ ControlOnly s s')

/-- Relayed commands (R41, R42, R51). -/
def Obligations.RelayedCommands : Prop :=
  (∀ (t : Ltc) (r : Reply) (tag : BitVec 128) (s : State), relayOf s r.source r.session r.seq = none →
    ∃ s', exec (.relayReply t (.reply r tag)) s = .next s' ∧
      rd s' (Fld.KAFER_LINK_STATUS_RELAY_LATE_DROP 0) =
        min 0xFFFF (rd s (Fld.KAFER_LINK_STATUS_RELAY_LATE_DROP 0) + 1) ∧
      s'.ctl = s.ctl ∧ s'.out = s.out ∧ SameRegs [Reg.KAFER_LINK_STATUS.base] s s') ∧
  (∀ (t : Ltc) (r : Reply) (tag : BitVec 128) (x : RelayEntry) (s : State), relayOf s r.source r.session r.seq = some x →
    ∃ s', exec (.relayReply t (.reply r tag)) s = .next s' ∧
      (r.status.toNat ≠ Status.IN_PROGRESS → s'.ctl.relayed = s.ctl.relayed.filter fun y => y ≠ x) ∧
      (r.status.toNat = Status.IN_PROGRESS → s'.ctl.relayed = (s.ctl.relayed.filter fun y => y ≠ x) ++
        [{ x with due := BitVec.ofNat 64 (now (adv t s) + 2000000) }]) ∧ ControlOnly s s' ∧ s'.regs = s.regs) ∧
  (∀ (t : Ltc) (target : BitVec 12) (x : RelayEntry) (s : State), relayOf s target x.h.session x.h.seq = some x →
    x.due.toNat ≤ now (adv t s) →
    ∃ s', exec (.relayTimeout t target x.h.session x.h.seq) s = .next s' ∧
      s'.ctl.relayed = s.ctl.relayed.filter (fun y => y ≠ x) ∧ s'.ctl.journal.length = s.ctl.journal.length ∧
      ControlOnly s s' ∧ s'.regs = s.regs) ∧
  (∀ (t : Ltc) (session seq : BitVec 32) (s : State),
    ∃ s', exec (.replyAck t session seq) s = .next s' ∧
      (∀ e, e ∈ s'.ctl.journal ↔ e ∈ s.ctl.journal ∧
        ¬(e.h.session = session ∧ e.h.seq = seq ∧ e.st = .replied ∧ e.sentRelay = true)) ∧
      s'.out = s.out ∧ ControlOnly s s' ∧ s'.regs = s.regs) ∧
  (∀ (t : Ltc) (e : JEntry) (s : State), entryBy s e.h.session e.h.seq = some e → e.st = .replied → e.sentRelay = true →
    e.sentAt.toNat + 10000000 ≤ now (adv t s) →
    ∃ s', exec (.replyAckTimeout t e.h.session e.h.seq) s = .next s' ∧ e ∉ s'.ctl.journal ∧
      (∀ x ∈ s'.ctl.journal, x ∈ s.ctl.journal) ∧ ControlOnly s s' ∧ s'.regs = s.regs)

/-- EVENT_REPEAT and EVENT_ACK (R55), GEN_DISCARD (R430). -/
def Obligations.EventsRepeatedAndFreed : Prop :=
  (∀ (t : Ltc) (e : EventRec) (s : State), (s.ctl.events.find? fun x => x.seq = e.seq) = some e → e.sent = true →
    e.due.toNat ≤ now (adv t s) → holderLive (adv t s) = true →
    (∃ x ∈ subscribers s, canSendTo s false x = true) →
    ∃ s', exec (.eventRepeat t e.seq) s = .next s' ∧
      (∃ e' ∈ s'.ctl.events, e'.seq = e.seq ∧ e'.sent = true ∧ e'.payload = e.payload ∧
        e'.due = BitVec.ofNat 64 (now (adv t s) + 100000)) ∧
      s'.ctl.events.length = s.ctl.events.length ∧ ControlOnly s s' ∧ s'.regs = s.regs) ∧
  (∀ (t : Ltc) (h : CmdHdr) (n : BitVec 32) (s : State), Suits h .platform → Waits s h → s.ctl.lost = [] →
    cmdLate (adv t s) h = false →
    ∃ s', exec (.eventAck t h n) s = .next s' ∧ Answered s' h Status.OK [] ∧
      s'.ctl.events = s.ctl.events.filter (fun e => decide (2 ^ 31 ≤ (n - e.seq).toNat)) ∧ ControlOnly s s') ∧
  (∀ (t d : Ltc) (s : State), s.mode.discardDue = some d → d.toNat ≤ now (adv t s) → EventRoom s →
    (s.mode.discardStale ≠ 0 ∨ s.mode.discardAhead ≠ 0) →
    ∃ s', exec (.genDiscard t) s = .next s' ∧ s'.mode.discardStale = 0 ∧ s'.mode.discardAhead = 0 ∧
      s'.mode.discardDue = some (BitVec.ofNat 64 (now (adv t s) + 100000)) ∧
      EventHeld s' 12 0xFFF (packBits [(32, s.mode.discardStale.toNat), (32, s.mode.discardAhead.toNat),
        (8, s.mode.discardGen.toNat), (8, 0), (48, s.mode.discardLtc.toNat)]) ∧
      s'.mode.applied = s.mode.applied ∧ s'.mode.staged = s.mode.staged ∧ s'.regs = s.regs)

/-- MODE_ARM, MODE_COMMIT, MODE_APPLY, MODE_CLOSE and MODE_ABORT (R61, R62, R63, R64). -/
def Obligations.ModeChangesStageArmApplyClose : Prop :=
  (∀ (t : Ltc) (h : CmdHdr) (gen : BitVec 16) (s : State), Suits h .platform → Waits s h → windowOpen s = false →
    gen.toNat = genAfter (appliedGen s) → firstFailing s = none →
    ∃ s', exec (.modeArm t h gen) s = .next s' ∧ isArmed s' = true ∧ rd s' Fld.CTRL_MODE_STATUS_ARMED_GEN = gen.toNat ∧
      Answered s' h Status.OK (leBytes 2 s.mode.staged.length ++ leBytes 2 0 ++ leBytes 4 0) ∧ s'.mode = s.mode ∧
      appliedGen s' = appliedGen s ∧ SameRegs (Reg.CTRL_MODE_STATUS.base :: faultRegs) s s') ∧
  (∀ (t : Ltc) (h : CmdHdr) (gen : BitVec 16) (s : State), Suits h .platform → Waits s h → isArmed s = true →
    rd s Fld.CTRL_MODE_STATUS_ARMED_GEN = gen.toNat → gen.toNat ≠ appliedGen s →
    ∃ s', exec (.modeCommit t h gen 0) s = .next s' ∧ Answered s' h Status.OK [] ∧ appliedGen s' = gen.toNat ∧
      windowOpen s' = true ∧ isArmed s' = false ∧ s'.mode.applied = stagedSettings s ∧
      s'.mode.prev = some s.mode.applied ∧ s'.mode.prevGen.toNat = appliedGen s ∧ s'.mode.staged = []) ∧
  (∀ (t : Ltc) (c : Commit) (s : State), s.mode.commit = some c → passed48 (adv t s) c.act.toNat = true →
    isArmed s = true → Waits s c.h →
    ∃ s', exec (.modeApply t) s = .next s' ∧ Answered s' c.h Status.OK [] ∧ appliedGen s' = c.gen.toNat ∧
      windowOpen s' = true ∧ isArmed s' = false ∧ s'.mode.applied = stagedSettings s ∧
      s'.mode.prev = some s.mode.applied ∧ s'.mode.staged = [] ∧ s'.mode.commit = none) ∧
  (∀ (t : Ltc) (h : CmdHdr) (gen : BitVec 16) (s : State), Suits h .platform → Waits s h → gen.toNat = appliedGen s →
    gen ≠ 0 →
    ∃ s', exec (.modeClose t h gen) s = .next s' ∧ Answered s' h Status.OK [] ∧ windowOpen s' = false ∧
      s'.mode.prev = none ∧ s'.mode.applied = s.mode.applied ∧ s'.mode.staged = s.mode.staged ∧
      appliedGen s' = appliedGen s ∧ SameRegs (Reg.CTRL_MODE_STATUS.base :: faultRegs) s s' ∧ SameFabric s s') ∧
  (∀ (t : Ltc) (h : CmdHdr) (gen : BitVec 16) (s : State), Suits h .platform → Waits s h →
    gen.toNat = genAfter (appliedGen s) → (isArmed s = true ∨ s.mode.staged ≠ []) → s.mode.commit = none →
    ∃ s', exec (.modeAbort t h gen) s = .next s' ∧ Answered s' h Status.OK [] ∧ s'.mode.staged = [] ∧
      isArmed s' = false ∧ rd s' Fld.CTRL_MODE_STATUS_STAGED_WRITES = 0 ∧ s'.mode.applied = s.mode.applied ∧
      appliedGen s' = appliedGen s ∧ windowOpen s' = windowOpen s)

/-- NOP, IDENTIFY, SESSION_OPEN, SESSION_CLOSE, ASSIGN_PART_ID and RELAY_LIST_SET (R41, R57, R329, R402). -/
def Obligations.IdentityAndSessions : Prop :=
  (∀ (t : Ltc) (h : CmdHdr) (s : State), Suits h .platform → Waits s h →
    ∃ s', exec (.nop t h) s = .next s' ∧ Answered s' h Status.OK [] ∧ ControlOnly s s') ∧
  (∀ (t : Ltc) (h : CmdHdr) (s : State), Suits h .platform → Waits s h →
    ∃ s', exec (.identify t h) s = .next s' ∧ ControlOnly s s' ∧
      Answered s' h Status.OK (leBytes 19 (packBits [(64, s.fuses.uid.toNat), (16, (sourceId s).toNat),
        (8, match s.variant with | .tr12 => 1 | .tr6 => 2), (8, s.fuses.lc.toNat), (32, activeFw s), (16, appliedGen s),
        (8, match s.anv.token with | none => 0xFF | some .f0 => 0 | some .f1 => 1)]))) ∧
  (∀ (t : Ltc) (h : CmdHdr) (slot subscriber : Byte) (node : BitVec 16) (ct : BitVec 12544) (s : State),
    Suits h .platform → Waits s h → 1 ≤ slot.toNat → slot.toNat ≤ 8 → subscriber.toNat < 2 → s.fuses.lc ≠ 4 →
    s.ctl.sessions.find slot.toNat = none →
    ∃ s' x p, exec (.sessionOpen t h slot subscriber node ct) s = .next s' ∧ Answered s' h Status.OK p ∧
      s'.ctl.sessions.find slot.toNat = some x ∧ x.id.toNat % 16 = slot.toNat ∧ x.subscriber = decide (subscriber = 1) ∧
      x.node = node ∧ p.length = 1320 ∧ SameMemory s s' ∧ SameEngines s s' ∧ SamePlatform s s') ∧
  (∀ (t : Ltc) (h : CmdHdr) (id : BitVec 32) (s : State), Suits h .platform → Waits s h →
    (∃ e ∈ s.ctl.sessions, e.2.id = id) →
    ∃ s', exec (.sessionClose t h id) s = .next s' ∧ Answered s' h Status.OK [] ∧
      s'.ctl.sessions.keys = (s.ctl.sessions.keep fun _ x => x.id ≠ id).keys ∧
      (∀ e ∈ s'.ctl.sessions, e.2.id ≠ id) ∧ ControlOnly s s') ∧
  (∀ (t : Ltc) (h : CmdHdr) (id : BitVec 16) (s : State), Suits h .platform → Waits s h → id.toNat ≤ 0xFFF →
    s.mem.ingots = [] →
    ∃ s', exec (.assignPartId t h id) s = .next s' ∧ Answered s' h Status.OK [] ∧
      (sourceId s').toNat = id.toNat ∧ SameMemory s s' ∧ SameEngines s s' ∧ SamePlatform s s' ∧ SameModes s s') ∧
  (∀ (t : Ltc) (h : CmdHdr) (parts : List (BitVec 16)) (s : State), Suits h .platform → Waits s h → parts.length ≤ 63 →
    (∀ p ∈ parts, p.toNat ≤ 0xFFF) →
    ∃ s', exec (.relayListSet t h parts) s = .next s' ∧ Answered s' h Status.OK [] ∧
      s'.ctl.relayList.map BitVec.toNat = parts.map BitVec.toNat ∧ ControlOnly s s')

/-- CSR_READ, CSR_WRITE, CSR_MODIFY, CSR_POLL, POLL_TIMEOUT and REGISTER_WRITE (R12, R57, R59). -/
def Obligations.CsrAccessTouchesRwBits : Prop :=
  (∀ (t : Ltc) (h : CmdHdr) (a : BitVec 32) (b : RegBlock) (s : State), Suits h .platform → Waits s h →
    RegAt s b a.toNat → b ∉ shownRegs →
    ∃ s', exec (.csrRead t h a 8 1) s = .next s' ∧ Answered s' h Status.OK (leBytes 8 (regGet s a.toNat)) ∧
      ControlOnly s s') ∧
  (∀ (t : Ltc) (h : CmdHdr) (a : BitVec 32) (n : BitVec 16) (s : State), Suits h .platform → Waits s h →
    a.toNat % 8 = 0 → csrMapped s a.toNat = false → 1 ≤ n.toNat → n.toNat ≤ 512 →
    ∃ s', exec (.csrRead t h a 8 n) s = .next s' ∧ Answered s' h Status.CSR_UNMAPPED [] ∧ ControlOnly s s') ∧
  (∀ (t : Ltc) (h : CmdHdr) (a : BitVec 32) (v : Word) (b : RegBlock) (s : State), Suits h .platform → Waits s h →
    RegAt s b a.toNat → b ∉ actingRegs → cmdLate (adv t s) h = false →
    ∃ s', exec (.csrWrite t h a 8 [v]) s = .next s' ∧ Answered s' h Status.OK [] ∧
      (∀ i < 64, (regGet s' a.toNat).testBit i =
        if b.rw.testBit i then v.toNat.testBit i else (regGet s a.toNat).testBit i) ∧
      SameRegs [a.toNat] s s' ∧ SameMemory s s' ∧ SameEngines s s' ∧ SameFabric s s' ∧ SamePlatform s s' ∧ SameModes s s') ∧
  (∀ (t : Ltc) (h : CmdHdr) (a : BitVec 32) (m v : Word) (b : RegBlock) (s : State), Suits h .platform → Waits s h →
    RegAt s b a.toNat → b ∉ actingRegs → b ∉ shownRegs → cmdLate (adv t s) h = false →
    ∃ s', exec (.csrModify t h a 8 m v) s = .next s' ∧ Answered s' h Status.OK (leBytes 8 (regGet s a.toNat)) ∧
      (∀ i < 64, (regGet s' a.toNat).testBit i =
        if b.rw.testBit i && m.toNat.testBit i then v.toNat.testBit i else (regGet s a.toNat).testBit i) ∧
      SameRegs [a.toNat] s s' ∧ SameMemory s s' ∧ SameEngines s s' ∧ SameFabric s s' ∧ SamePlatform s s' ∧ SameModes s s') ∧
  (∀ (t : Ltc) (h : CmdHdr) (a : BitVec 32) (m v : Word) (n : BitVec 16) (b : RegBlock) (s : State),
    Suits h .platform → Waits s h → RegAt s b a.toNat → b ∉ shownRegs → n ≠ 0 →
    ∃ s', exec (.csrPoll t h a 8 m v n) s = .next s' ∧ ControlOnly s s' ∧
      (regGet s a.toNat % 2 ^ 64 &&& m.toNat = v.toNat &&& m.toNat →
        Answered s' h Status.OK (leBytes 8 (regGet s a.toNat))) ∧
      (regGet s a.toNat % 2 ^ 64 &&& m.toNat ≠ v.toNat &&& m.toNat → Running s' h)) ∧
  (∀ (t began : Ltc) (e : JEntry) (b : RegBlock) (s : State), entryBy s e.h.session e.h.seq = some e →
    e.st = .running began → e.h.opcode = 0x0103 → began.toNat + pollNs e ≤ now (adv t s) →
    RegAt s b (parAt (ownParams e.h e.params) 0 4) → b ∉ shownRegs → parAt (ownParams e.h e.params) 4 1 = 8 →
    pollHit (regGet s (parAt (ownParams e.h e.params) 0 4)) 8 (parAt (ownParams e.h e.params) 5 8)
      (parAt (ownParams e.h e.params) 13 8) = false →
    ∃ s', exec (.pollTimeout t e.h.session e.h.seq) s = .next s' ∧ ControlOnly s s' ∧
      Answered s' e.h Status.POLL_TIMEOUT (leBytes 8 (regGet s (parAt (ownParams e.h e.params) 0 4)))) ∧
  (∀ (t : Ltc) (a : BitVec 32) (v : Word) (b : RegBlock) (s : State), RegAt s b a.toNat → b ∉ actingRegs →
    ∃ s', exec (.registerWrite t a v) s = .next s' ∧
      (∀ i < 64, (regGet s' a.toNat).testBit i =
        if b.rw.testBit i then v.toNat.testBit i else (regGet s a.toNat).testBit i) ∧
      SameRegs [a.toNat] s s' ∧ s'.ctl = s.ctl ∧ SameMemory s s' ∧ SameEngines s s' ∧ SameFabric s s' ∧
      SamePlatform s s' ∧ SameModes s s')

/-- Heartbeats, forced loaders, takeover, Touchstone, switch-back (R355-R363, R366). -/
def Obligations.AnvilPairKeepsOneHolder : Prop :=
  (∀ (t : Ltc) (d : FDie) (s : State), s.anv.token = some d → (anvil s d).state = 4 →
    ∃ s', exec (.heartbeat t) s = .next s' ∧ s'.anv.lease = BitVec.ofNat 64 (now (adv t s) + 25000) ∧
      s'.anv.beats = s.anv.beats + 1 ∧ s'.anv.token = some d ∧ (anvil s' d).state = 4 ∧ s'.regs = s.regs ∧
      SameMemory s s' ∧ SameEngines s s' ∧ SameFabric s s' ∧ SameModes s s') ∧
  (∀ (t : Ltc) (d : FDie) (s : State), ((anvil s d).state = 3 ∨ (anvil s d).state = 4) →
    (anvil s d).lastBeat.toNat + 25000 ≤ now (adv t s) →
    ∃ s', exec (.heartbeatLoss t d) s = .next s' ∧ (anvil s' d).state = 1 ∧ (anvil s' d).lastFault = 1 ∧
      (anvil s' d.other).state = (anvil s d.other).state ∧ SameMemory s s' ∧ SameEngines s s' ∧ SameFabric s s') ∧
  (∀ (t : Ltc) (d : FDie) (s : State), (anvil s d).state = 4 → s.anv.token ≠ some d →
    ∃ s', exec (.fenced t d) s = .next s' ∧ (anvil s' d).state = 1 ∧ (anvil s' d).lastFault = 2 ∧
      (anvil s' d.other).state = (anvil s d.other).state ∧ SameMemory s s' ∧ SameEngines s s' ∧ SameFabric s s') ∧
  (∀ (t : Ltc) (d : FDie) (s : State), 2 ≤ (anvil s d).state.toNat →
    ∃ s', exec (.isram t d) s = .next s' ∧ (anvil s' d).state = 1 ∧ (anvil s' d).lastFault = 3 ∧
      (anvil s' d.other).state = (anvil s d.other).state ∧ SameMemory s s' ∧ SameEngines s s' ∧ SameFabric s s') ∧
  (∀ (t : Ltc) (d : FDie) (mailboxSeen : Bool) (s : State), standby s = some d → s.anv.token ≠ some d →
    (anvil s d).healthy = true → s.anv.lease.toNat ≤ now (adv t s) → s.anv.sideband.toNat + 25000 ≤ now (adv t s) →
    ∃ s', exec (.standbySample t mailboxSeen false) s = .next s' ∧ s'.anv.token = some d ∧ (anvil s' d).state = 4 ∧
      s'.anv.lease = BitVec.ofNat 64 (now (adv t s) + 25000) ∧
      rd s' Fld.ANV_SWITCH_SWITCHOVERS = min 0xFFFF (rd s Fld.ANV_SWITCH_SWITCHOVERS + 1) ∧
      (∀ e ∈ s.ctl.journal, e.running = true →
        ∃ e' ∈ s'.ctl.journal, e'.h = e.h ∧ e'.st = .queued ∧ e'.held = true ∧ e'.reexec = true) ∧
      SameMemory s s' ∧ SameEngines s s' ∧ SameFabric s s' ∧ SameModes s s') ∧
  (∀ (t : Ltc) (d : FDie) (s : State), (anvil s d).state = 3 →
    ∃ s', exec (.touchstonePass t d 0) s = .next s' ∧ (anvil s' d).healthy = true ∧ (anvil s' d).state = 3 ∧
      (anvil s' d).failed = 0 ∧ (anvil s' d).passes.toNat = min (2 ^ 32 - 1) ((anvil s d).passes.toNat + 1)) ∧
  (∀ (t : Ltc) (d : FDie) (s : State), (anvil s d).state = 2 → s.anv.token = none → (anvil s d).activating = none →
    ∃ s', exec (.touchstonePass t d 0) s = .next s' ∧ s'.anv.token = some d ∧ (anvil s' d).state = 4) ∧
  (∀ (t : Ltc) (e : JEntry) (r : List JEntry) (s : State), s.ctl.journal = e :: r → (loaderAnvil s).isSome = true →
    e.st = .queued → e.h.fence = false → (∀ x ∈ r, x.running = false ∧ x.h ≠ e.h) →
    executable (adv t s) e.h e.params = true → cmdLate (adv t s) e.h = false →
    ∃ s', exec (.loaderCommand t) s = .next s' ∧
      s'.ctl.journal = { e with st := .running (BitVec.ofNat 64 (now (adv t s))) } :: r ∧ ControlOnly s s') ∧
  (∀ (t : Ltc) (h : CmdHdr) (s : State), Suits h .platform → Waits s h →
    ∃ s', exec (.healthRead t h) s = .next s' ∧ ControlOnly s s' ∧
      Answered s' h Status.OK (healthEntry s.anv.a ++ healthEntry s.anv.b)) ∧
  (∀ (t : Ltc) (h : CmdHdr) (d : FDie) (s : State), Suits h .platform → Waits s h → s.anv.token = some d →
    (anvil s d.other).state = 3 → (anvil s d.other).healthy = true →
    ∃ s', exec (.anvilSwitchBack t h) s = .next s' ∧ Answered s' h Status.OK [] ∧ s'.anv.token = some d.other ∧
      (anvil s' d.other).state = 4 ∧ (anvil s' d).state = 3 ∧
      rd s' Fld.ANV_SWITCH_SWITCHBACKS = min 0xFFFF (rd s Fld.ANV_SWITCH_SWITCHBACKS + 1) ∧
      SameMemory s s' ∧ SameEngines s s' ∧ SameFabric s s' ∧ SameModes s s')

/-- FW_LOAD_BEGIN, FW_LOAD_CHUNK, FW_LOAD_END and FW_ACTIVATE (R365, R366). -/
def Obligations.FirmwareLoadAndActivate : Prop :=
  (∀ (t : Ltc) (h : CmdHdr) (len version : BitVec 32) (s : State), Suits h .platform → Waits s h → len.toNat % 4096 = 0 →
    len.toNat ≤ 2 ^ 23 → s.fuses.minVersion.toNat ≤ version.toNat → s.fuses.lc ≠ 4 →
    ∃ s', exec (.fwLoadBegin t h len version) s = .next s' ∧ Answered s' h Status.OK [] ∧
      s'.anv.staging = { opened := true, length := len, version := version } ∧ s'.anv.a = s.anv.a ∧ s'.anv.b = s.anv.b ∧
      s'.anv.token = s.anv.token ∧ SameMemory s s' ∧ SameEngines s s' ∧ SameFabric s s' ∧ SameModes s s') ∧
  (∀ (t : Ltc) (h : CmdHdr) (o : BitVec 32) (data : List Byte) (s : State), Suits h .platform → Waits s h →
    o.toNat % 8 = 0 → data.length % 8 = 0 → data.length ≤ 4096 → s.anv.staging.opened = true →
    o.toNat + data.length ≤ s.anv.staging.length.toNat →
    (∀ k ∈ s.anv.staging.bytes.keys, ¬(o.toNat ≤ k ∧ k < o.toNat + data.length)) →
    ∃ s', exec (.fwLoadChunk t h o data) s = .next s' ∧ Answered s' h Status.OK [] ∧
      (∀ i < data.length, s'.anv.staging.bytes.find (o.toNat + i) = data[i]?) ∧
      (∀ k, ¬(o.toNat ≤ k ∧ k < o.toNat + data.length) → s'.anv.staging.bytes.find k = s.anv.staging.bytes.find k) ∧
      s'.anv.a = s.anv.a ∧ s'.anv.b = s.anv.b ∧ s'.anv.token = s.anv.token ∧ SameMemory s s' ∧ SameEngines s s') ∧
  (∀ (t : Ltc) (h : CmdHdr) (ok : Bool) (s : State), Suits h .platform → Waits s h → s.anv.staging.opened = true →
    s.anv.staging.bytes.length = s.anv.staging.length.toNat →
    ∃ s' p, exec (.fwLoadEnd t h ok) s = .next s' ∧
      (imageOk s s.anv.staging ok = true →
        Answered s' h Status.OK p ∧ p.length = 64 ∧ s'.anv.staging = { s.anv.staging with verified := true }) ∧
      (imageOk s s.anv.staging ok = false → Answered s' h Status.FW_VERIFY_FAIL [] ∧ s'.anv.staging = {}) ∧
      s'.anv.a = s.anv.a ∧ s'.anv.b = s.anv.b ∧ SameMemory s s' ∧ SameEngines s s') ∧
  (∀ (t : Ltc) (h : CmdHdr) (w : Byte) (d : FDie) (s : State), Suits h .platform → Waits s h → w.toNat = d.num →
    s.anv.token ≠ some d → s.anv.staging.verified = true → s.anv.a.activating = none → s.anv.b.activating = none →
    (anvil s d).state ≠ 0 →
    ∃ s', exec (.fwActivate t h w) s = .next s' ∧ Running s' h ∧ (anvil s' d).state = 2 ∧
      (anvil s' d).fw = s.anv.staging.version ∧ (anvil s' d.other).state = (anvil s d.other).state ∧
      SameMemory s s' ∧ SameEngines s s' ∧ SameFabric s s' ∧ SameModes s s')

/-- TINNING, TINNING_DONE, TAMPER and LIFECYCLE_ADVANCE (R255, R256, R324, R348). -/
def Obligations.TinningTamperAndLifeCycle : Prop :=
  (∀ (t : Ltc) (cause : BitVec 2) (s : State),
    (rd s Fld.ECC_TIN_STATUS_STATE ≠ 1 ∨ rd s Fld.ECC_TIN_STATUS_LAST_CAUSE ≠ cause.toNat) →
    ∃ s', exec (.tinning t cause) s = .next s' ∧ TinningBegun cause.toNat s s' ∧ SameEngines s s' ∧ SameFabric s s' ∧
      SamePlatform s s' ∧ SameModes s s' ∧ s'.ctl = s.ctl ∧ s'.ecc = s.ecc ∧ SameRegs [Reg.ECC_TIN_STATUS.base] s s') ∧
  (∀ (t : Ltc) (s : State), rd s Fld.ECC_TIN_STATUS_STATE = 1 → s.sec.lcPending = none →
    ∃ s', exec (.tinningDone t true) s = .next s' ∧ rd s' Fld.ECC_TIN_STATUS_STATE = 2 ∧
      rd s' Fld.ECC_TIN_STATUS_PENDING = 0 ∧ SecureWiped s s' ∧ s'.mem.stack = s.mem.stack ∧ s'.mem.far = s.mem.far ∧
      s'.ecc = s.ecc ∧ SameEngines s s' ∧ SameFabric s s' ∧ SamePlatform s s' ∧ SameModes s s' ∧ s'.ctl = s.ctl ∧ SameRegs [Reg.ECC_TIN_STATUS.base] s s') ∧
  (∀ (t : Ltc) (s : State), rd s Fld.ECC_TIN_STATUS_STATE = 1 → s.sec.lcPending = none → s.ctl.events.length < 255 →
    ∃ s', exec (.tinningDone t false) s = .next s' ∧ rd s' Fld.ECC_TIN_STATUS_STATE = 3 ∧
      rd s' Fld.ECC_TIN_STATUS_PENDING = 0 ∧ s'.pins.replaceReqLow = true ∧
      EventHeld s' 3 0xFFF (replacePayload (adv t s) 4 s.ecc.exhausted.toNat) ∧ SameMemory s s' ∧ SameEngines s s' ∧
      SameFabric s s' ∧ SamePlatform s s') ∧
  (∀ (t : Ltc) (p : LcPending) (s : State), rd s Fld.ECC_TIN_STATUS_STATE = 1 → s.sec.lcPending = some p →
    p.begun = true → Waits s p.h →
    ∃ s', exec (.tinningDone t true) s = .next s' ∧ rd s' Fld.ECC_TIN_STATUS_STATE = 2 ∧
      rd s' Fld.ECC_TIN_STATUS_PENDING = 0 ∧ s'.fuses.lc = p.target ∧ s'.fuses.uid = s.fuses.uid ∧
      s'.ctl.sessions = [] ∧ s'.sec.lcPending = none ∧ Answered s' p.h Status.OK [] ∧ SecureWiped s s' ∧
      s'.mem.stack = s.mem.stack ∧ s'.mem.far = s.mem.far ∧ s'.ecc = s.ecc ∧ SameEngines s s') ∧
  (∀ (t : Ltc) (source : BitVec 3) (s : State), EventRoom s →
    ∃ s', exec (.tamper t source) s = .next s' ∧ TinningBegun 1 s s' ∧ s'.sec.tampered = true ∧
      (s.sec.tampered = false → s'.sec.source = source) ∧ s'.ctl.sessions = [] ∧
      (∀ e ∈ s'.sec.tenants, e.2.keyLost = true) ∧ (∀ e ∈ s'.sec.jobs, e.2.lost = true) ∧
      s'.sec.tenants.keys = s.sec.tenants.keys ∧ s'.sec.jobs.keys = s.sec.jobs.keys ∧ s'.pins.tamperLow = true ∧
      EventHeld s' 4 0xFFF (packBits [(3, source.toNat), (61, 0), (64, s.fuses.uid.toNat)]) ∧
      (∃ e, Out.tamperEvent e ∈ s'.out ∧ e.payload = packBits [(3, source.toNat), (61, 0), (64, s.fuses.uid.toNat)]) ∧
      s'.fuses = s.fuses ∧ s'.anv = s.anv ∧ s'.pwr = s.pwr ∧ SameEngines s s' ∧ SameFabric s s' ∧ SameModes s s' ∧
      SameRegs [Reg.ECC_TIN_STATUS.base] s s') ∧
  (∀ (t : Ltc) (h : CmdHdr) (target : Byte) (signer key : BitVec 14344) (ct : BitVec 12544) (s : State),
    Suits h .platform → Waits s h → target.toNat ≤ 4 → lcAllowed s.fuses.lc.toNat target.toNat = true →
    signerOk s signer = true → s.sec.tenants = [] → s.sec.jobs = [] →
    ∃ s' p, exec (.lifecycleAdvance t h target signer true key ct) s = .next s' ∧ s'.sec.lcPending = some p ∧ p.h = h ∧
      p.target.toNat = target.toNat ∧ Running s' h ∧ s'.fuses = s.fuses ∧ s'.ctl.sessions = s.ctl.sessions ∧
      (rd s Fld.ECC_TIN_STATUS_STATE ≠ 1 → p.begun = true ∧ TinningBegun 2 s s') ∧
      (rd s Fld.ECC_TIN_STATUS_STATE = 1 → p.begun = false ∧ SameMemory s s') ∧ SameEngines s s' ∧ SameFabric s s') ∧
  (∀ (t : Ltc) (h : CmdHdr) (target : Byte) (signer : BitVec 14344) (sigOk : Bool) (key : BitVec 14344) (ct : BitVec 12544)
    (s : State), Suits h .platform → Waits s h → target.toNat ≤ 4 → (lcAllowed s.fuses.lc.toNat target.toNat = false ∨
      sigOk = false ∨ signerOk s signer = false) →
    ∃ s', exec (.lifecycleAdvance t h target signer sigOk key ct) s = .next s' ∧ Answered s' h Status.NOT_PERMITTED [] ∧
      ControlOnly s s')

/-- TENANT_CREATE, JOBKEY_ESTABLISH, JOBKEY_RETIRE, HALLMARK_READ, ASSAY_REQUEST, DEBUG_OPEN, DEBUG_CLOSE, DEBUG_READ,
SCAN_ENABLE and SCAN_EXPIRY (R326, R327, R331, R340, R344, R345, R347). -/
def Obligations.TenantsKeysAndConsent : Prop :=
  (∀ (t : Ltc) (h : CmdHdr) (e : BitVec 512) (s : State), Suits h .tenant → Waits s h → tenantRsvOk e.toNat = true →
    bitsOf e.toNat 0 10 = h.tenant.toNat → (s.fuses.lc = 1 ∨ s.fuses.lc = 2) → rd s Fld.ECC_TIN_STATUS_STATE ≠ 1 →
    s.sec.tenants.find h.tenant.toNat = none →
    ∃ s' x, exec (.tenantCreate t h e) s = .next s' ∧ Answered s' h Status.OK [] ∧
      s'.sec.tenants.find h.tenant.toNat = some x ∧ x.entry = e ∧ x.key = s.draws + 1 ∧ x.keyLost = false ∧ x.sweep = none ∧
      s'.draws = s.draws + 1 ∧ (∀ u, u ≠ h.tenant.toNat → s'.sec.tenants.find u = s.sec.tenants.find u) ∧
      s'.sec.jobs = s.sec.jobs ∧ SameMemory s s' ∧ SameEngines s s' ∧ SameFabric s s' ∧ SameModes s s' ∧
      SameRegs faultRegs s s') ∧
  (∀ (t : Ltc) (h : CmdHdr) (slot : BitVec 16) (b : BitVec 512) (ct : BitVec 12544) (s : State), Suits h .tenant →
    Waits s h → slot.toNat < 8192 → bindRsvOk b.toNat = true → bindTenant b.toNat = h.tenant.toNat →
    s.sec.tenants.find (bindTenant b.toNat) ≠ none →
    s.sec.jobs.find slot.toNat = none → (consentSlots s).length < 512 → rd s Fld.ECC_TIN_STATUS_STATE ≠ 1 →
    ∃ s', exec (.jobkeyEstablish t h slot b ct true) s = .next s' ∧ Answered s' h Status.OK [] ∧
      s'.sec.jobs.find slot.toNat = some { binding := b } ∧
      (∀ k, k ≠ slot.toNat → s'.sec.jobs.find k = s.sec.jobs.find k) ∧ s'.sec.tenants = s.sec.tenants ∧
      (∀ k, k % 16384 = 8192 + slot.toNat → s'.fab.nextNum.find k = none) ∧
      (∀ k, k % 16384 ≠ 8192 + slot.toNat → s'.fab.nextNum.find k = s.fab.nextNum.find k) ∧
      { s'.fab with nextNum := s.fab.nextNum, atoms := s.fab.atoms } = s.fab ∧ s'.link = s.link ∧ s'.tc = s.tc ∧
      SameMemory s s' ∧ SameEngines s s' ∧ SameModes s s' ∧ SameRegs faultRegs s s') ∧
  (∀ (t : Ltc) (h : CmdHdr) (slot : BitVec 16) (j : JobKey) (s : State), Suits h .either → Waits s h →
    s.sec.jobs.find slot.toNat = some j → ownedBy h (bindTenant j.binding.toNat) = true →
    ∃ s', exec (.jobkeyRetire t h slot) s = .next s' ∧ Answered s' h Status.OK [] ∧ s'.sec.jobs.find slot.toNat = none ∧
      (∀ k, k ≠ slot.toNat → s'.sec.jobs.find k = s.sec.jobs.find k) ∧ s'.sec.tenants = s.sec.tenants ∧ SameMemory s s' ∧
      SameEngines s s' ∧ SameFabric s s' ∧ SameRegs faultRegs s s') ∧
  (∀ (t : Ltc) (h : CmdHdr) (s : State), Suits h .platform → Waits s h →
    ∃ s' p, exec (.hallmarkRead t h) s = .next s' ∧ Answered s' h Status.OK p ∧ p.length = 4696 ∧
      p.take 12 = leBytes 4 1 ++ leBytes 8 s.fuses.uid.toNat ∧ ControlOnly s s') ∧
  (∀ (t : Ltc) (h : CmdHdr) (nonce : BitVec 256) (s : State), Suits h .platform → Waits s h →
    ∃ s' sig, exec (.assayRequest t h nonce) s = .next s' ∧
      Answered s' h Status.OK (assayBody (adv t s) nonce.toNat ++ sig) ∧ sig.length = 1280 ∧
      ((assayBody (adv t s) nonce.toNat).drop 8).take 40 = leBytes 32 nonce.toNat ++ leBytes 8 s.fuses.uid.toNat ∧
      ControlOnly s s') ∧
  (∀ (t : Ltc) (h : CmdHdr) (slot scope : BitVec 16) (j : JobKey) (s : State), Suits h .platform → Waits s h →
    scope.toNat < 8 → slot.toNat < 8192 → s.sec.jobs.find slot.toNat = some j → j.lost = false → j.dbg = none →
    scopeCovered (bindConsent j.binding.toNat) scope.toNat = true →
    ∃ s' hd, exec (.debugOpen t h slot scope) s = .next s' ∧ Answered s' h Status.OK (leBytes 4 hd.handle.toNat) ∧
      s'.sec.jobs.find slot.toNat = some { j with dbg := some hd } ∧ hd.scope = scope ∧
      bitsOf hd.handle.toNat 0 13 = slot.toNat ∧ (∀ k, k ≠ slot.toNat → s'.sec.jobs.find k = s.sec.jobs.find k) ∧
      SameMemory s s' ∧ SameEngines s s' ∧ SameFabric s s' ∧ SameModes s s') ∧
  (∀ (t : Ltc) (h : CmdHdr) (slot scope : BitVec 16) (s : State), Suits h .platform → Waits s h → scope.toNat < 8 →
    (∀ j, s.sec.jobs.find slot.toNat = some j →
      j.lost = true ∨ scopeCovered (bindConsent j.binding.toNat) scope.toNat = false) →
    ∃ s', exec (.debugOpen t h slot scope) s = .next s' ∧ Answered s' h Status.CONSENT_REQUIRED [] ∧ ControlOnly s s') ∧
  (∀ (t : Ltc) (h : CmdHdr) (handle : BitVec 32) (j : JobKey) (s : State), Suits h .platform → Waits s h →
    debugSlot s handle = some j →
    ∃ s', exec (.debugClose t h handle) s = .next s' ∧ Answered s' h Status.OK [] ∧ debugSlot s' handle = none ∧
      (∀ k, k ≠ bitsOf handle.toNat 0 13 → s'.sec.jobs.find k = s.sec.jobs.find k) ∧ SameMemory s s' ∧ SameEngines s s' ∧
      SameFabric s s') ∧
  (∀ (t : Ltc) (h : CmdHdr) (handle : BitVec 32) (addr : Word) (j : JobKey) (d : DebugHandle) (s : State),
    Suits h .platform → Waits s h → debugSlot s handle = some j → j.lost = false → j.dbg = some d →
    bitAt d.scope.toNat 0 = true → addr.toNat ≤ 2 ^ 57 →
    ∃ s', exec (.debugRead t h handle addr 0) s = .next s' ∧ Answered s' h Status.OK [] ∧ ControlOnly s s') ∧
  (∀ (t : Ltc) (h : CmdHdr) (slot : BitVec 16) (us' : BitVec 32) (s : State), Suits h .platform → Waits s h →
    scanConsented s slot.toNat = true →
    ∃ s', exec (.scanEnable t h slot us') s = .next s' ∧ Answered s' h Status.OK [] ∧
      s'.sec.scan = some ⟨slot, after (adv t s) (us us'.toNat)⟩ ∧ s'.sec.jobs = s.sec.jobs ∧ SameMemory s s' ∧
      SameEngines s s' ∧ SameFabric s s' ∧ SameModes s s' ∧ SameRegs faultRegs s s') ∧
  (∀ (t : Ltc) (x : Scan) (s : State), s.sec.scan = some x → x.ends.toNat ≤ now (adv t s) →
    ∃ s', exec (.scanExpiry t) s = .next s' ∧ s' = { adv t s with sec := { s.sec with scan := none } })

/-- INGOT_ADD, INGOT_QUERY, INGOT_RELEASE, INTERLEAVE_SET, PAGE_INVALIDATE and EPOCH_WAIT_DONE (R68, R101, R102, R105, R122). -/
def Obligations.IngotsAndInvalidation : Prop :=
  (∀ (t : Ltc) (h : CmdHdr) (e : BitVec 128) (s : State), Suits h .either → Waits s h → ingotRsvOk e.toNat = true →
    ((bitsOf e.toNat 26 2 = 2 ∧ h.tenant = 0xFFF ∧ bitsOf e.toNat 16 10 = 0) ∨
      (bitsOf e.toNat 26 2 ≠ 2 ∧ h.tenant.toNat = bitsOf e.toNat 16 10)) →
    1 ≤ bitsOf e.toNat 48 10 → bitsOf e.toNat 32 10 + bitsOf e.toNat 48 10 ≤ granules s →
    s.mem.ingots.find (bitsOf e.toNat 0 16) = none → s.mem.ingots.length < 1024 →
    (∀ i, i < bitsOf e.toNat 48 10 → granuleTaken s (bitsOf e.toNat 32 10 + i) = false) →
    ∃ s' g, exec (.ingotAdd t h e) s = .next s' ∧ Answered s' h Status.OK [] ∧
      s'.mem.ingots.find (bitsOf e.toNat 0 16) = some g ∧ g.tenant.toNat = bitsOf e.toNat 16 10 ∧
      g.kind.toNat = bitsOf e.toNat 26 2 ∧ g.base.toNat = bitsOf e.toNat 32 10 ∧ g.count.toNat = bitsOf e.toNat 48 10 ∧
      g.releasing = none ∧ (∀ n, n ≠ bitsOf e.toNat 0 16 → s'.mem.ingots.find n = s.mem.ingots.find n) ∧
      s'.mem.far = s.mem.far ∧ s'.mem.sram = s.mem.sram ∧
      (∀ a, (a / gib < bitsOf e.toNat 32 10 ∨ bitsOf e.toNat 32 10 + bitsOf e.toNat 48 10 ≤ a / gib) →
        s'.mem.stack.byte a = s.mem.stack.byte a) ∧
      SameEngines s s' ∧ SameFabric s s' ∧ SameModes s s' ∧ SameRegs faultRegs s s') ∧
  (∀ (t : Ltc) (h : CmdHdr) (n : BitVec 16) (i : Ingot) (s : State), Suits h .either → Waits s h →
    namedIngot s h n.toNat = some i →
    ∃ s', exec (.ingotQuery t h n) s = .next s' ∧ Answered s' h Status.OK (leBytes 16 (ingotEntry n.toNat i)) ∧
      ControlOnly s s') ∧
  (∀ (t : Ltc) (h : CmdHdr) (n : BitVec 16) (i : Ingot) (s : State), Suits h .either → Waits s h →
    namedIngot s h n.toNat = some i → i.releasing = none →
    ∃ s', exec (.ingotRelease t h n) s = .next s' ∧ Running s' h ∧
      s'.mem.ingots.find n.toNat = some { i with releasing := some h } ∧
      (∀ k, k ≠ n.toNat → s'.mem.ingots.find k = s.mem.ingots.find k) ∧
      (∀ e ∈ s'.xlt.l1 ++ s'.xlt.l2, ∀ x ∈ e.2,
        x.outside (i.base.toNat * gib) ((i.base.toNat + i.count.toNat) * gib) = true) ∧
      s'.mem.stack = s.mem.stack ∧ s'.mem.far = s.mem.far ∧ s'.mem.sram = s.mem.sram ∧ s'.coh = s.coh ∧ s'.eng = s.eng ∧
      SameFabric s s' ∧ SamePlatform s s' ∧ SameModes s s' ∧ s'.regs = s.regs) ∧
  (∀ (t : Ltc) (n : BitVec 16) (i : Ingot) (h : CmdHdr) (s : State), s.mem.ingots.find n.toNat = some i →
    i.releasing = some h → epochOver s (s.xlt.releaseAt.get {} n.toNat) = true → ingotQuiet s i = true → Waits s h →
    ∃ s', exec (.epochWaitDone t (.release n)) s = .next s' ∧ Answered s' h Status.OK [] ∧
      s'.mem.ingots = s.mem.ingots.del n.toNat ∧
      (∀ a, i.base.toNat * gib ≤ a → a < (i.base.toNat + i.count.toNat) * gib → s'.mem.stack.byte a = 0) ∧
      s'.mem.far = s.mem.far ∧ s'.eng.rings = s.eng.rings ∧ s'.eng.runq = s.eng.runq ∧ SameFabric s s') ∧
  (∀ (t : Ltc) (h : CmdHdr) (g : Byte) (s : State), Suits h .platform → Waits s h → 1 ≤ g.toNat → g.toNat ≤ 4 →
    s.mem.ingots = [] →
    ∃ s', exec (.interleaveSet t h g) s = .next s' ∧ Answered s' h Status.OK [] ∧ grain s' = g.toNat ∧ s'.coh.dir = [] ∧
      SameMemory s s' ∧ s'.xlt = s.xlt ∧ s'.eng = s.eng ∧ SameFabric s s' ∧ SamePlatform s s' ∧ SameModes s s' ∧
      SameRegs (Reg.MEM_CONFIG.base :: faultRegs) s s') ∧
  (∀ (t : Ltc) (h : CmdHdr) (va : Word) (pages : BitVec 32) (s : State), Suits h .tenant → Waits s h →
    s.sec.tenants.find h.tenant.toNat ≠ none →
    ∃ s', exec (.pageInvalidate t h va pages) s = .next s' ∧ Running s' h ∧
      (∀ e ∈ s'.xlt.l1 ++ s'.xlt.l2, ∀ x ∈ e.2, x.tenant.toNat = h.tenant.toNat →
        alignDown va.toNat mib2 + pages.toNat * mib2 ≤ x.base ∨ x.base + 2 ^ x.size ≤ alignDown va.toNat mib2) ∧
      (∀ e ∈ s'.xlt.wc, ∀ x ∈ e.2, x.tenant.toNat ≠ h.tenant.toNat) ∧
      (∃ v ∈ s'.xlt.invals, v.h = h ∧ v.tenant.toNat = h.tenant.toNat ∧ v.epoch.began = after (adv t s) 0) ∧
      SameMemory s s' ∧ s'.coh = s.coh ∧ SameFabric s s' ∧ SamePlatform s s' ∧ SameModes s s' ∧ s'.regs = s.regs) ∧
  (∀ (t : Ltc) (te : BitVec 10) (v : Inval) (s : State), s.xlt.invals.find? (·.tenant = te) = some v →
    epochOver s v.epoch = true → Waits s v.h →
    ∃ s', exec (.epochWaitDone t (.invalidate te)) s = .next s' ∧ Answered s' v.h Status.OK [] ∧
      s'.xlt.invals = s.xlt.invals.erase v ∧
      rd s' Fld.XLT_INV_STATUS_LAST_INV_US = min 0xFFFF ((now (adv t s) - v.epoch.began.toNat) / 1000) ∧ SameMemory s s' ∧
      s'.coh = s.coh ∧ s'.eng = s.eng ∧ SameFabric s s' ∧ SamePlatform s s' ∧ SameModes s s' ∧
      SameRegs (Reg.XLT_INV_STATUS.base :: faultRegs) s s') ∧
  (∀ (t : Ltc) (te : BitVec 10) (v : Inval) (s : State), s.xlt.invals.find? (·.tenant = te) = some v →
    epochOver s v.epoch = false → exec (.epochWaitDone t (.invalidate te)) s = .next (adv t s))

/-- XLT_ROOT_WRITE, XLT_PTW_DATA_WRITE, XLT_FQ_CONSUME, FAULT_RETRY, FAULT_ABORT, WALK_START and WALK_COMPLETE (R107-R122). -/
def Obligations.TranslationAndFaults : Prop :=
  (∀ (t : Ltc) (te : BitVec 10) (v : Word) (s : State),
    ∃ s', exec (.xltRootWrite t te v) s = .next s' ∧ rd s' (Fld.XLT_ROOT_VALID te.toNat) = bitsOf v.toNat 0 1 ∧
      rd s' (Fld.XLT_ROOT_ROOT te.toNat) = bitsOf v.toNat 12 28 ∧ (∀ e ∈ s'.xlt.wc, ∀ x ∈ e.2, x.tenant ≠ te) ∧
      s'.xlt.l1 = s.xlt.l1 ∧ s'.xlt.l2 = s.xlt.l2 ∧ s'.xlt.fq = s.xlt.fq ∧ SameMemory s s' ∧ s'.coh = s.coh ∧
      s'.eng = s.eng ∧ SameFabric s s' ∧ SamePlatform s s' ∧ SameModes s s' ∧ s'.ctl = s.ctl ∧
      SameRegs [Reg.XLT_ROOT.base + 8 * te.toNat] s s') ∧
  (∀ (t : Ltc) (i : BitVec 9) (v : Word) (s : State), inPlatform s (ptwAddr s i.toNat) = false →
    ∃ s', exec (.xltPtwDataWrite t i v) s = .next s' ∧
      rd s' Fld.XLT_STATUS_PTW_REFUSED = min 0xFFFF (rd s Fld.XLT_STATUS_PTW_REFUSED + 1) ∧ SameMemory s s' ∧
      SameEngines s s' ∧ SameFabric s s' ∧ SamePlatform s s' ∧ SameModes s s' ∧ s'.ctl = s.ctl ∧
      SameRegs [Reg.XLT_STATUS.base] s s') ∧
  (∀ (t : Ltc) (i : BitVec 9) (v : Word) (s : State), inPlatform s (ptwAddr s i.toNat) = true →
    (∃ m ∈ s.mem.moves, m.pte = ptwAddr s i.toNat) →
    ∃ s', exec (.xltPtwDataWrite t i v) s = .next s' ∧ s'.mem.heldPtw = s.mem.heldPtw ++ [{ la := ptwAddr s i.toNat, val := v }] ∧
      s'.mem.stack = s.mem.stack ∧ SameEngines s s' ∧ s'.regs = s.regs) ∧
  (∀ (t : Ltc) (i : BitVec 9) (v : Word) (g : Ingot) (s : State), inPlatform s (ptwAddr s i.toNat) = true →
    (∀ m ∈ s.mem.moves, m.pte ≠ ptwAddr s i.toNat) → ingotAt s (ptwAddr s i.toNat / gib) = some g → g.kind = 2 →
    s.sec.tampered = false → s.coh.dir.find (ptwAddr s i.toNat / 64) = none → NoGrants s (ptwAddr s i.toNat / 64) →
    ∃ s', exec (.xltPtwDataWrite t i v) s = .next s' ∧ s'.mem.stack.num (ptwAddr s i.toNat) 8 = v.toNat ∧
      (∀ a, a / 64 ≠ ptwAddr s i.toNat / 64 → s'.mem.stack.byte a = s.mem.stack.byte a) ∧ s'.mem.far = s.mem.far ∧
      s'.mem.sram = s.mem.sram ∧ s'.xlt = s.xlt ∧ s'.eng = s.eng ∧ SameFabric s s') ∧
  (∀ (t : Ltc) (die : BitVec 1) (n : BitVec 13) (s : State), die.toNat < dies s → (fqOf s die.toNat).waiting = [] →
    ∃ s', exec (.xltFqConsume t die n) s = .next s' ∧
      (fqOf s' die.toNat).head = (fqOf s die.toNat).head + BitVec.ofNat 12 (min n.toNat (fqOf s die.toNat).count) ∧
      (fqOf s' die.toNat).count = (fqOf s die.toNat).count - min n.toNat (fqOf s die.toNat).count ∧
      (fqOf s' die.toNat).slots = (fqOf s die.toNat).slots ∧ (fqOf s' die.toNat).tail = (fqOf s die.toNat).tail ∧
      s'.eng = s.eng ∧ SameMemory s s' ∧ SameFabric s s' ∧ SamePlatform s s' ∧ SameModes s s' ∧ s'.ctl = s.ctl ∧
      s'.regs = s.regs) ∧
  (∀ (t : Ltc) (eng : BitVec 16) (task : BitVec 5) (fseq : BitVec 32) (key : Nat) (x : Task) (s : State),
    parkedWith s eng task fseq = some (key, x) →
    ∃ s', exec (.faultRetry t eng task fseq) s = .next s' ∧ taskOf s' key = some { x with st := .ready } ∧
      key ∉ (fqOf s' (keyDie key)).waiting ∧ (∀ k, k ≠ key → taskOf s' k = taskOf s k) ∧ SameMemory s s' ∧
      s'.coh = s.coh ∧ SameFabric s s' ∧ SamePlatform s s' ∧ SameModes s s' ∧ s'.ctl = s.ctl ∧ s'.regs = s.regs) ∧
  (∀ (t : Ltc) (eng : BitVec 16) (task : BitVec 5) (fseq : BitVec 32) (key : Nat) (x : Task) (s : State),
    parkedWith s eng task fseq = some (key, x) → x.chunk = none →
    ∃ s', exec (.faultAbort t eng task fseq) s = .next s' ∧
      taskOf s' key = some { x with st := .done 0x20 (BitVec.ofNat 64 x.figure) } ∧
      key ∉ (fqOf s' (keyDie key)).waiting ∧ (∀ k, k ≠ key → taskOf s' k = taskOf s k) ∧ SameMemory s s' ∧
      s'.coh = s.coh ∧ SameFabric s s' ∧ SamePlatform s s' ∧ SameModes s s' ∧ s'.ctl = s.ctl ∧ s'.regs = s.regs) ∧
  (∀ (t : Ltc) (eng : BitVec 16) (task : BitVec 5) (fseq : BitVec 32) (s : State), parkedWith s eng task fseq = none →
    ∃ s', exec (.faultRetry t eng task fseq) s = .next s' ∧ exec (.faultAbort t eng task fseq) s = .next s' ∧
      rd s' Fld.XLT_STATUS_RESOLVE_STALE = min 0xFFFF (rd s Fld.XLT_STATUS_RESOLVE_STALE + 1) ∧ SameMemory s s' ∧
      SameEngines s s' ∧ s'.ctl = s.ctl ∧ SameRegs [Reg.XLT_STATUS.base] s s') ∧
  (∀ (t : Ltc) (eng : Eng) (task : BitVec 5) (va : Word) (write : Bool) (x : Task) (s : State),
    taskOf s (taskKey eng.toNat task.toNat) = some x → x.st = .ready →
    (tlbLookup eng.toNat eng.cl x.q.tenant.toNat va.toNat (adv t s)).1 = none →
    ∃ s', exec (.walkStart t eng task va write) s = .next s' ∧
      taskOf s' (taskKey eng.toNat task.toNat) = some { x with st := .walking va.toNat write } ∧
      ((∃ e ∈ s'.xlt.walkers, ⟨taskKey eng.toNat task.toNat, va.toNat, write⟩ ∈ e.2.waiters) ∨
        ⟨taskKey eng.toNat task.toNat, va.toNat, write⟩ ∈ s'.xlt.walkq.get [] eng.die) ∧
      (∀ k, k ≠ taskKey eng.toNat task.toNat → taskOf s' k = taskOf s k) ∧ s'.xlt.l1 = s.xlt.l1 ∧ s'.xlt.l2 = s.xlt.l2 ∧
      s'.xlt.wc = s.xlt.wc ∧ s'.xlt.fq = s.xlt.fq ∧ SameMemory s s' ∧ s'.coh = s.coh ∧ s'.ctl = s.ctl ∧ s'.regs = s.regs) ∧
  (∀ (t : Ltc) (eng : Eng) (task : BitVec 5) (k : Nat) (w : Walk) (y : WalkWait) (rest : List WalkWait) (s s1 : State),
    s.xlt.walkers.find? (fun e => e.2.waiters.any fun w => w.key = taskKey eng.toNat task.toNat) = some (k, w) →
    w.waiters = y :: rest → y.va < 2 ^ 57 → s1 = countEv (8 * (k / 64) + k % 64 / 8) 0x022 w.tenant.toNat 1 (adv t s) →
    w.discarded y.va (walk w.tenant.toNat (k / 64) y.va w.start (!w.stale) s1).1 = true →
    ∃ s' w', exec (.walkComplete t eng task) s = .next s' ∧ s'.xlt.walkers.find k = some w' ∧ w'.waiters = w.waiters ∧
      w'.marks = [] ∧ w'.stale = false ∧
      rd s' Fld.XLT_INV_STATUS_WALK_RESTARTS = min 0xFFFF (rd s Fld.XLT_INV_STATUS_WALK_RESTARTS + 1) ∧
      (∀ a, s'.mem.stack.byte a = s.mem.stack.byte a) ∧ s'.mem.far = s.mem.far ∧ s'.eng = s.eng ∧ s'.coh = s.coh ∧
      SameFabric s s' ∧ SamePlatform s s') ∧
  (∀ (t : Ltc) (eng : Eng) (task : BitVec 5) (k va : Nat) (w : Walk) (write : Bool) (x : Task) (s s1 : State) (p : Pte)
      (raw a : Nat),
    s.xlt.walkers.find? (fun e => e.2.waiters.any fun w => w.key = taskKey eng.toNat task.toNat) = some (k, w) →
    w.waiters = [⟨taskKey eng.toNat task.toNat, va, write⟩] → w.marks = [] → w.tenant = x.q.tenant →
    taskOf s (taskKey eng.toNat task.toNat) = some x → x.st = .walking va write → va < 2 ^ 57 →
    s1 = countEv (8 * (k / 64) + k % 64 / 8) 0x022 w.tenant.toNat 1 (adv t s) →
    (walk w.tenant.toNat (k / 64) va w.start (!w.stale) s1).1 = .leaf p raw a 21 → p.tier = 0 → (write = true → p.w = true) →
    demoting s x.q.tenant.toNat (va / mib2) = false → accessAllowed s x.q.tenant.toNat p.addr write = true →
    ∃ s', exec (.walkComplete t eng task) s = .next s' ∧
      taskOf s' (taskKey eng.toNat task.toNat) = some { x with st := .ready } ∧
      (s'.xlt.l1.get [] eng.toNat).any (TlbEntry.hits x.q.tenant.toNat va) = true ∧
      (∀ j, j ≠ taskKey eng.toNat task.toNat → taskOf s' j = taskOf s j) ∧ s'.coh = s.coh) ∧
  (∀ (t : Ltc) (eng : Eng) (task : BitVec 5) (k va : Nat) (w : Walk) (write : Bool) (x : Task) (s : State),
    s.xlt.walkers.find? (fun e => e.2.waiters.any fun w => w.key = taskKey eng.toNat task.toNat) = some (k, w) →
    w.waiters = [⟨taskKey eng.toNat task.toNat, va, write⟩] → w.marks = [] → w.start = none →
    taskOf s (taskKey eng.toNat task.toNat) = some x → x.st = .walking va write → va < 2 ^ 57 →
    ∃ s' e full, exec (.walkComplete t eng task) s = .next s' ∧
      taskOf s' (taskKey eng.toNat task.toNat) = some { x with st := .fault e full, faults := x.faults + 1, issued := false } ∧
      bitsOf e.toNat 0 57 = va ∧ bitsOf e.toNat 80 3 = 6 ∧ bitsOf e.toNat 83 1 = b2n write ∧ s'.mem.stack = s.mem.stack ∧
      s'.mem.far = s.mem.far ∧ (∀ l, s'.mem.sram.byte l = s.mem.sram.byte l) ∧ s'.coh = s.coh)

/-- MEM_LAND_PUSH, MEM_SECTOR_REGION_WRITE, PROMOTION, PROMOTION_DONE, EPOCH_WAIT_DONE of a demotion, DEMOTION_DONE and
TIER_MOVE (R81, R88-R93, R98). -/
def Obligations.TierMoves : Prop :=
  (∀ (t : Ltc) (f : BitVec 19) (s : State),
    ∃ s', exec (.memLandPush t f) s = .next s' ∧
      (landDropped s f.toNat = true → s'.mem = s.mem ∧
        rd s' Fld.MEM_TIER_STATUS_LAND_DROPPED =
          min (2 ^ Fld.MEM_TIER_STATUS_LAND_DROPPED.w - 1) (rd s Fld.MEM_TIER_STATUS_LAND_DROPPED + 1)) ∧
      (landDropped s f.toNat = false → s'.mem.landing = s.mem.landing ++ [f] ∧ s'.regs = s.regs) ∧
      s'.mem.stack = s.mem.stack ∧ s'.mem.far = s.mem.far ∧ s'.ecc = s.ecc ∧ SameEngines s s' ∧ SameFabric s s' ∧
      SamePlatform s s' ∧ SameModes s s' ∧ s'.ctl = s.ctl ∧ SameRegs [Reg.MEM_TIER_STATUS.base] s s') ∧
  (∀ (t : Ltc) (n : BitVec 3) (v : Word) (s : State), bitsOf v.toNat 0 1 = 0 → regionHolds s n.toNat = true →
    exec (.memSectorRegionWrite t n v) s = .next (adv t s)) ∧
  (∀ (t : Ltc) (n : BitVec 3) (v : Word) (s : State), (bitsOf v.toNat 0 1 = 1 ∨ regionHolds s n.toNat = false) →
    ∃ s', exec (.memSectorRegionWrite t n v) s = .next s' ∧
      rd s' (Fld.MEM_SECTOR_REGION_VALID n.toNat) = bitsOf v.toNat 0 1 ∧ regionTier s' n.toNat = bitsOf v.toNat 1 1 ∧
      regionBase s' n.toNat = bitsOf v.toNat 16 16 ∧ regionSize s' n.toNat = bitsOf v.toNat 32 16 ∧
      rd s' (Fld.MEM_SECTOR_REGION_CONFLICT n.toNat) = b2n (bitsOf v.toNat 0 1 = 1 &&
        regionConflict s n.toNat (bitsOf v.toNat 1 1) (bitsOf v.toNat 16 16) (bitsOf v.toNat 32 16)) ∧
      (bitsOf v.toNat 1 1 = 0 → s'.mem.far = s.mem.far) ∧ (bitsOf v.toNat 1 1 = 1 → s'.mem.stack = s.mem.stack) ∧
      SameEngines s s' ∧ SameFabric s s' ∧ SamePlatform s s' ∧ SameModes s s' ∧ s'.ctl = s.ctl ∧
      SameRegs [Reg.MEM_SECTOR_REGION.base + 8 * n.toNat] s s') ∧
  (∀ (t : Ltc) (te : BitVec 10) (va : Word) (f : BitVec 19) (r : List (BitVec 19)) (p : Pte) (raw a size : Nat) (s : State),
    (te, va.toNat / mib2) ∈ s.mem.waitPromote → rdb s Fld.MEM_TIER_CTRL_ENABLE = true → s.mem.landing = f :: r →
    s.mem.moves.length < 64 → moveOf s te.toNat (va.toNat / mib2) = none →
    (walkPlain te.toNat (va.toNat / mib2 * mib2) (adv t s)).1 = .leaf p raw a size → 1 ≤ p.tier → p.tier ≤ 3 →
    ∃ s' m, exec (.promotion t te va) s = .next s' ∧ s'.mem.landing = r ∧ s'.mem.moves = s.mem.moves ++ [m] ∧
      m.tenant = te ∧ m.page = va.toNat / mib2 ∧ m.pte = a ∧ m.old = raw ∧ m.kind = .promote f.toNat ∧
      (te, va.toNat / mib2) ∉ s'.mem.waitPromote ∧ s'.mem.far = s.mem.far ∧ s'.eng = s.eng ∧ SameFabric s s') ∧
  (∀ (t : Ltc) (te : BitVec 10) (va : Word) (f : Nat) (m : PageMove) (s : State),
    moveOf s te.toNat (va.toNat / mib2) = some m → m.kind = .promote f → s.mem.tierCmds = [] →
    (∀ e ∈ s.coh.pend, e.2.grant = none) →
    ∃ s', exec (.promotionDone t te va) s = .next s' ∧ s'.mem.promoted.find f = some te ∧
      s'.mem.moves = s.mem.moves.erase m ∧
      (∀ k x, taskOf s k = some x → x.st = .promo m.page → x.q.tenant = te → taskOf s' k = some { x with st := .ready }) ∧
      ((pteOf m.old).tier = 1 → s'.mem.farUsed.find ((pteOf m.old).addr / mib2) = none) ∧
      (s.mem.heldPtw = [] → inPlatform s m.pte = true → m.pte / mib2 ≠ f → m.pte % 8 = 0 → s.sec.tampered = false →
        s.coh.dir.find (m.pte / 64) = none → (∃ g, ingotAt s (m.pte / gib) = some g ∧ g.kind = 2) →
        s'.mem.stack.num m.pte 8 = ptePlace m.old 0 (f * mib2) % 2 ^ 64) ∧ SameFabric s s' ∧ s'.anv = s.anv) ∧
  (∀ (t : Ltc) (te : BitVec 10) (page : BitVec 36) (g : Nat) (e : Epoch) (m : PageMove) (s : State),
    moveOf s te.toNat page.toNat = some m → m.kind = .demoteWait e → epochOver s e = true → m.dest = 1 →
    freeFar s = some g → (∀ e ∈ s.coh.pend, e.2.grant = none) →
    ∃ s', exec (.epochWaitDone t (.demote te page)) s = .next s' ∧ s'.mem.farUsed.find g = some (te, page.toNat) ∧
      { m with kind := .demoteCopy 1 (g * mib2) } ∈ s'.mem.moves ∧
      rd s' Fld.XLT_INV_STATUS_LAST_INV_US = min 0xFFFF ((now (adv t s) - m.began.toNat) / 1000) ∧ s'.eng = s.eng ∧
      SameFabric s s') ∧
  (∀ (t : Ltc) (te : BitVec 10) (page : BitVec 36) (e : Epoch) (m : PageMove) (s : State),
    moveOf s te.toNat page.toNat = some m → m.kind = .demoteWait e → epochOver s e = false →
    exec (.epochWaitDone t (.demote te page)) s = .next (adv t s)) ∧
  (∀ (t : Ltc) (te : BitVec 10) (va : Word) (tier addr : Nat) (u : BitVec 10) (m : PageMove) (s : State),
    moveOf s te.toNat (va.toNat / mib2) = some m → m.kind = .demoteCopy tier addr → s.mem.tierCmds = [] →
    s.mem.promoted.find ((pteOf m.old).addr / mib2) = some u → s.mem.landing.length < 4096 →
    (∀ e ∈ s.coh.pend, e.2.grant = none) →
    ∃ s', exec (.demotionDone t te va) s = .next s' ∧ s'.mem.promoted.find ((pteOf m.old).addr / mib2) = none ∧
      s'.mem.landing = s.mem.landing ++ [BitVec.ofNat 19 ((pteOf m.old).addr / mib2)] ∧
      s'.mem.moves = s.mem.moves.erase m ∧ s'.eng = s.eng ∧ SameFabric s s') ∧
  (∀ (t : Ltc) (h : CmdHdr) (va : Word) (dest : Byte) (s : State), Suits h .tenant → Waits s h → dest.toNat ≤ 5 →
    va.toNat % mib2 = 0 → (dest.toNat = 1 → farChannels s ≠ 0) → rdb s Fld.MEM_TIER_CTRL_ENABLE = true →
    s.sec.tenants.find h.tenant.toNat ≠ none →
    ∃ s', exec (.tierMove t h va 0 dest) s = .next s' ∧ Answered s' h Status.OK (leBytes 4 0 ++ leBytes 4 0) ∧
      rd s' Fld.MEM_TIER_STATUS_LAST_MOVE_DONE = 0 ∧ s'.mem.moves = s.mem.moves ∧ s'.mem.stack = s.mem.stack ∧
      s'.mem.far = s.mem.far ∧ SameEngines s s' ∧ SameFabric s s') ∧
  (∀ (t : Ltc) (h : CmdHdr) (va : Word) (pages : BitVec 32) (dest : Byte) (p : Pte) (raw a : Nat) (c : TierCmd) (s s1 : State),
    Suits h .tenant → Waits s h → 1 ≤ dest.toNat → dest.toNat ≤ 5 → va.toNat % mib2 = 0 →
    (dest.toNat = 1 → farChannels s ≠ 0) → 1 ≤ pages.toNat →
    rdb s Fld.MEM_TIER_CTRL_ENABLE = true → s.sec.tenants.find h.tenant.toNat ≠ none → s.mem.moves.length < 64 →
    moveOf s h.tenant.toNat (va.toNat / mib2) = none → s1 = adv t (latestTier h s) →
    holdsBigPage s1 h.tenant.toNat (va.toNat / mib2) pages.toNat = false →
    c = ⟨h, BitVec.ofNat 10 h.tenant.toNat, va.toNat / mib2, pages.toNat, dest.toNat, 0, []⟩ →
    (walkPlain h.tenant.toNat (va.toNat / mib2 * mib2)
      { beginLong h s1 with mem := { s1.mem with tierCmds := s1.mem.tierCmds ++ [c] } }).1 = .leaf p raw a 21 → p.tier = 0 →
    ∃ s' m e, exec (.tierMove t h va pages dest) s = .next s' ∧ Running s' h ∧ s'.mem.moves = s.mem.moves ++ [m] ∧
      m.page = va.toNat / mib2 ∧ m.dest = dest.toNat ∧ m.kind = .demoteWait e ∧ m.pte = a ∧ m.old = raw ∧
      (∀ x ∈ openReqs s, x ∈ e.reqs) ∧ (∀ k ∈ s.coh.pend.keys, k ∈ e.pend) ∧
      (∀ e ∈ s'.xlt.l1 ++ s'.xlt.l2, ∀ x ∈ e.2, x.tenant.toNat = h.tenant.toNat →
        va.toNat + mib2 ≤ x.base ∨ x.base + 2 ^ x.size ≤ va.toNat) ∧ s'.mem.far = s.mem.far ∧ SameFabric s s') ∧
  (∀ (t : Ltc) (h : CmdHdr) (va : Word) (pages : BitVec 32) (dest : Byte) (s : State), Suits h .tenant → Waits s h →
    dest.toNat ≤ 5 → va.toNat % mib2 = 0 → (dest.toNat = 1 → farChannels s ≠ 0) →
    holdsBigPage (adv t (latestTier h s)) h.tenant.toNat (va.toNat / mib2) pages.toNat = false →
    rdb s Fld.MEM_TIER_CTRL_ENABLE = false →
    ∃ s', exec (.tierMove t h va pages dest) s = .next s' ∧ Answered s' h Status.NOT_PERMITTED [] ∧
      rd s' Fld.MEM_TIER_STATUS_LAST_MOVE_DONE = 0 ∧ s'.mem = { s.mem with lastTier := some h } ∧ s'.ecc = s.ecc ∧
      SameEngines s s' ∧ SameFabric s s' ∧ SamePlatform s s' ∧ SameModes s s' ∧
      SameRegs (Reg.MEM_TIER_STATUS.base :: faultRegs) s s')

/-- TENANT_KEY_ROTATE, SWEEP_STEP, TENANT_DESTROY and PARTITION_SET (R332, R336, R337, R350). -/
def Obligations.TenantKeysAndPartitions : Prop :=
  (∀ (t : Ltc) (h : CmdHdr) (x : Tenant) (s : State), Suits h .tenant → Waits s h →
    s.sec.tenants.find h.tenant.toNat = some x → x.sweep = none → rd s Fld.ECC_TIN_STATUS_STATE ≠ 1 →
    ∃ s' y, exec (.tenantKeyRotate t h) s = .next s' ∧ s'.sec.tenants.find h.tenant.toNat = some y ∧
      y.entry = x.entry ∧ y.keyGen = nextKeyGen x.keyGen ∧ y.key = s.draws + 1 ∧ y.keyLost = false ∧
      Answered s' h Status.OK (leBytes 2 (nextKeyGen x.keyGen).toNat) ∧
      (tenantItems s h.tenant.toNat = [] → y.sweep = none) ∧
      (tenantItems s h.tenant.toNat ≠ [] → ∃ w, y.sweep = some w ∧ w.gen = x.keyGen ∧ w.key = x.key ∧
        w.count = (tenantItems s h.tenant.toNat).length ∧ w.ptrs = [] ∧ w.fresh = [] ∧ w.oldLost = x.keyLost) ∧
      (∀ u, u ≠ h.tenant.toNat → s'.sec.tenants.find u = s.sec.tenants.find u) ∧ s'.sec.jobs = s.sec.jobs ∧
      SameMemory s s' ∧ SameEngines s s' ∧ SameFabric s s' ∧ SameModes s s' ∧ SameRegs faultRegs s s') ∧
  (∀ (t : Ltc) (te : BitVec 10) (x : Tenant) (w : Sweep) (s : State), s.sec.tenants.find te.toNat = some x →
    x.sweep = some w → (tenantItems s te.toNat).filter w.isOld = [] → EventRoom s →
    ∃ s', exec (.sweepStep t te) s = .next s' ∧ s'.sec.tenants.find te.toNat = some { x with sweep := none } ∧
      EventHeld s' 9 te.toNat (packBits [(10, te.toNat), (6, 0), (16, w.gen.toNat), (16, x.keyGen.toNat)]) ∧
      SameMemory s s' ∧ SameEngines s s' ∧ SameFabric s s' ∧ SameModes s s' ∧ s'.regs = s.regs) ∧
  (∀ (t : Ltc) (te : BitVec 10) (x : Tenant) (w : Sweep) (s : State),
    s.sec.tenants.find te.toNat = some x → x.sweep = some w → sweepItems s te.toNat w ≠ [] →
    (∀ i ∈ sweepItems s te.toNat w, i < 2 ^ 40 ∧ w.ptrs.get 0 i + 1 < 2 ^ 15 ∧
      (i < 2 ^ 24 → lineBusy s (i * 2 ^ 15 + w.ptrs.get 0 i) = false)) →
    (s.sec.sweepAt ≠ now (adv t s) / 4 ∨ s.sec.sweepLines < sweepRate s) →
    ∃ s' i, exec (.sweepStep t te) s = .next s' ∧ i ∈ sweepItems s te.toNat w ∧
      s'.sec.tenants.find te.toNat = some { x with sweep := some { w with ptrs := w.ptrs.put i (w.ptrs.get 0 i + 1) } } ∧
      (∀ u, u ≠ te.toNat → s'.sec.tenants.find u = s.sec.tenants.find u) ∧
      s'.mem.sram = s.mem.sram ∧ s'.mem.ingots = s.mem.ingots ∧ SameEngines s s' ∧ SameFabric s s') ∧
  (∀ (t : Ltc) (h : CmdHdr) (s : State), Suits h .tenant → Waits s h → s.sec.tenants.find h.tenant.toNat ≠ none →
    tenantHolds s h.tenant.toNat = false → (∀ m ∈ s.mem.moves, m.tenant.toNat ≠ h.tenant.toNat) → s.mem.tierCmds = [] →
    ∃ s', exec (.tenantDestroy t h) s = .next s' ∧ Answered s' h Status.OK [] ∧
      s'.sec.tenants.find h.tenant.toNat = none ∧
      (∀ u, u ≠ h.tenant.toNat → s'.sec.tenants.find u = s.sec.tenants.find u) ∧
      (∀ e ∈ s'.sec.jobs, bindTenant e.2.binding.toNat ≠ h.tenant.toNat) ∧
      (∀ e ∈ s'.red.slots, e.2.toNat ≠ h.tenant.toNat) ∧ s'.mode.applied.partitions.find h.tenant.toNat = none ∧
      regGet s' (Reg.XLT_ROOT.base + 8 * h.tenant.toNat) = 0 ∧ s'.mem.stack = s.mem.stack ∧ s'.mem.far = s.mem.far ∧
      s'.mem.sram = s.mem.sram ∧ s'.coh = s.coh ∧ SameFabric s s') ∧
  (∀ (t : Ltc) (h : CmdHdr) (e : BitVec 512) (s : State), h.scopeOk .tenant = true → h.staged = false → Waits s h →
    partRsv e.toNat = false → bitsOf e.toNat 0 10 = h.tenant.toNat → partInj e.toNat ≤ 1024 → partElc e.toNat ≤ 8 →
    partHtt e.toNat ≤ 32 → partStreams e.toNat ≤ 2048 →
    (bitAt e.toNat 10 = true →
      partitionsOk (clusters s) (s.mode.applied.setPartition h.tenant.toNat e.toNat) = true) →
    ∃ s', exec (.partitionSet t h e) s = .next s' ∧ Answered s' h Status.OK [] ∧
      s'.mode.applied.partitions.find h.tenant.toNat = (if bitAt e.toNat 10 then some e else none) ∧
      (∀ u, u ≠ h.tenant.toNat → s'.mode.applied.partitions.find u = s.mode.applied.partitions.find u) ∧
      s'.mode.applied.routes = s.mode.applied.routes ∧ s'.mode.applied.epoch = s.mode.applied.epoch ∧ SameMemory s s' ∧
      s'.coh = s.coh ∧ SameFabric s s' ∧ SamePlatform s s')

/-- MEM_REQUEST, REFRESH, SELF_REFRESH_ENTRY, HOT_PAGE and HOT_EPOCH (R67, R75-R79, R94-R97). -/
def Obligations.MemoryControllers : Prop :=
  (∀ (t : Ltc) (u : MemUnit) (r : MemReq) (s : State), unitExists s u = true → lineAtUnit s u r.line.toNat = true →
    r.write = true → r.mask = 0xFF → ((∃ n, u = .stack n) ∨ r.line.toNat % 2 = 0) →
    keyOf s (unitArr u) r.line.toNat ≠ .lost →
    ∃ s', exec (.memRequest t u r) s = .next s' ∧
      (storeOf s' (unitArr u)).lineBits r.line.toNat = bitsOfLine r.val ∧
      (storeOf s' (unitArr u)).tagOf r.line.toNat =
        (match keyOf s (unitArr u) r.line.toNat with | .key n => n + 1 | _ => 0) ∧
      (∀ a, a / 64 ≠ r.line.toNat → (storeOf s' (unitArr u)).byte a = (storeOf s (unitArr u)).byte a) ∧
      (unitOf s' (unitNum u)).sr = none ∧
      (∃ q ∈ (unitOf s' (unitNum u)).queue, q.write = true ∧ q.at_ = after (adv t s) 0) ∧ s'.mem.ingots = s.mem.ingots ∧
      SameEngines s s' ∧ SameFabric s s' ∧ SamePlatform s s' ∧ s'.ctl = s.ctl) ∧
  (∀ (t : Ltc) (u : MemUnit) (r : MemReq) (s : State), unitExists s u = true → lineAtUnit s u r.line.toNat = true →
    r.write = false → keyOf s (unitArr u) r.line.toNat = .raw → (storeOf s (unitArr u)).tagOf r.line.toNat = 0 →
    (unitOf s (unitNum u)).sr = none → (∀ i, i < 8 → errHeld s (unitArr u) r.line.toNat i = 0) →
    ∃ s', exec (.memRequest t u r) s = .next s' ∧
      Out.memData u r.line (lineOfBits (heldBits s (unitArr u) r.line.toNat) 0) ∈ s'.out ∧
      (∀ b a, (storeOf s' b).byte a = (storeOf s b).byte a) ∧
      (∃ q ∈ (unitOf s' (unitNum u)).queue, q.write = false ∧ q.at_ = after (adv t s) 0) ∧
      ((∃ n, u = .stack n) → s'.ctl = s.ctl ∧ SameEngines s s') ∧ SameFabric s s' ∧ SamePlatform s s') ∧
  (∀ (t : Ltc) (u : MemUnit) (bank : BitVec 6) (s : State), unitExists s u = true → (unitOf s (unitNum u)).sr = none →
    refreshDue (adv t s) (unitNum u) bank.toNat = true →
    ∃ s', exec (.refresh t u bank) s = .next s' ∧
      owed s' (unitNum u) bank.toNat = owed (adv t s) (unitNum u) bank.toNat - 1 ∧
      (∀ n, n ≠ refreshUnit (unitNum u) bank.toNat →
        (unitOf s' (unitNum u)).refs.find n = (unitOf s (unitNum u)).refs.find n) ∧
      (unitOf s' (unitNum u)).queue = (unitOf s (unitNum u)).queue ∧ (∀ k, k ≠ unitNum u → unitOf s' k = unitOf s k) ∧
      s' = { adv t s with mem := { s.mem with units := s'.mem.units } }) ∧
  (∀ (t : Ltc) (u : MemUnit) (bank : BitVec 6) (s : State),
    (unitExists s u = false ∨ (unitOf s (unitNum u)).sr ≠ none ∨ refreshDue (adv t s) (unitNum u) bank.toNat = false) →
    exec (.refresh t u bank) s = .next (adv t s)) ∧
  (∀ (t : Ltc) (u : MemUnit) (s : State), unitExists s u = true → (unitOf s (unitNum u)).sr = none →
    srDue (adv t s) (unitNum u) = true →
    ∃ s', exec (.selfRefreshEntry t u) s = .next s' ∧ (unitOf s' (unitNum u)).sr = some (after (adv t s) 0) ∧
      (unitOf s' (unitNum u)).queue = [] ∧ (∀ k, k ≠ unitNum u → unitOf s' k = unitOf s k) ∧ s'.mem.stack = s.mem.stack ∧
      s'.mem.far = s.mem.far ∧ s'.mem.sram = s.mem.sram ∧ SameEngines s s' ∧ SameFabric s s' ∧ SamePlatform s s' ∧
      s'.ctl = s.ctl ∧ s'.regs = s.regs) ∧
  (∀ (t : Ltc) (s : State), s.mem.reports ≠ [] → s.mem.firstReport.toNat + us 100 ≤ now (adv t s) → EventRoom s →
    ∃ s', exec (.hotPage t) s = .next s' ∧ s'.mem.reports = [] ∧
      EventHeld s' 8 0xFFF (leNat (s.mem.reports.flatMap fun r => leBytes 32 r.toNat)) ∧
      rd s' Fld.MEM_HOT_STATUS_REPORTS = min 0xFFFF (rd s Fld.MEM_HOT_STATUS_REPORTS + s.mem.reports.length) ∧
      s'.mem.hot = s.mem.hot ∧ s'.mem.stack = s.mem.stack ∧ SameEngines s s' ∧ SameFabric s s' ∧ SamePlatform s s' ∧
      SameModes s s' ∧ SameRegs [Reg.MEM_HOT_STATUS.base] s s') ∧
  (∀ (t : Ltc) (s : State), rdb s Fld.MEM_HOT_CTRL_ENABLE = true → s.mem.hotAt.toNat + epochNs s ≤ now (adv t s) →
    ∃ s', exec (.hotEpoch t) s = .next s' ∧ hotEpochNo s' = (hotEpochNo s + 1) % 2 ^ 32 ∧
      (∀ p, hotCount (s'.mem.hot.get 0 p).toNat = hotCount (s.mem.hot.get 0 p).toNat / 2) ∧
      s'.mem.hotAt.toNat = s.mem.hotAt.toNat + epochNs s ∧ s'.mem.epochReports = 0 ∧ s'.mem.stack = s.mem.stack ∧
      SameEngines s s' ∧ SameFabric s s' ∧ SamePlatform s s' ∧ SameModes s s' ∧ s'.ctl = s.ctl ∧
      SameRegs [Reg.MEM_HOT_STATUS.base] s s')

/-- WRITE_RAW, READ_RAW, READ_DECODED, BUCKET_LEAK, SCRUB_READ, SCRUB_CONTROL, ANNEAL_PASS, WAKE_REQUEST and WAKE_COMPLETE
(R240, R247-R254, R394). -/
def Obligations.RepairAndTestMode : Prop :=
  (∀ (t : Ltc) (a : Arr) (addr : Nat) (s : State), testTarget s (testTileIdle s) = some (a, addr) →
    ∃ s', exec (.writeRaw t) s = .next s' ∧ rd s' Fld.ECC_TEST_STATUS_DONE = 1 ∧ rd s' Fld.ECC_TEST_STATUS_ERROR = 0 ∧
      storedWord s' a addr = rd s Fld.ECC_TEST_CHECK_CHECK + 2 ^ 14 * rd s Fld.ECC_TEST_DATA_DATA +
        2 ^ 78 * testMeta a (rd s Fld.ECC_TEST_CHECK_META) ∧
      (∀ b x, (storeOf s' b).byte x = (storeOf s b).byte x) ∧ s'.ecc = (testWakes (adv t s)).ecc ∧ SameEngines s s' ∧ SameFabric s s' ∧
      SamePlatform s s' ∧ s'.ctl = s.ctl ∧ SameRegs [Reg.ECC_TEST_STATUS.base] s s') ∧
  (∀ (t : Ltc) (a : Arr) (addr : Nat) (s : State), testTarget s (testTileIdle s) = some (a, addr) →
    ∃ s', exec (.readRaw t) s = .next s' ∧ rd s' Fld.ECC_TEST_STATUS_DONE = 1 ∧ rd s' Fld.ECC_TEST_STATUS_ERROR = 0 ∧
      rd s' Fld.ECC_TEST_DATA_DATA = bitsOf (storedWord s a addr) 14 64 ∧
      rd s' Fld.ECC_TEST_CHECK_CHECK = bitsOf (storedWord s a addr) 0 14 ∧
      rd s' Fld.ECC_TEST_CHECK_META = testMeta a (bitsOf (storedWord s a addr) 78 2) ∧ s'.mem = s.mem ∧
      s'.ecc = (testWakes (adv t s)).ecc ∧ SameEngines s s' ∧ s'.ctl = s.ctl ∧
      SameRegs [Reg.ECC_TEST_STATUS.base, Reg.ECC_TEST_DATA.base, Reg.ECC_TEST_CHECK.base] s s') ∧
  (∀ (t : Ltc) (a : Arr) (addr : Nat) (s : State), testTarget s (testTileIdle s) = some (a, addr) →
    ∃ s', exec (.readDecoded t) s = .next s' ∧ rd s' Fld.ECC_TEST_STATUS_DONE = 1 ∧ rd s' Fld.ECC_TEST_STATUS_ERROR = 0 ∧
      rd s' Fld.ECC_TEST_STATUS_OUTCOME = (decodeWord (usedBits a) ((storeOf s a).errOf (addr / 8))).outcome.num ∧
      s'.mem = s.mem ∧ s'.ecc = (testWakes (adv t s)).ecc ∧ SameEngines s s' ∧ s'.ctl = s.ctl ∧
      SameRegs [Reg.ECC_TEST_STATUS.base, Reg.ECC_TEST_DATA.base] s s') ∧
  (∀ (t : Ltc) (s : State), testTarget s (testTileIdle s) = none →
    ∃ s', exec (.writeRaw t) s = .next s' ∧ exec (.readRaw t) s = .next s' ∧ exec (.readDecoded t) s = .next s' ∧
      rd s' Fld.ECC_TEST_STATUS_DONE = 0 ∧ rd s' Fld.ECC_TEST_STATUS_ERROR = 1 ∧ SameMemory s s' ∧ SameEngines s s' ∧
      s'.ctl = s.ctl ∧ SameRegs [Reg.ECC_TEST_STATUS.base] s s') ∧
  (∀ (t : Ltc) (s : State), s.ecc.leakAt.toNat + leakNs s ≤ now (adv t s) →
    ∃ s', exec (.bucketLeak t) s = .next s' ∧
    (∀ g, g < 288 → rd s' (Fld.ECC_REGION_LEVEL g) = rd s (Fld.ECC_REGION_LEVEL g) - 1 ∧
      rd s' (Fld.ECC_REGION_SINGLE g) = rd s (Fld.ECC_REGION_SINGLE g) ∧
      rd s' (Fld.ECC_REGION_UNCORR g) = rd s (Fld.ECC_REGION_UNCORR g)) ∧
    (∀ a, (∀ g, g < 288 → a ≠ Reg.ECC_REGION.base + 8 * g) → regGet s' a = regGet s a) ∧ s'.mem = s.mem ∧
    s'.ecc = { s.ecc with leakAt := BitVec.ofNat 64 (s.ecc.leakAt.toNat + leakNs s) } ∧
    SameEngines s s' ∧ SameFabric s s' ∧ SamePlatform s s' ∧ SameModes s s' ∧ s'.ctl = s.ctl) ∧
  (∀ (t : Ltc) (s : State), now (adv t s) < s.ecc.leakAt.toNat + leakNs s → exec (.bucketLeak t) s = .next (adv t s)) ∧
  (∀ (t : Ltc) (u : ScrubUnit) (x : ScrubAt) (s : State), x = scrubAt s u → scrubExists s u = true → scrubRuns s x = true →
    scrubSkips s x = false → scrubIdle (adv t s) x = true → (scrubWords x (adv t s)).1 = [] →
    ∃ s', exec (.scrubRead t u) s = .next s' ∧
      s'.ecc.scrubAt.get 0 x.id = (match x.last with | some l => if l < x.pos + 1 then 0 else x.pos + 1 | none => x.pos + 1) ∧
      (∀ b, (storeOf s' b).bytes = (storeOf s b).bytes ∧ (storeOf s' b).metas = (storeOf s b).metas) ∧ SameEngines s s' ∧
      SameFabric s s' ∧ SamePlatform s s') ∧
  (∀ (t : Ltc) (h : CmdHdr) (enable : Byte) (mask : BitVec 32) (s : State), Suits h .platform → Waits s h →
    mask.toNat < 128 → enable.toNat < 2 →
    ∃ s', exec (.scrubControl t h enable mask) s = .next s' ∧
      Answered s' h Status.OK
        (leBytes 8 (packBits [(48, (longestLap s mask.toNat).1), (9, (longestLap s mask.toNat).2)])) ∧
      (∀ c, c < 7 → rd s' (Fld.ECC_SCRUB_LAP_ENABLED c) =
        if bitAt mask.toNat c then enable.toNat else rd s (Fld.ECC_SCRUB_LAP_ENABLED c)) ∧ SameMemory s s' ∧
      SameEngines s s' ∧ SameFabric s s' ∧ SamePlatform s s' ∧ SameModes s s' ∧
      SameRegs (faultRegs ++ (List.range 7).map (fun c => Reg.ECC_SCRUB_LAP.base + 8 * c)) s s') ∧
  (∀ (t : Ltc) (g : BitVec 9) (rows cols : BitVec 8) (r : Nat) (s : State), annealRuns (adv t s) g.toNat = true →
    r = s.ecc.annealAt.get 0 g.toNat → (sparesUsed s (64 * g.toNat + r / 64)).1 + rows.toNat ≤ 16 →
    (sparesUsed s (64 * g.toNat + r / 64)).2 + cols.toNat ≤ 4 → Tab.wf s.mem.sram.errs = true →
    (∀ e ∈ s.mem.sram.errs, (decodeWord 78 e.2.toNat).outcome ≠ .uncorrectable) →
    ∃ s', exec (.annealPass t g rows cols) s = .next s' ∧
      s'.ecc.annealAt.get 0 g.toNat = (r + 1) % groupRegions g.toNat ∧ s'.ecc.annealed.find g.toNat = some (after (adv t s) 0) ∧
      s'.ecc.spares.get (0, 0) (64 * g.toNat + r / 64) =
        ((s.ecc.spares.get (0, 0) (64 * g.toNat + r / 64)).1 + rows.toNat,
          (s.ecc.spares.get (0, 0) (64 * g.toNat + r / 64)).2 + cols.toNat) ∧
      rd s' Fld.ECC_ANNEAL_STATUS_PASSES = min (2 ^ 32 - 1) (rd s Fld.ECC_ANNEAL_STATUS_PASSES + 1) ∧
      rd s' Fld.ECC_ANNEAL_STATUS_SOFT_REPAIRS =
        min 0xFFFF (rd s Fld.ECC_ANNEAL_STATUS_SOFT_REPAIRS + (rows.toNat + cols.toNat)) ∧
      s'.mem.sram.bytes = s.mem.sram.bytes ∧ s'.mem.stack = s.mem.stack ∧ s'.mem.far = s.mem.far ∧ SameEngines s s' ∧
      SameFabric s s' ∧ SamePlatform s s') ∧
  (∀ (t : Ltc) (i : Island) (s : State), s.ecc.wakes.find (islandNum i) = none →
    ∃ s', exec (.wakeRequest t i) s = .next s' ∧
      s' = { adv t s with ecc := { s.ecc with
        wakes := s.ecc.wakes.put (islandNum i) (after (adv t s) (wakeNs s (islandNum i))) } }) ∧
  (∀ (t : Ltc) (i : Island) (s : State), wakeDue (adv t s) i = true →
    ∃ s', exec (.wakeComplete t i) s = .next s' ∧ s'.ecc.wakes.find (islandNum i) = none ∧
      (∀ d n, i = .tile d n → s'.ecc.retained.get false (islandNum i) = false) ∧
      (∀ d, i = .anvil d → (anvil s d).state = 0 → (anvil s' d).state = 1) ∧ s'.mem = s.mem ∧ SameEngines s s' ∧
      SameFabric s s' ∧ s'.sec = s.sec ∧ s'.ctl = s.ctl ∧ s'.regs = s.regs)

/-- SIGNAL_DETECT, TRAINING_COMPLETE, HELLO, HELLO_TIMER, SIGNAL_LOSS, PORT_DISABLE, PORT_ENABLE, FAST_RETRAIN, WIDTH_CHANGE and
NEIGHBOURS (R290-R293, R301, R304). -/
def Obligations.PortTrainingAndControl : Prop :=
  (∀ (t : Ltc) (port : BitVec 4) (lanes : BitVec 16) (s : State), portState s port.toNat = 0 →
    alignedSignal lanes.toNat = true → EventRoom s →
    ∃ s', exec (.signalDetect t port lanes) s = .next s' ∧ portState s' port.toNat = 1 ∧
      (lport s' port.toNat).signal = lanes ∧ (lport s' port.toNat).lanes = none ∧ (lport s' port.toNat).seenPeer = false ∧
      EventHeld s' 11 0xFFF (linkPayload port.toNat 0 1 0) ∧ OnlyPort port.toNat s s') ∧
  (∀ (t : Ltc) (port : BitVec 4) (lanes : BitVec 16) (s : State), portState s port.toNat = 1 →
    alignedSignal lanes.toNat = false →
    ∃ s', exec (.trainingComplete t port lanes) s = .next s' ∧ portState s' port.toNat = 4 ∧
      portWidth s' port.toNat = 0 ∧ OnlyPort port.toNat s s') ∧
  (∀ (t : Ltc) (port : BitVec 4) (lanes : BitVec 16) (w m : Nat) (x : LPort) (s : State), portState s port.toNat = 1 →
    x = lport s port.toNat → x.change = none → x.seenPeer = true → x.sentSeen = true → x.peerSeen = true →
    alignedSignal lanes.toNat = true → widestIn (lanes.toNat &&& x.peerLanes.toNat) = some (w, m) →
    sinkOk s port.toNat = true →
    ∃ s', exec (.trainingComplete t port lanes) s = .next s' ∧ portState s' port.toNat = 2 ∧
      portWidth s' port.toNat = w ∧ rd s' (Fld.FAB_PORT_STATUS_LANE_MASK port.toNat) = m ∧
      (lport s' port.toNat).next = 0 ∧ (lport s' port.toNat).lack = 1023 ∧ (lport s' port.toNat).replay = [] ∧
      OnlyPort port.toNat s s') ∧
  (∀ (t : Ltc) (port : BitVec 4) (c : Cell) (m : LinkMsg) (s : State), readMsgOf 1 c = some m →
    (portState s port.toNat = 2 ∨ (portState s port.toNat = 1 ∧ (lport s port.toNat).lanes = none)) →
    ∃ s', exec (.hello t port c) s = .next s' ∧ portState s' port.toNat = portState s port.toNat ∧
      rd s' (Fld.FAB_PORT_STATUS_NEIGH_PART port.toNat) = m.partId.toNat ∧
      rd s' (Fld.FAB_PORT_UID_NEIGH_UID port.toNat) = m.uid.toNat ∧
      rd s' (Fld.FAB_PORT_STATUS_NEIGH_SINK port.toNat) = b2n m.sink ∧
      (portState s port.toNat = 1 → (lport s' port.toNat).seenPeer = true ∧ (lport s' port.toNat).peerLanes = m.laneMask) ∧
      (portState s port.toNat = 2 → lport s' port.toNat = lport s port.toNat) ∧ OnlyPort port.toNat s s') ∧
  (∀ (t : Ltc) (port : BitVec 4) (s : State), portState s port.toNat = 1 → (lport s port.toNat).lanes = none →
    (lport s port.toNat).helloAt ≤ slotNo (adv t s) →
    ∃ s', exec (.helloTimer t port) s = .next s' ∧ s'.out = s.out ++ [.linkCell port (plainWord 2) (msgCell (helloMsg s port.toNat))] ∧
      (lport s' port.toNat).helloAt = slotNo (adv t s) + 64 ∧
      (lport s' port.toNat).sentSeen = ((lport s port.toNat).sentSeen || (lport s port.toNat).seenPeer) ∧
      portState s' port.toNat = 1 ∧ OnlyPort port.toNat s s') ∧
  (∀ (t : Ltc) (port : BitVec 4) (s : State), portState s port.toNat = 2 → EventRoom s →
    ∃ s', exec (.signalLoss t port) s = .next s' ∧ portState s' port.toNat = 0 ∧ portWidth s' port.toNat = 0 ∧
      (lport s' port.toNat).replay = [] ∧ (lport s' port.toNat).signal = 0 ∧
      rd s' (Fld.FAB_PORT_ERR2_LINK_DROPPED port.toNat) =
        min 0xFFFF (rd s (Fld.FAB_PORT_ERR2_LINK_DROPPED port.toNat) + (lport s port.toNat).replay.length) ∧
      EventHeld s' 11 0xFFF (linkPayload port.toNat 2 0 0) ∧ OnlyPort port.toNat s s') ∧
  (∀ (t : Ltc) (h : CmdHdr) (port : Byte) (s : State), Suits h .platform → Waits s h → port.toNat < 16 →
    ∃ s', exec (.portDisable t h port 0 0) s = .next s' ∧ Answered s' h Status.OK [] ∧ portState s' port.toNat = 3 ∧
      (lport s' port.toNat).replay = [] ∧ OnlyPort port.toNat s s') ∧
  (∀ (t : Ltc) (h : CmdHdr) (port : Byte) (s : State), Suits h .platform → Waits s h → port.toNat < 16 →
    ∃ s', exec (.portEnable t h port 0) s = .next s' ∧ Answered s' h Status.OK [] ∧
      portState s' port.toNat = (if portState s port.toNat = 3 ∨ portState s port.toNat = 4 then
        (if alignedSignal (lport s port.toNat).signal.toNat then 1 else 0) else portState s port.toNat) ∧
      OnlyPort port.toNat s s') ∧
  (∀ (t : Ltc) (h : CmdHdr) (port : Byte) (s : State), Suits h .platform → Waits s h → port.toNat < 16 →
    portState s port.toNat = 2 → retrainAsked s port.toNat = false →
    ∃ s' r, exec (.fastRetrain t (some h) port 0) s = .next s' ∧ Answered s' h Status.OK [] ∧
      (lport s' port.toNat).req = some r ∧ r.width = 0 ∧ r.num = (lport s port.toNat).reqNum + 1 ∧
      portState s' port.toNat = 2 ∧ (lport s' port.toNat).replay = (lport s port.toNat).replay ∧ OnlyPort port.toNat s s') ∧
  (∀ (t : Ltc) (h : CmdHdr) (port width : Byte) (m : Nat) (s : State), Suits h .platform → Waits s h → port.toNat < 16 →
    portState s port.toNat = 2 → lanesOfWidth (lport s port.toNat).good.toNat width.toNat = some m →
    ∃ s' r, exec (.widthChange t h port width) s = .next s' ∧ Answered s' h Status.OK [] ∧
      (lport s' port.toNat).req = some r ∧ r.width.toNat = width.toNat ∧ r.lanes.toNat = m ∧ r.auto = false ∧
      portState s' port.toNat = 2 ∧ OnlyPort port.toNat s s') ∧
  (∀ (t : Ltc) (h : CmdHdr) (s : State), Suits h .platform → Waits s h →
    ∃ s', exec (.neighbours t h) s = .next s' ∧
      Answered s' h Status.OK ((List.range 16).flatMap fun p => neighbourEntry s p) ∧ ControlOnly s s')

/-- LINK_DATA_CELL, REPLAY_TIMER, RETRAIN_REQ, WIDTH_REQ, REQ_ACK, LINK_CONTROL_RESEND, WIDTH_CHANGE_DONE, UNACKED_LIMIT,
LANE_FAILURE and UNCORR_LIMIT (R294-R303). -/
def Obligations.LinkReplayAndRequests : Prop :=
  (∀ (t : Ltc) (port : BitVec 4) (f : Fec) (w : LinkWord) (c : Cell) (s : State), portState s port.toNat = 2 →
    f.uncorrectable ≠ 0 →
    ∃ s', exec (.linkDataCell t port f w c) s = .next s' ∧
      rd s' (Fld.FAB_PORT_ERR_UNCORR_CW port.toNat) =
        min 0xFFFF (rd s (Fld.FAB_PORT_ERR_UNCORR_CW port.toNat) + f.uncorrectable.toNat) ∧
      { lport s' port.toNat with unc := (lport s port.toNat).unc } = lport s port.toNat ∧ s'.out = s.out ∧ s'.ctl = s.ctl ∧
      OnlyPort port.toNat s s') ∧
  (∀ (t : Ltc) (port : BitVec 4) (f : Fec) (w : LinkWord) (c : Cell) (x : LPort) (s : State), portState s port.toNat = 2 →
    f.uncorrectable = 0 → f.overlaps = false → w.kind = 0 → w.av = false → w.cclass = 7 → x = lport s port.toNat → (w.lseq - x.lack - 1).toNat < 512 →
    x.win.getLsbD (w.lseq - x.lack - 1).toNat = false →
    ∃ s', exec (.linkDataCell t port f w c) s = .next s' ∧ s'.out = s.out ++ [.toRouter port c] ∧
      (w.lseq = x.lack + 1 → x.win = 0 → (lport s' port.toNat).lack = x.lack + 1) ∧
      (lport s' port.toNat).replay = x.replay ∧ s'.ctl = s.ctl ∧ OnlyPort port.toNat s s') ∧
  (∀ (t : Ltc) (port : BitVec 4) (f : Fec) (w : LinkWord) (c : Cell) (x : LPort) (s : State), portState s port.toNat = 2 →
    f.uncorrectable = 0 → f.overlaps = false → w.kind = 0 → w.av = false → w.cclass = 7 → x = lport s port.toNat →
    (512 ≤ (w.lseq - x.lack - 1).toNat ∨ x.win.getLsbD (w.lseq - x.lack - 1).toNat = true) →
    ∃ s', exec (.linkDataCell t port f w c) s = .next s' ∧ s'.out = s.out ∧ s'.link = s.link ∧
      rd s' (Fld.FAB_PORT_ERR_DUP_CELLS port.toNat) = min 0xFFFF (rd s (Fld.FAB_PORT_ERR_DUP_CELLS port.toNat) + 1) ∧
      OnlyPort port.toNat s s') ∧
  (∀ (t : Ltc) (port : BitVec 4) (f : Fec) (w : LinkWord) (c : Cell) (s : State), portState s port.toNat = 2 →
    f.uncorrectable = 0 → f.overlaps = false → w.kind ≠ 0 → w.kind ≠ 3 → w.av = true →
    ∃ s', exec (.linkDataCell t port f w c) s = .next s' ∧
      (lport s' port.toNat).replay.map HeldCell.lseq =
        ((lport s port.toNat).replay.filter fun x => !acked w x.lseq).map HeldCell.lseq ∧ OnlyPort port.toNat s s') ∧
  (∀ (t : Ltc) (port : BitVec 4) (c : HeldCell) (r : List HeldCell) (s : State), portState s port.toNat = 2 →
    (lport s port.toNat).replay = c :: r → c.latest.toNat + us 2 ≤ now (adv t s) →
    ∃ s', exec (.replayTimer t port) s = .next s' ∧
      s'.out = s.out ++ (c :: r).map (fun x => .linkCell port (linkWordOf s port.toNat x.lseq 0 true) x.cell) ∧
      rd s' (Fld.FAB_PORT_ERR_RETX_CELLS port.toNat) =
        min 0xFFFF (rd s (Fld.FAB_PORT_ERR_RETX_CELLS port.toNat) + (r.length + 1)) ∧
      rd s' (Fld.FAB_PORT_ERR2_TIMER_EXPIRIES port.toNat) =
        min 0xFFFF (rd s (Fld.FAB_PORT_ERR2_TIMER_EXPIRIES port.toNat) + 1) ∧
      (lport s' port.toNat).replay = (c :: r).map (fun x => { x with latest := after (adv t s) 0 }) ∧
      OnlyPort port.toNat s s') ∧
  (∀ (t : Ltc) (port : BitVec 4) (c : Cell) (m : LinkMsg) (s : State), portState s port.toNat = 2 → readMsgOf 2 c = some m →
    ownWins s port.toNat m = false →
    ∃ s', exec (.retrainReq t port c) s = .next s' ∧
      Out.linkCell port (plainWord 2) (msgCell { linkMsgOf s 4 with reqNum := m.reqNum }) ∈ s'.out ∧
      portState s' port.toNat = 1 ∧
      (lport s' port.toNat).replay = [] ∧ (lport s' port.toNat).next = 0 ∧ (lport s' port.toNat).req = none ∧
      rd s' (Fld.FAB_PORT_ERR2_LINK_DROPPED port.toNat) =
        min 0xFFFF (rd s (Fld.FAB_PORT_ERR2_LINK_DROPPED port.toNat) + (lport s port.toNat).replay.length) ∧
      rd s' (Fld.FAB_PORT_ERR2_RETRAINS port.toNat) = min 0xFFFF (rd s (Fld.FAB_PORT_ERR2_RETRAINS port.toNat) + 1) ∧
      OnlyPort port.toNat s s') ∧
  (∀ (t : Ltc) (port : BitVec 4) (c : Cell) (m : LinkMsg) (s : State), ownWins s port.toNat m = true →
    (readMsgOf 2 c = some m → exec (.retrainReq t port c) s = .next (adv t s)) ∧
      (readMsgOf 3 c = some m → exec (.widthReq t port c) s = .next (adv t s))) ∧
  (∀ (t : Ltc) (port : BitVec 4) (c : Cell) (m : LinkMsg) (s : State), portState s port.toNat = 2 → readMsgOf 3 c = some m →
    ownWins s port.toNat m = false → lanesOfWidth m.laneMask.toNat m.width.toNat = some m.laneMask.toNat →
    ∃ s', exec (.widthReq t port c) s = .next s' ∧
      Out.linkCell port (plainWord 2) (msgCell { linkMsgOf s 4 with reqNum := m.reqNum }) ∈ s'.out ∧
      portState s' port.toNat = 1 ∧
      (lport s' port.toNat).replay = (lport s port.toNat).replay ∧
      (lport s' port.toNat).change = some ⟨m.reqNum, m.width, m.laneMask, false⟩ ∧
      (lport s' port.toNat).req = none ∧ OnlyPort port.toNat s s') ∧
  (∀ (t : Ltc) (port : BitVec 4) (c : Cell) (m : LinkMsg) (r : LinkReq) (s : State), portState s port.toNat = 2 →
    readMsgOf 4 c = some m → (lport s port.toNat).req = some r → r.num = m.reqNum →
    ∃ s', exec (.reqAck t port c) s = .next s' ∧ portState s' port.toNat = 1 ∧ (lport s' port.toNat).req = none ∧
      (r.width = 0 → (lport s' port.toNat).replay = [] ∧ (lport s' port.toNat).change = none) ∧
      (r.width ≠ 0 → (lport s' port.toNat).replay = (lport s port.toNat).replay ∧ (lport s' port.toNat).change = some r) ∧
      OnlyPort port.toNat s s') ∧
  (∀ (t : Ltc) (port : BitVec 4) (r : LinkReq) (s : State), (lport s port.toNat).req = some r →
    (slotNo (adv t s) < (lport s port.toNat).reqAt → exec (.linkControlResend t port) s = .next (adv t s)) ∧
    ((lport s port.toNat).reqAt ≤ slotNo (adv t s) →
      ∃ s', exec (.linkControlResend t port) s = .next s' ∧
        s'.out = s.out ++ [.linkCell port (plainWord 2) (msgCell (requestMsg s r))] ∧ (lport s' port.toNat).req = some r ∧
        (lport s' port.toNat).reqAt = slotNo (adv t s) + 64 ∧
        (lport s' port.toNat).replay = (lport s port.toNat).replay ∧ OnlyPort port.toNat s s')) ∧
  (∀ (t : Ltc) (port : BitVec 4) (r : LinkReq) (s : State), portState s port.toNat = 1 →
    (lport s port.toNat).change = some r →
    ∃ s', exec (.widthChangeDone t port) s = .next s' ∧ portState s' port.toNat = 2 ∧
      portWidth s' port.toNat = r.width.toNat ∧ rd s' (Fld.FAB_PORT_STATUS_LANE_MASK port.toNat) = r.lanes.toNat ∧
      (lport s' port.toNat).change = none ∧ (lport s' port.toNat).replay = (lport s port.toNat).replay ∧
      OnlyPort port.toNat s s') ∧
  (∀ (t : Ltc) (port : BitVec 4) (s : State), portState s port.toNat = 2 → (lport s port.toNat).change = none →
    retrainAsked s port.toNat = false → (∃ c ∈ (lport s port.toNat).replay, c.first.toNat + us 16 ≤ now (adv t s)) →
    ∃ s' r, exec (.unackedLimit t port) s = .next s' ∧ (lport s' port.toNat).req = some r ∧ r.width = 0 ∧
      (lport s' port.toNat).replay = (lport s port.toNat).replay ∧ OnlyPort port.toNat s s') ∧
  (∀ (t : Ltc) (port lane : BitVec 4) (w m : Nat) (s : State), portState s port.toNat = 2 →
    rdb s Fld.FAB_LINK_CTRL_AUTO_WIDTH = true → bitAt (rd s (Fld.FAB_PORT_STATUS_LANE_MASK port.toNat)) lane.toNat = true →
    widestIn ((lport s port.toNat).good.toNat &&& (0xFFFF - putBit (lport s port.toNat).failed.toNat lane.toNat true)) = some (w, m) →
    ∃ s' r, exec (.laneFailure t port lane) s = .next s' ∧ (lport s' port.toNat).req = some r ∧ r.width.toNat = w ∧
      r.lanes.toNat = m ∧ r.auto = true ∧ bitAt (lport s' port.toNat).failed.toNat lane.toNat = true ∧
      OnlyPort port.toNat s s') ∧
  (∀ (t : Ltc) (port : BitVec 4) (s : State), portState s port.toNat = 2 → rd s Fld.FAB_LINK_CTRL_UNCORR_LIMIT ≠ 0 →
    retrainAsked s port.toNat = false →
    rd s Fld.FAB_LINK_CTRL_UNCORR_LIMIT < ((((lport s port.toNat).unc.filter fun e =>
      decide (now (adv t s) < e.1.toNat + us 1000)).map Prod.snd).foldl (· + ·) 0) →
    ∃ s' r, exec (.uncorrLimit t port) s = .next s' ∧ (lport s' port.toNat).req = some r ∧ r.width = 0 ∧
      portState s' port.toNat = 2 ∧ OnlyPort port.toNat s s')

/-- ROUTE_DRAIN, DRAIN_COMPLETE, ROUTE_TABLE_WRITE, ROUTE_EPOCH_SET, CONGESTION_WINDOW, CONGESTION_READ and ROUTER_SLOT
(R265-R273). -/
def Obligations.RoutesAndRouterSlots : Prop :=
  (∀ (t : Ltc) (h : CmdHdr) (mask : BitVec 16) (s : State), Suits h .platform → Waits s h → mask ≠ 0 →
    ∃ s', exec (.routeDrain t h mask) s = .next s' ∧ Running s' h ∧
      (∃ d ∈ s'.fab.drains, d.h = h ∧ d.mask = mask ∧ d.reqs = issuedThrough s mask.toNat) ∧
      rd s' Fld.FAB_ROUTE_STATUS_DRAIN_MASK = mask.toNat ∧ rd s' Fld.FAB_ROUTE_STATUS_DRAINED = 0 ∧
      s'.fab.reqs = s.fab.reqs ∧ s'.link = s.link ∧ s'.tc = s.tc ∧ SameMemory s s' ∧ SameEngines s s' ∧
      SamePlatform s s' ∧ SameModes s s' ∧ SameRegs [Reg.FAB_ROUTE_STATUS.base] s s') ∧
  (∀ (t : Ltc) (h : CmdHdr) (s : State), Suits h .platform → Waits s h →
    ∃ s', exec (.routeDrain t h 0) s = .next s' ∧ Answered s' h Status.OK [] ∧ s'.fab = s.fab ∧
      rd s' Fld.FAB_ROUTE_STATUS_DRAIN_MASK = 0 ∧ SameMemory s s' ∧ SameEngines s s' ∧ SamePlatform s s') ∧
  (∀ (t : Ltc) (d : Drain) (s : State), d ∈ s.fab.drains → d.over s = true → Waits s d.h →
    ∃ s', exec (.drainComplete t) s = .next s' ∧ Answered s' d.h Status.OK [] ∧ d ∉ s'.fab.drains ∧
      (∀ e ∈ s.fab.drains, e.over s = false → e ∈ s'.fab.drains) ∧
      (d.mask = 0xFFFF → rd s Fld.FAB_ROUTE_STATUS_DRAIN_MASK = 0xFFFF → rd s' Fld.FAB_ROUTE_STATUS_DRAINED = 1) ∧
      s'.fab.reqs = s.fab.reqs ∧ s'.link = s.link ∧ SameMemory s s' ∧ SameEngines s s' ∧ SamePlatform s s' ∧ SameModes s s' ∧
      SameRegs (Reg.FAB_ROUTE_STATUS.base :: faultRegs) s s') ∧
  (∀ (t : Ltc) (h : CmdHdr) (epoch first : BitVec 16) (es : List (BitVec 32)) (s : State), h.scopeOk .platform = true →
    h.staged = true → Waits s h → (∀ e ∈ es, bitsOf e.toNat 16 16 = 0) → 1 ≤ es.length → es.length ≤ 1024 →
    first.toNat + es.length ≤ 4096 → stagedEpoch s = some epoch → h.modeGen.toNat = genAfter (appliedGen s) →
    windowOpen s = false → isArmed s = false →
    ∃ s', exec (.routeTableWrite t h epoch first es) s = .next s' ∧ Answered s' h Status.OK [] ∧
      s'.mode.staged = s.mode.staged ++ [⟨h.seq, .routes epoch first es⟩] ∧ s'.mode.applied = s.mode.applied ∧
      appliedGen s' = appliedGen s ∧ SameMemory s s' ∧ SameEngines s s' ∧ SameFabric s s' ∧ SamePlatform s s' ∧
      SameRegs (Reg.CTRL_MODE_STATUS.base :: faultRegs) s s') ∧
  (∀ (t : Ltc) (h : CmdHdr) (epoch : BitVec 16) (s : State), h.scopeOk .platform = true → h.staged = true → Waits s h →
    rdb s Fld.FAB_ROUTE_STATUS_DRAINED = true → epoch.toNat % 16 ≠ s.mode.applied.epoch.toNat % 16 →
    h.modeGen.toNat = genAfter (appliedGen s) → windowOpen s = false → isArmed s = false →
    ∃ s', exec (.routeEpochSet t h epoch) s = .next s' ∧ Answered s' h Status.OK [] ∧ stagedEpoch s' = some epoch ∧
      rd s' Fld.FAB_ROUTE_STATUS_STAGED_EPOCH = epoch.toNat ∧ rd s' Fld.FAB_ROUTE_STATUS_EPOCH_STAGED = 1 ∧
      rd s' Fld.FAB_ROUTE_STATUS_EPOCH = rd s Fld.FAB_ROUTE_STATUS_EPOCH ∧ s'.mode.applied = s.mode.applied ∧
      appliedGen s' = appliedGen s ∧ SameMemory s s' ∧ SameEngines s s' ∧ SameFabric s s' ∧ SamePlatform s s') ∧
  (∀ (t : Ltc) (s : State), s.fab.congAt + windowSlots s ≤ slotNo (adv t s) →
    ∃ s', exec (.congestionWindow t) s = .next s' ∧
      (∀ p, p < 16 → s'.fab.cong.get {} p = { latched := BitVec.ofNat 256 (packBits
        [(32, (s.fab.cong.get {} p).busy.toNat), (32, (s.fab.cong.get {} p).deflOut.toNat),
          (32, (s.fab.cong.get {} p).deflMiss.toNat), (32, (s.fab.cong.get {} p).injWait.toNat), (48, now48 (adv t s)),
          (32, windowSlots s)]) }) ∧
      s' = { adv t s with fab := { s.fab with cong := s'.fab.cong, congAt := slotNo (adv t s) } }) ∧
  (∀ (t : Ltc) (s : State), slotNo (adv t s) < s.fab.congAt + windowSlots s →
    exec (.congestionWindow t) s = .next (adv t s)) ∧
  (∀ (t : Ltc) (h : CmdHdr) (mask : BitVec 16) (s : State), Suits h .platform → Waits s h →
    ∃ s', exec (.congestionRead t h mask) s = .next s' ∧
      Answered s' h Status.OK
        ((setBits 16 mask.toNat).flatMap fun p => leBytes 32 (s.fab.cong.get {} p).latched.toNat) ∧ ControlOnly s s') ∧
  (∀ (t : Ltc) (d : FDie) (port : BitVec 4) (c : Cell) (st : Settings) (s : State), c.cls ≠ 6 →
    onDie d port.toNat = true → crossedOver (adv t s) d = [] → settingsFor s c.gen.toNat = some st → c.repoch.toNat = st.epoch.toNat % 16 → s.ctl.partId = some c.dest →
    encodingOk c = true → (c.enc = true ∨ c.check = cellCrc c) →
    ∃ s', exec (.routerSlot t d [(port, c)]) s = .next s' ∧ s'.out = s.out ++ [.eject port c] ∧ SameFabric s s' ∧ SameMemory s s' ∧
      SameEngines s s' ∧ SamePlatform s s' ∧ s'.mode = s.mode ∧ s'.ctl = s.ctl ∧ s'.regs = s.regs) ∧
  (∀ (t : Ltc) (d : FDie) (port : BitVec 4) (c : Cell) (st : Settings) (s : State), c.cls ≠ 6 →
    onDie d port.toNat = true → crossedOver (adv t s) d = [] → settingsFor s c.gen.toNat = some st →
    c.repoch.toNat = st.epoch.toNat % 16 → s.ctl.partId = some c.dest → c.enc = false → c.check ≠ cellCrc c →
    ∃ s', exec (.routerSlot t d [(port, c)]) s = .next s' ∧ s'.out = s.out ∧
      rd s' Fld.FAB_STATUS_CHECK_FAIL = min 0xFFFF (rd s Fld.FAB_STATUS_CHECK_FAIL + 1) ∧ SameFabric s s' ∧ SameMemory s s' ∧
      SameEngines s s' ∧ SamePlatform s s' ∧ s'.mode = s.mode ∧ s'.ctl = s.ctl ∧ SameRegs [Reg.FAB_STATUS.base] s s') ∧

  (∀ (t : Ltc) (d : FDie) (port : BitVec 4) (c : Cell) (st : Settings) (p : Nat) (s : State), c.cls ≠ 6 →
    onDie d port.toNat = true → crossedOver (adv t s) d = [] → settingsFor s c.gen.toNat = some st → c.repoch.toNat = st.epoch.toNat % 16 → s.ctl.partId ≠ some c.dest →
    c.hopPtr = 31 → c.age ≠ 63 → rtV (st.route c.dest.toNat) = true → p = rtA (st.route c.dest.toNat) →
    onDie d p = true → canTake (adv t s) p c.cls.toNat = true →
    ∃ s' w, exec (.routerSlot t d [(port, c)]) s = .next s' ∧
      s'.out = s.out ++ [.linkCell (BitVec.ofNat 4 p) w { c with age := c.age + 1 }] ∧ w.lseq = (lport s p).next ∧
      (lport s' p).replay = (lport s p).replay ++ [⟨(lport s p).next, { c with age := c.age + 1 }, after (adv t s) 0,
        after (adv t s) 0, none⟩] ∧
      (lport s' p).next = (lport s p).next + 1 ∧ (∀ q, q ≠ p → lport s' q = lport s q) ∧ SameMemory s s' ∧
      SameEngines s s' ∧ SamePlatform s s' ∧ s'.mode = s.mode ∧ s'.ctl = s.ctl) ∧
  (∀ (t : Ltc) (d : FDie) (port : BitVec 4) (c : Cell) (st : Settings) (s : State), c.cls ≠ 6 →
    onDie d port.toNat = true → crossedOver (adv t s) d = [] → settingsFor s c.gen.toNat = some st → c.repoch.toNat = st.epoch.toNat % 16 → s.ctl.partId ≠ some c.dest →
    c.hopPtr = 31 → rtV (st.route c.dest.toNat) = false →
    ∃ s', exec (.routerSlot t d [(port, c)]) s = .next s' ∧ s'.out = s.out ∧
      rd s' Fld.FAB_STATUS_NO_ROUTE = min 0xFFFF (rd s Fld.FAB_STATUS_NO_ROUTE + 1) ∧ SameFabric s s' ∧ SameMemory s s' ∧
      SameEngines s s' ∧ SamePlatform s s' ∧ SameModes s s' ∧ s'.ctl = s.ctl ∧ SameRegs [Reg.FAB_STATUS.base] s s') ∧
  (∀ (t : Ltc) (d : FDie) (port : BitVec 4) (c : Cell) (st : Settings) (s : State),
    onDie d port.toNat = true → crossedOver (adv t s) d = [] → settingsFor s c.gen.toNat = some st → c.repoch.toNat ≠ st.epoch.toNat % 16 →
    ∃ s', exec (.routerSlot t d [(port, c)]) s = .next s' ∧ s'.out = s.out ∧
      rd s' Fld.FAB_STATUS_STALE_EPOCH = min 0xFFFF (rd s Fld.FAB_STATUS_STALE_EPOCH + 1) ∧ SameFabric s s' ∧
      SameMemory s s' ∧ SameEngines s s' ∧ SamePlatform s s' ∧ SameModes s s' ∧ s'.ctl = s.ctl ∧
      SameRegs [Reg.FAB_STATUS.base] s s')

/-- QUEUE_JOIN, SCHEDULER_SLOT, GATE_SWAP, GATE_INTERVAL_END and TRAFFIC_TABLE_WRITE (R307-R320). -/
def Obligations.TrafficControl : Prop :=
  (∀ (t : Ltc) (te : BitVec 10) (c d : Cell) (p : Nat) (path : Option (BitVec 120)) (s : State), (c.cls = 0 ∨ c.cls = 5) →
    outgoing s te.toNat c = some d → requestPort s d.dest.toNat = some (p, path) →
    (tqueue s p te.toNat).cells.length < qMax s p te.toNat → bufferRoom s p te.toNat = true →
    withinLimits s d (s.fab.nextNum.get 0 (outKey d)).toNat = true →
    ∃ s' x, exec (.queueJoin t te c) s = .next s' ∧
      (tqueue s' p te.toNat).cells = (tqueue s p te.toNat).cells ++ [x] ∧ x.num = s.fab.nextNum.get 0 (outKey d) ∧
      x.resend = false ∧ x.cell = { d with sseq := BitVec.ofNat 16 x.num.toNat, src := sourceId s } ∧
      x.cell.payload = c.payload ∧ s'.fab.nextNum.get 0 (outKey d) = s.fab.nextNum.get 0 (outKey d) + 1 ∧
      (∀ u, u ≠ te.toNat → tqueue s' p u = tqueue s p u) ∧ (∀ q, q ≠ p → tportOf s' q = tportOf s q) ∧
      s'.fab.reqs = s.fab.reqs ∧ s'.link = s.link ∧ SameMemory s s' ∧ SameEngines s s' ∧ SamePlatform s s' ∧
      SameModes s s' ∧ s'.ctl = s.ctl ∧ SameRegs [Reg.TC_PORT_STATUS.base + 16 * p] s s') ∧
  (∀ (t : Ltc) (te : BitVec 10) (c : Cell) (s : State), (c.cls = 0 ∨ c.cls = 5) → outgoing s te.toNat c = none →
    exec (.queueJoin t te c) s = .next (bump (adv t s) Fld.SEC_FAB_STATUS_NO_OUT_SLOT)) ∧
  (∀ (t : Ltc) (port : BitVec 4) (c : Cell) (r : List Cell) (s : State), readyAt s port.toNat = c :: r →
    canTake (adv t s) port.toNat c.cls.toNat = true → portWidth s port.toNat ≤ 16 →
    ∃ s' w, exec (.schedulerSlot t port) s = .next s' ∧ s'.out = s.out ++ [.linkCell port w { c with age := 1 }] ∧
      readyAt s' port.toNat = r ∧ s'.fab.reqs = s.fab.reqs ∧ s'.tc = s.tc ∧
      (∀ q, q ≠ port.toNat → lport s' q = lport s q) ∧ SameMemory s s' ∧ SameEngines s s' ∧ SamePlatform s s' ∧
      s'.ctl = s.ctl) ∧
  (∀ (t : Ltc) (port : BitVec 4) (te : Nat) (q : TQueue) (x : QCell) (r : List QCell) (s : State),
    readyAt s port.toNat = [] → pickQueue (adv t s) port.toNat = some (te, q, .nothing) → q.cells = x :: r →
    x.resend = false → canTake (adv t s) port.toNat x.cell.cls.toNat = true → portWidth s port.toNat ≤ 16 →
    ∃ s' w, exec (.schedulerSlot t port) s = .next s' ∧
      s'.out = s.out ++ [.linkCell port w { protect s x.num.toNat (routed s port.toNat x.cell) with age := 1 }] ∧
      (tportOf s' port.toNat).v = q.s ∧ (tqueue s' port.toNat te).cells = r ∧
      (∃ y, s'.fab.reqs = s.fab.reqs ++ [y] ∧ y.num = x.num ∧ y.cell = x.cell ∧ y.port = port ∧
        y.firstSent = after (adv t s) 0) ∧ SameMemory s s' ∧ SameEngines s s' ∧ SamePlatform s s' ∧ s'.ctl = s.ctl) ∧
  (∀ (t : Ltc) (port : BitVec 4) (s : State), readyAt s port.toNat = [] → pickQueue (adv t s) port.toNat = none →
    (portState s port.toNat ≠ 2 ∨ slotFree (adv t s) port.toNat = false) →
    ∃ s', exec (.schedulerSlot t port) s = .next s' ∧ s'.out = s.out ∧ SameFabric s s' ∧ SameMemory s s' ∧
      SameEngines s s' ∧ SamePlatform s s' ∧ SameModes s s' ∧ s'.ctl = s.ctl ∧
      SameRegs [Reg.TC_PORT_STATUS.base + 16 * port.toNat] s s') ∧
  (∀ (t : Ltc) (port : BitVec 4) (s : State), readyAt s port.toNat = [] → pickQueue (adv t s) port.toNat = none →
    portState s port.toNat = 2 → slotFree (adv t s) port.toNat = true →
    ∃ s' w, exec (.schedulerSlot t port) s = .next s' ∧ s'.out = s.out ++ [.linkCell port w (bareCell 0)] ∧ w.kind = 1 ∧
      ((lport s port.toNat).avAt + 15 ≤ slotNo (adv t s) → w.av = true) ∧
      (lport s' port.toNat).replay = (lport s port.toNat).replay ∧ (∀ q, q ≠ port.toNat → lport s' q = lport s q) ∧
      s'.fab = s.fab ∧ s'.tc = s.tc ∧ SameMemory s s' ∧ SameEngines s s' ∧ SamePlatform s s' ∧ SameModes s s' ∧
      s'.ctl = s.ctl ∧
      SameRegs [Reg.TC_PORT_STATUS.base + 16 * port.toNat, Reg.FAB_PORT_STATUS.base + 32 * port.toNat] s s') ∧
  (∀ (t : Ltc) (port : BitVec 4) (e : BitVec 128) (s : State), (tportOf s port.toNat).armed = some e →
    (tportOf s port.toNat).swapAt.toNat ≤ now (adv t s) →
    ∃ s', exec (.gateSwap t port) s = .next s' ∧ (tportOf s' port.toNat).armed = none ∧
      rd s' (Fld.TC_GATE_STATE_BANK port.toNat) = 1 - rd s (Fld.TC_GATE_STATE_BANK port.toNat) ∧
      rd s' (Fld.TC_GATE_STATE_ACTIVE_BASE port.toNat) = bitsOf e.toNat 32 48 ∧
      rd s' (Fld.TC_GATE_STATE_ACTIVE_COUNT port.toNat) = bitsOf e.toNat 24 7 ∧
      rd s' (Fld.TC_GATE_STATE_ARMED port.toNat) = 0 ∧ (tportOf s' port.toNat).cycle.toNat = bitsOf e.toNat 80 24 ∧
      (tportOf s' port.toNat).queues = (tportOf s port.toNat).queues ∧ s'.fab = s.fab ∧ s'.link = s.link ∧
      SameMemory s s' ∧ SameEngines s s' ∧ SamePlatform s s' ∧ SameModes s s' ∧ s'.ctl = s.ctl ∧
      SameRegs [Reg.TC_GATE_STATE.base + 16 * port.toNat] s s') ∧
  (∀ (t : Ltc) (port : BitVec 4) (s : State), exec (.gateIntervalEnd t port) s = .next (adv t s)) ∧
  (∀ (t : Ltc) (h : CmdHdr) (tb : Byte) (first : BitVec 16) (es : List (BitVec 128)) (s : State),
    h.scopeOk .platform = true → h.staged = false → Waits s h → tb.toNat ≤ 3 → 1 ≤ es.length →
    first.toNat + es.length ≤ trafficCount tb.toNat →
    (∀ e ∈ es, trafficRsv tb.toNat e.toNat = false ∧ trafficRange tb.toNat e.toNat = true) →
    (tb.toNat = 2 → ∀ e ∈ es, meterOk e.toNat = true) →
    (tb.toNat = 0 → givesPartitionClass s first.toNat es = false) →
    ∃ s', exec (.trafficTableWrite t h tb first es) s = .next s' ∧ Answered s' h Status.OK [] ∧
      (∀ i, i < es.length → s'.mode.applied.entry tb.toNat (first.toNat + i) = (es.getD i 0).toNat) ∧
      (∀ u i, i < 65536 → (u ≠ tb.toNat ∨ i < first.toNat ∨ first.toNat + es.length ≤ i) →
        s'.mode.applied.entry u i = s.mode.applied.entry u i) ∧
      s'.mode.staged = s.mode.staged ∧ s'.fab = s.fab ∧ s'.link = s.link ∧ SameMemory s s' ∧ SameEngines s s' ∧
      SamePlatform s s') ∧
  (∀ (t : Ltc) (h : CmdHdr) (tb : Byte) (first : BitVec 16) (es : List (BitVec 128)) (s : State),
    h.scopeOk .platform = true → h.staged = true → Waits s h → tb.toNat ≤ 3 → 1 ≤ es.length →
    first.toNat + es.length ≤ trafficCount tb.toNat →
    (∀ e ∈ es, trafficRsv tb.toNat e.toNat = false ∧ trafficRange tb.toNat e.toNat = true) →
    h.modeGen.toNat = genAfter (appliedGen s) → windowOpen s = false → isArmed s = false →
    ∃ s', exec (.trafficTableWrite t h tb first es) s = .next s' ∧ Answered s' h Status.OK [] ∧
      s'.mode.staged = s.mode.staged ++ [⟨h.seq, .traffic tb first es⟩] ∧ s'.mode.applied = s.mode.applied ∧
      SameMemory s s' ∧ SameEngines s s' ∧ SameFabric s s' ∧ SamePlatform s s')

/-- MEM_REQ_READ, MEM_REQ_WRITE, WRITE_MASKED, WRITE_COUNT, MEM_REQ_ATOMIC (R140, R155, R261-R264, R277). -/
def Obligations.FabricMemoryRequests : Prop :=
  (∀ (t : Ltc) (port : BitVec 4) (c p : Cell) (x : Ext) (e : Stream) (n q : Nat) (s : State), NewRequest t port c p 0 1 e n s →
    cellBytes p 0 8 % 64 = 0 → doorbellOf (cellBlock p) = none → tablePort s p.src.toNat = some q →
    linesStatus s p false (blockLines (cellBlock p) p.lines.toNat) = 0 →
    (∀ ln ∈ blockLines (cellBlock p) p.lines.toNat, Plain s ln ∧ HomeOpen s ln) → NotCounting s →
    ∃ s' d, exec (.memReqRead t port c x) s = .next s' ∧ CellQueued d q s s' ∧ IsReply d p 1 0 ∧ d.lines = p.lines ∧
      (∀ i ∈ setBits 8 p.lines.toNat, cellLine (readReply s p d) i = lineOfBits (s.mem.stack.lineBits (8 * cellBlock p + i)) 0) ∧
      PerformedNow p e n s' ∧ StackSameBut [] s s' ∧ RequestOnly s s' ∧ s'.eng = s.eng) ∧
  (∀ (t : Ltc) (port : BitVec 4) (c p : Cell) (x : Ext) (e : Stream) (n : Nat) (s : State), NewRequest t port c p 0 2 e n s →
    doorbellOf (cellBlock p) = none → linesStatus s p true (blockLines (cellBlock p) p.lines.toNat) = 0 →
    (∀ ln ∈ blockLines (cellBlock p) p.lines.toNat, Writable s ln ∧ HomeOpen s ln) → NotCounting s →
    ∃ s', exec (.memReqWrite t port c x) s = .next s' ∧
      (∀ i ∈ setBits 8 p.lines.toNat, s'.mem.stack.lineBits (8 * cellBlock p + i) = bitsOfLine (cellLine p i)) ∧
      StackSameBut (blockLines (cellBlock p) p.lines.toNat) s s' ∧ PerformedNow p e n s' ∧ AckHeld p n s' ∧
      RequestOnly s s' ∧ s'.eng = s.eng ∧ s'.ready = s.ready) ∧
  (∀ (t : Ltc) (port : BitVec 4) (c p : Cell) (x : Ext) (e : Stream) (n : Nat) (s : State), NewRequest t port c p 0 3 e n s →
    doorbellOf (cellBlock p) = none → linesStatus s p true [oneLineOf p] = 0 → Plain s (oneLineOf p) →
    HomeOpen s (oneLineOf p) → NotCounting s →
    ∃ s', exec (.writeMasked t port c x) s = .next s' ∧
      (∀ j, j < 64 → s'.mem.stack.byte (64 * oneLineOf p + j) =
        if bitAt (cellBytes p 64 8) j then BitVec.ofNat 8 (cellBytes p j 1) else s.mem.stack.byte (64 * oneLineOf p + j)) ∧
      StackSameBut [oneLineOf p] s s' ∧ PerformedNow p e n s' ∧ AckHeld p n s' ∧ RequestOnly s s' ∧ s'.eng = s.eng ∧
      s'.ready = s.ready) ∧
  (∀ (t : Ltc) (port : BitVec 4) (c p : Cell) (x : Ext) (e : Stream) (n ring : Nat) (r : Ring) (v : BitVec 32) (s : State),
    NewRequest t port c p 0 3 e n s → doorbellOf (cellBlock p) = some (ring, 0) → p.lines = 1 → cellBytes p 64 8 = 0xFF →
    doorbellRing s ring (cellTenant s p) = some r → r.state ≠ 2 → v = BitVec.ofNat 32 (cellBytes p 0 4) →
    (v - r.tail).toNat < 2 ^ 31 → (v - r.head).toNat ≤ r.slots →
    ∃ s', exec (.writeMasked t port c x) s = .next s' ∧ ringOf s' ring = some { r with tail := v } ∧ s'.mem = s.mem ∧
      PerformedNow p e n s' ∧ AckHeld p n s' ∧ RequestOnly s s' ∧ s'.ready = s.ready) ∧
  (∀ (t : Ltc) (port : BitVec 4) (c p : Cell) (x : Ext) (e : Stream) (n : Nat) (lns : List Nat) (s : State),
    NewRequest t port c p 0 4 e n s → doorbellOf (cellBlock p) = none → counterOf p % 8 = 0 → inDoorbells (counterOf p) = false →
    lns = blockLines (cellBlock p) p.lines.toNat → linesStatus s p true (lns ++ [counterOf p / 64]) = 0 →
    (∀ ln ∈ lns, Writable s ln ∧ HomeOpen s ln) → counterOf p / 64 ∉ lns → Plain s (counterOf p / 64) →
    HomeOpen s (counterOf p / 64) → NotCounting s →
    ∃ s', exec (.writeCount t port c x) s = .next s' ∧
      (∀ i ∈ setBits 8 p.lines.toNat, s'.mem.stack.lineBits (8 * cellBlock p + i) = bitsOfLine (cellLine p i)) ∧
      s'.mem.stack.num (counterOf p) 8 = (s.mem.stack.num (counterOf p) 8 + lns.length) % 2 ^ 64 ∧
      (∀ a, a / 64 ∉ lns → a / 8 ≠ counterOf p / 8 → s'.mem.stack.byte a = s.mem.stack.byte a) ∧ PerformedNow p e n s' ∧
      AckHeld p n s' ∧ RequestOnly s s' ∧ s'.eng = s.eng ∧ s'.ready = s.ready) ∧
  (∀ (t : Ltc) (port : BitVec 4) (c p : Cell) (x : Ext) (e : Stream) (n q w a : Nat) (s : State), NewRequest t port c p 0 5 e n s →
    doorbellOf (cellBlock p) = none → w = 8 * cellBytes p 17 1 → cellBytes p 18 1 % cellBytes p 17 1 = 0 →
    a = 64 * oneLineOf p + cellBytes p 18 1 → linesStatus s p true [oneLineOf p] = 0 → Plain s (oneLineOf p) →
    HomeOpen s (oneLineOf p) → NotCounting s →
    tablePort s p.src.toNat = some q →
    ∃ s' d, exec (.memReqAtomic t port c x) s = .next s' ∧ CellQueued d q s s' ∧ IsReply d p 3 0 ∧
      (readReply s p d).payload.toNat = s.mem.stack.num a (w / 8) ∧ d.plines = 0 ∧
      s'.mem.stack.num a (w / 8) =
        atomicNew (cellBytes p 16 1) w (s.mem.stack.num a (w / 8)) (cellBytes p 0 8) (cellBytes p 8 8) % 2 ^ w ∧
      (∀ b, b < a ∨ a + w / 8 ≤ b → s'.mem.stack.byte b = s.mem.stack.byte b) ∧ PerformedNow p e n s' ∧
      RequestOnly s s' ∧ s'.eng = s.eng) ∧
  (∀ (t : Ltc) (port : BitVec 4) (c p : Cell) (x : Ext) (e : Stream) (n : Nat) (s : State),
    Admitted t port c p 0 2 e n s → e.has n = true →
    ∃ s', exec (.memReqWrite t port c x) s = .next s' ∧ s'.mem = s.mem ∧ s'.coh = s.coh ∧ AckHeld p n s' ∧
      rd s' Fld.FAB_STREAM_STATUS_DUPLICATES =
        min (2 ^ Fld.FAB_STREAM_STATUS_DUPLICATES.w - 1) (rd s Fld.FAB_STREAM_STATUS_DUPLICATES + 1) ∧
      RequestOnly s s' ∧ s'.eng = s.eng)

/-- FENCE, FENCE_GAP, ACK_HOLD, STREAM_ENTRY_FREE and the answers a request gets before its lines are looked at (R263, R277,
R278, R280, R348). -/
def Obligations.StreamsAndFences : Prop :=
  (∀ (t : Ltc) (port : BitVec 4) (c p : Cell) (e : Stream) (n q : Nat) (s : State), NewRequest t port c p 0 6 e n s →
    n = e.base.toNat → tablePort s p.src.toNat = some q →
    ∃ s' d, exec (.fence t port c) s = .next s' ∧ CellQueued d q s s' ∧ IsReply d p 5 0 ∧
      bitsOf (readReply s p d).payload.toNat 0 64 = e.performed.toNat ∧
      bitsOf (readReply s p d).payload.toNat 64 48 = e.base.toNat ∧
      PerformedNow p e n s' ∧ s'.mem = s.mem ∧ s'.coh = s.coh ∧ RequestOnly s s' ∧ s'.eng = s.eng) ∧
  (∀ (t : Ltc) (port : BitVec 4) (c p : Cell) (e : Stream) (n : Nat) (s : State), NewRequest t port c p 0 6 e n s →
    e.base.toNat < n →
    ∃ s' e' f, exec (.fence t port c) s = .next s' ∧ streamOf s' (cellStream p) = some e' ∧ e'.fence = some f ∧
      f.num.toNat = n ∧ f.at_.toNat = now (adv t s) ∧ f.cell = p ∧ e'.performed = e.performed ∧ s'.ready = s.ready ∧
      s'.mem = s.mem ∧ s'.coh = s.coh ∧ RequestOnly s s' ∧ s'.eng = s.eng) ∧
  (∀ (t : Ltc) (src : BitVec 12) (enc : Bool) (owner : BitVec 13) (e : Stream) (f : PendingFence) (q : Nat) (s : State),
    streamOf s (streamKey src enc owner) = some e → e.fence = some f → cellStream f.cell = streamKey src enc owner →
    f.at_.toNat + completionNs s ≤ now (adv t s) → tablePort s f.cell.src.toNat = some q →
    ∃ s' d e', exec (.fenceGap t src enc owner) s = .next s' ∧ CellQueued d q s s' ∧ IsReply d f.cell 5 2 ∧
      bitsOf (readReply s f.cell d).payload.toNat 128 1024 = e.bits.toNat ∧ streamOf s' (streamKey src enc owner) = some e' ∧ e'.fence = none ∧
      e'.performed = e.performed + 1 ∧ s'.mem = s.mem ∧ s'.coh = s.coh ∧ RequestOnly s s' ∧ s'.eng = s.eng) ∧
  (∀ (t : Ltc) (src : BitVec 12) (enc : Bool) (owner : BitVec 13) (e : Stream) (lo q : Nat) (s : State),
    streamOf s (streamKey src enc owner) = some e → (∃ a ∈ e.acks, a.toNat = lo) →
    (∀ a ∈ e.acks, lo ≤ a.toNat ∧ a.toNat < lo + 1024) → e.ackAt.toNat ≤ now (adv t s) → tablePort s src.toNat = some q →
    ∃ s' d e', exec (.ackHold t src enc owner) s = .next s' ∧ CellQueued d q s s' ∧ d.cls = 1 ∧ d.op = 2 ∧ d.dest = src ∧
      d.enc = enc ∧ d.owner = owner ∧ d.sseq.toNat = lo % 65536 ∧
      (∀ i, i < 1024 → (bitAt (readReply s (streamCell s src enc owner lo) d).payload.toNat i = true ↔ ∃ a ∈ e.acks, a.toNat = lo + i)) ∧
      streamOf s' (streamKey src enc owner) = some e' ∧ e'.acks = [] ∧ e'.performed = e.performed ∧ s'.mem = s.mem ∧
      s'.coh = s.coh ∧ RequestOnly s s' ∧ s'.eng = s.eng) ∧
  (∀ (t : Ltc) (src : BitVec 12) (enc : Bool) (owner : BitVec 13) (e : Stream) (s : State),
    streamOf s (streamKey src enc owner) = some e → e.bits = 0 → e.fence = none → e.acks = [] →
    (∀ w ∈ s.fab.waiting, cellStream w.cell ≠ streamKey src enc owner) →
    e.last.toNat + us (rd s Fld.FAB_CTRL_STREAM_HOLD_US) ≤ now (adv t s) →
    ∃ s', exec (.streamEntryFree t src enc owner) s = .next s' ∧ streamOf s' (streamKey src enc owner) = none ∧
      (∀ k, k ≠ streamKey src enc owner → streamOf s' k = streamOf s k) ∧ s'.mem = s.mem ∧ s'.coh = s.coh ∧
      RequestOnly s s' ∧ s'.eng = s.eng) ∧
  (∀ (t : Ltc) (port : BitVec 4) (c p : Cell) (x : Ext) (e : Stream) (n q : Nat) (s : State), c.cls = 0 → c.op = 2 →
    p = plain (adv t s) (requestNonce (adv t s) c) c → cellOk (adv t s) (requestNonce (adv t s) c) c = true →
    s.sec.tampered = true → streamOf s (cellStream p) = some e → n = extendSeq e.base.toNat c.sseq.toNat →
    e.base.toNat + 1024 < 2 ^ 48 → tablePort s p.src.toNat = some q →
    ∃ s' d, exec (.memReqWrite t port c x) s = .next s' ∧ CellQueued d q s s' ∧ IsReply d p 4 0x10 ∧ s'.mem = s.mem ∧
      (e.has n = false → n < e.base.toNat + 1024 → e.fence = none → PerformedNow p e n s') ∧ s'.coh = s.coh ∧
      RequestOnly s s' ∧ s'.eng = s.eng) ∧
  (∀ (t : Ltc) (port : BitVec 4) (c p : Cell) (x : Ext) (e : Stream) (n q : Nat) (s : State), Admitted t port c p 0 2 e n s →
    e.has n = false → e.fence = none → encMissing s p = true → tablePort s p.src.toNat = some q →
    ∃ s' d, exec (.memReqWrite t port c x) s = .next s' ∧ CellQueued d q s s' ∧ IsReply d p 4 0x14 ∧ s'.mem = s.mem ∧
      PerformedNow p e n s' ∧
      rd s' Fld.FAB_STATUS3_ENC_REFUSED =
        min (2 ^ Fld.FAB_STATUS3_ENC_REFUSED.w - 1) (rd s Fld.FAB_STATUS3_ENC_REFUSED + 1) ∧ s'.coh = s.coh ∧
      RequestOnly s s' ∧ s'.eng = s.eng) ∧
  (∀ (t : Ltc) (port : BitVec 4) (c p : Cell) (x : Ext) (e : Stream) (q : Nat) (s : State), c.cls = 0 → c.op = 2 →
    p = plain (adv t s) (requestNonce (adv t s) c) c → cellOk (adv t s) (requestNonce (adv t s) c) c = true →
    s.sec.tampered = false → peerFull s p = false → streamOf s (cellStream p) = some e →
    (meterCell ((settingsFor s c.gen.toNat).getD s.mode.applied) port.toNat (cellTenant s p) p (adv t s)).1 = false →
    e.base.toNat + 1024 ≤ extendSeq e.base.toNat c.sseq.toNat → tablePort s p.src.toNat = some q →
    ∃ s' d, exec (.memReqWrite t port c x) s = .next s' ∧ CellQueued d q s s' ∧ IsReply d p 4 1 ∧ s'.mem = s.mem ∧
      (streamOf s' (cellStream p)).map Stream.performed = some e.performed ∧
      rd s' Fld.FAB_STATUS2_NACK_SENT = min (2 ^ Fld.FAB_STATUS2_NACK_SENT.w - 1) (rd s Fld.FAB_STATUS2_NACK_SENT + 1) ∧
      s'.coh = s.coh ∧ RequestOnly s s' ∧ s'.eng = s.eng)

/-- DATA, ACK, STATUS, FENCE_DONE, RETRY, NACK_BACKOFF, COMPLETION_TIMEOUT (R261, R264, R279, R280). -/
def Obligations.OwnRequests : Prop :=
  (∀ (t : Ltc) (port : BitVec 4) (c p : Cell) (r : Request) (j : Nat) (s : State), ReplyTaken t c p 1 s → j = bitsOf p.addr.toNat 8 6 →
    (s.fab.reqs.find? fun r => r.answeredBy p p.sseq.toNat && r.cell.cls = 0 && r.cell.op = 1) = some r →
    bitAt r.missing.toNat j = true →
    ∃ s', exec (.data t port c) s = .next s' ∧
      (putBit r.missing.toNat j false = 0 → RequestEnded r s s') ∧
      (putBit r.missing.toNat j false ≠ 0 → s'.fab.reqs = s.fab.reqs.map fun y =>
        if y.is r.dest r.enc r.owner r.num then { y with missing := BitVec.ofNat 64 (putBit r.missing.toNat j false) } else y) ∧
      SameMemory s s' ∧ SameEngines s s' ∧ SamePlatform s s' ∧ SameModes s s' ∧ s'.link = s.link ∧ s'.ctl = s.ctl) ∧
  (∀ (t : Ltc) (port : BitVec 4) (c p : Cell) (s : State), ReplyTaken t c p 1 s →
    (s.fab.reqs.find? fun r => r.answeredBy p p.sseq.toNat && r.cell.cls = 0 && r.cell.op = 1) = none →
    exec (.data t port c) s = .next (bump (adv t s) Fld.FAB_STATUS2_LATE_REPLIES)) ∧
  (∀ (t : Ltc) (port : BitVec 4) (c p : Cell) (r : Request) (i : Nat) (s : State), ReplyTaken t c p 2 s → i < 1024 →
    p.payload.toNat % 2 ^ 1024 = 2 ^ i →
    (s.fab.reqs.find? fun r => r.answeredBy p ((p.sseq.toNat + i) % 65536) && r.ackable) = some r →
    ∃ s', exec (.ack t port c) s = .next s' ∧ RequestEnded r s s' ∧
      SameMemory s s' ∧ SameEngines s s' ∧ SamePlatform s s' ∧ SameModes s s' ∧ s'.link = s.link ∧ s'.ctl = s.ctl) ∧
  (∀ (t : Ltc) (port : BitVec 4) (c p : Cell) (s : State), ReplyTaken t c p 2 s →
    ∃ s', exec (.ack t port c) s = .next s' ∧
      (∀ r ∈ s'.fab.reqs, r ∈ s.fab.reqs) ∧
      (∀ r ∈ s.fab.reqs,
        (∀ i, i < 1024 → bitAt p.payload.toNat i = true → r.answeredBy p ((p.sseq.toNat + i) % 65536) = false) →
        r ∈ s'.fab.reqs)) ∧
  (∀ (t : Ltc) (port : BitVec 4) (c p : Cell) (r : Request) (s : State), ReplyTaken t c p 4 s →
    (s.fab.reqs.find? fun r => r.answeredBy p p.sseq.toNat) = some r →
    ∃ s', exec (.status t port c) s = .next s' ∧
      (bitsOf p.addr.toNat 0 8 ≠ 1 → RequestEnded r s s') ∧
      (bitsOf p.addr.toNat 0 8 = 1 → ∃ y, requestOf s' r.dest r.enc r.owner r.num = some y ∧ y.nacks = r.nacks + 1 ∧
        y.backoff = true ∧ y.nackAt.toNat = now (adv t s) ∧ y.num = r.num ∧ y.cell = r.cell ∧
        rd s' Fld.FAB_STATUS2_NACK_RECEIVED =
          min (2 ^ Fld.FAB_STATUS2_NACK_RECEIVED.w - 1) (rd s Fld.FAB_STATUS2_NACK_RECEIVED + 1)) ∧
      SameMemory s s' ∧ SameEngines s s' ∧ SamePlatform s s' ∧ SameModes s s' ∧ s'.link = s.link ∧ s'.ctl = s.ctl) ∧
  (∀ (t : Ltc) (port : BitVec 4) (c p : Cell) (r : Request) (s : State), ReplyTaken t c p 5 s →
    (s.fab.reqs.find? fun r => r.answeredBy p p.sseq.toNat && r.cell.cls = 0 && r.cell.op = 6) = some r →
    ∃ s', exec (.fenceDone t port c) s = .next s' ∧ RequestEnded r s s' ∧
      SameMemory s s' ∧ SameEngines s s' ∧ SamePlatform s s' ∧ SameModes s s' ∧ s'.link = s.link ∧ s'.ctl = s.ctl) ∧
  (∀ (t : Ltc) (d : BitVec 12) (e : Bool) (o : BitVec 13) (n : BitVec 48) (r : Request) (s : State),
    requestOf s d e o n = some r → r.waiting = false → r.backoff = false → r.sends ≤ rd s Fld.FAB_CTRL_RETRIES →
    r.lastSent.toNat + us (retryUs s) ≤ now (adv t s) →
    ∃ s', exec (.retry t d e o n) s = .next s' ∧
      (tqueue s' r.port.toNat r.tenant.toNat).cells = (tqueue s r.port.toNat r.tenant.toNat).cells ++ [⟨r.cell, r.num, true, r.atom⟩] ∧
      requestOf s' d e o n = some { r with waiting := true } ∧
      rd s' Fld.FAB_STATUS2_RETRIES_SENT =
        min (2 ^ Fld.FAB_STATUS2_RETRIES_SENT.w - 1) (rd s Fld.FAB_STATUS2_RETRIES_SENT + 1) ∧
      SameMemory s s' ∧ SameEngines s s' ∧ SamePlatform s s' ∧ SameModes s s' ∧ s'.link = s.link ∧ s'.ctl = s.ctl) ∧
  (∀ (t : Ltc) (d : BitVec 12) (e : Bool) (o : BitVec 13) (n : BitVec 48) (r : Request) (s : State),
    requestOf s d e o n = some r → now (adv t s) < r.lastSent.toNat + us (retryUs s) →
    exec (.retry t d e o n) s = .next (adv t s)) ∧
  (∀ (t : Ltc) (d : BitVec 12) (e : Bool) (o : BitVec 13) (n : BitVec 48) (r : Request) (s : State),
    requestOf s d e o n = some r → r.waiting = false → r.backoff = true →
    r.nackAt.toNat + us (2 ^ min (r.nacks - 1) 6) ≤ now (adv t s) →
    ∃ s', exec (.nackBackoff t d e o n) s = .next s' ∧
      (tqueue s' r.port.toNat r.tenant.toNat).cells = (tqueue s r.port.toNat r.tenant.toNat).cells ++ [⟨r.cell, r.num, true, r.atom⟩] ∧
      requestOf s' d e o n = some { r with waiting := true } ∧
      SameMemory s s' ∧ SameEngines s s' ∧ SamePlatform s s' ∧ SameModes s s' ∧ s'.link = s.link ∧ s'.ctl = s.ctl) ∧
  (∀ (t : Ltc) (d : BitVec 12) (e : Bool) (o : BitVec 13) (n : BitVec 48) (r : Request) (s : State),
    requestOf s d e o n = some r → r.firstSent.toNat + completionNs s ≤ now (adv t s) →
    ∃ s', exec (.completionTimeout t d e o n) s = .next s' ∧ RequestEnded r s s' ∧
      SameMemory s s' ∧ SameEngines s s' ∧ SamePlatform s s' ∧ SameModes s s' ∧ s'.link = s.link ∧ s'.ctl = s.ctl) ∧
  (∀ (t : Ltc) (d : BitVec 12) (e : Bool) (o : BitVec 13) (n : BitVec 48) (r : Request) (s : State),
    requestOf s d e o n = some r → now (adv t s) < r.firstSent.toNat + completionNs s →
    exec (.completionTimeout t d e o n) s = .next (adv t s))

/-- RD_SHARED, RD_OWN, UPGRADE, RD_CUR, WR_LINE, ATOMIC at the home and LINE_DATA_FROM_STACK (R127-R141, R148). -/
def Obligations.HomeRequests : Prop :=
  (∀ (t : Ltc) (aid : BitVec 14) (ln : BitVec 34) (s : State), HomeFree aid ln.toNat s → s.coh.dir.find ln.toNat = none →
    ∀ k ∈ [(Instr.rdShared t aid ln, CohOp.rdShared), (Instr.rdOwn t aid ln, .rdOwn), (Instr.upgrade t aid ln, .upgrade),
      (Instr.rdCur t aid ln, .rdCur)],
    ∃ s' tr, exec k.1 s = .next s' ∧ s'.coh.htt.find ln.toNat = some tr ∧ tr.req = { aid := aid, op := k.2 } ∧ tr.st = .hRd ∧
      tr.need = [] ∧ s'.coh.dir = s.coh.dir ∧ s'.out = s.out ∧ s'.mem = s.mem ∧ HomeOnly s s') ∧
  (∀ (t : Ltc) (aid : BitVec 14) (ln : BitVec 34) (e : DirEntry) (targets : List (BitVec 14)) (s : State),
    HomeFree aid ln.toNat s → s.coh.dir.find ln.toNat = some e → e.owned = false →
    targets = ((holders s e).filter (· ≠ aid)).filter (fun a => !isDead s a) → targets ≠ [] →
    ∀ k ∈ [(Instr.rdOwn t aid ln, CohOp.rdOwn), (Instr.upgrade t aid ln, .upgrade)],
    ∃ s' tr, exec k.1 s = .next s' ∧ s'.coh.htt.find ln.toNat = some tr ∧ tr.req = { aid := aid, op := k.2 } ∧ tr.st = .hInv ∧
      tr.need = targets ∧ s'.out = s.out ++ targets.map (fun a => .snoop "SNP_INV" a ln) ∧ s'.coh.dir = s.coh.dir ∧
      s'.mem = s.mem ∧ HomeOnly s s') ∧
  (∀ (t : Ltc) (aid o : BitVec 14) (ln : BitVec 34) (s : State), HomeFree aid ln.toNat s → dirOwner s ln.toNat = some o →
    isDead s o = false →
    ∀ k ∈ [(Instr.rdShared t aid ln, CohOp.rdShared, "SNP_SHARED"), (Instr.rdCur t aid ln, .rdCur, "SNP_CUR"),
      (Instr.rdOwn t aid ln, .rdOwn, "SNP_INV"), (Instr.upgrade t aid ln, .upgrade, "SNP_INV")],
    ∃ s' tr, exec k.1 s = .next s' ∧ s'.coh.htt.find ln.toNat = some tr ∧ tr.req = { aid := aid, op := k.2.1 } ∧ tr.st = .hRecall ∧
      tr.need = [o] ∧ s'.out = s.out ++ [.snoop k.2.2 o ln] ∧ s'.coh.dir = s.coh.dir ∧ s'.mem = s.mem ∧ HomeOnly s s') ∧
  (∀ (t : Ltc) (aid : BitVec 14) (ln : BitVec 34) (e : DirEntry) (s : State), HomeFree aid ln.toNat s →
    s.coh.dir.find ln.toNat = some e → e.owned = false → e.coarse = false → e.ptrs = [aid] →
    ∃ s', exec (.upgrade t aid ln) s = .next s' ∧ s'.out = s.out ++ [.coh "GRANT_E" aid ln none] ∧
      dirOwner s' ln.toNat = some aid ∧ s'.coh.htt.find ln.toNat = none ∧ s'.mem = s.mem ∧ HomeOnly s s') ∧
  (∀ (t : Ltc) (aid : BitVec 14) (ln : BitVec 34) (mask : BitVec 64) (l : Line) (s : State), HomeFree aid ln.toNat s →
    Plain s ln.toNat →
    ∃ s', exec (.wrLine t aid ln mask l) s = .next s' ∧ s'.out = s.out ++ [.cohCmp aid ln none false] ∧
      (∀ j, j < 64 → s'.mem.stack.byte (64 * ln.toNat + j) =
        if bitAt mask.toNat j then BitVec.ofNat 8 (bitsOf l.data.toNat (8 * j) 8) else s.mem.stack.byte (64 * ln.toNat + j)) ∧
      StackSameBut [ln.toNat] s s' ∧ s'.coh.dir.find ln.toNat = none ∧ HomeOnly s s') ∧
  (∀ (t : Ltc) (aid : BitVec 14) (ln : BitVec 34) (code : BitVec 4) (size8 : Bool) (off : BitVec 6) (operand cmp : Word)
    (s : State), HomeFree aid ln.toNat s → s.coh.dir.find ln.toNat = none → atomicAssigned code.toNat size8 = true →
    off.toNat % (if size8 then 8 else 4) = 0 →
    ∃ s' tr, exec (.homeAtomic t aid ln code size8 off operand cmp) s = .next s' ∧ s'.coh.htt.find ln.toNat = some tr ∧
      tr.req = { aid := aid, op := .atomic code size8 off operand cmp } ∧ tr.st = .hAtomic ∧ s'.out = s.out ∧
      s'.coh.dir = s.coh.dir ∧ s'.mem = s.mem ∧ HomeOnly s s') ∧
  (∀ (t : Ltc) (ln : BitVec 34) (tr : Trans) (code : BitVec 4) (size8 : Bool) (off : BitVec 6) (operand cmp : Word)
    (w a : Nat) (s : State), s.coh.htt.find ln.toNat = some tr → tr.st = .hAtomic →
    tr.req.op = .atomic code size8 off operand cmp → waitsOf s ln.toNat = [] →
    (∀ e ∈ s.coh.htt, e.2.blocked ≠ some ln.toNat) → NoneWaiting s → Plain s ln.toNat → w = (if size8 then 64 else 32) →
    off.toNat % (w / 8) = 0 → a = 64 * ln.toNat + off.toNat →
    ∃ s', exec (.lineDataFromStack t ln) s = .next s' ∧ s'.coh.htt.find ln.toNat = none ∧
      s'.out = s.out ++ [.cohCmp tr.req.aid ln (some (BitVec.ofNat 64 (s.mem.stack.num a (w / 8)))) false] ∧
      s'.mem.stack.num a (w / 8) =
        atomicNew code.toNat w (s.mem.stack.num a (w / 8)) operand.toNat cmp.toNat % 2 ^ w ∧
      (∀ b, b < a ∨ a + w / 8 ≤ b → s'.mem.stack.byte b = s.mem.stack.byte b) ∧ HomeOnly s s') ∧
  (∀ (t : Ltc) (ln : BitVec 34) (tr : Trans) (d : Line) (s : State), s.coh.htt.find ln.toNat = some tr → tr.st = .hRd →
    waitsOf s ln.toNat = [] → (∀ e ∈ s.coh.htt, e.2.blocked ≠ some ln.toNat) → NoneWaiting s → Plain s ln.toNat →
    d = lineOfBits (s.mem.stack.lineBits ln.toNat) 0 →
    ∃ s', exec (.lineDataFromStack t ln) s = .next s' ∧ s'.coh.htt.find ln.toNat = none ∧
      (tr.req.op = .rdShared → s'.out = s.out ++ [.coh "DATA_S" tr.req.aid ln (some d)] ∧ dirOwner s' ln.toNat = none ∧
        (s'.coh.dir.find ln.toNat).map DirEntry.ptrs = some [tr.req.aid]) ∧
      (tr.req.op = .rdOwn ∨ tr.req.op = .upgrade → s'.out = s.out ++ [.coh "DATA_E" tr.req.aid ln (some d)] ∧
        dirOwner s' ln.toNat = some tr.req.aid) ∧
      (tr.req.op = .rdCur → s'.out = s.out ++ [.coh "DATA" tr.req.aid ln (some d)] ∧ s'.coh.dir = s.coh.dir) ∧
      StackSameBut [] s s' ∧ HomeOnly s s') ∧
  (∀ (t : Ltc) (aid : BitVec 14) (ln : BitVec 34) (s : State), NoneWaiting s → stackBytes s ≤ 64 * ln.toNat →
    ∃ s', exec (.rdShared t aid ln) s = .next s' ∧ .cohRefused aid ln 0x10 ∈ s'.out ∧ s'.coh.dir = s.coh.dir ∧
      s'.coh.htt = s.coh.htt ∧ s'.mem = s.mem ∧
      rd s' Fld.XLT_STATUS_INGRESS_REFUSED =
        min (2 ^ Fld.XLT_STATUS_INGRESS_REFUSED.w - 1) (rd s Fld.XLT_STATUS_INGRESS_REFUSED + 1)) ∧
  (∀ (t : Ltc) (aid : BitVec 14) (ln : BitVec 34) (s : State), NoneWaiting s → 64 * ln.toNat < stackBytes s →
    isDead s aid = false → s.sec.tampered = false → isMember s aid = false →
    ∃ s', exec (.rdShared t aid ln) s = .next s' ∧ s'.out = s.out ++ [.cohRefused aid ln 0x15] ∧ s'.coh.dir = s.coh.dir ∧
      s'.coh.htt = s.coh.htt ∧ s'.mem = s.mem ∧
      rd s' Fld.COH_STATUS_NC_REFUSED = min (2 ^ Fld.COH_STATUS_NC_REFUSED.w - 1) (rd s Fld.COH_STATUS_NC_REFUSED + 1)) ∧
  (∀ (t : Ltc) (aid : BitVec 14) (ln : BitVec 34) (r : CohReq) (s : State), NoneWaiting s → 64 * ln.toNat < stackBytes s →
    isDead s aid = false → s.sec.tampered = false → isMember s aid = true → lineBusy s ln.toNat = true →
    r = { aid := aid, op := .rdShared, at_ := after (adv t s) 0 } →
    ∃ s', exec (.rdShared t aid ln) s = .next s' ∧
      waitsOf s' ln.toNat = (waitsOf s ln.toNat).takeWhile (fun q => !q.yields r) ++
        r :: (waitsOf s ln.toNat).dropWhile (fun q => !q.yields r) ∧
      s'.coh.htt = s.coh.htt ∧ s'.coh.dir = s.coh.dir ∧ s'.out = s.out ∧ s'.mem = s.mem) ∧
  (∀ (t : Ltc) (aid : BitVec 14) (ln : BitVec 34) (s : State), NoneWaiting s → 64 * ln.toNat < stackBytes s →
    isDead s aid = false → s.sec.tampered = false → isMember s aid = true → lineBusy s ln.toNat = false →
    homeFull s ln.toNat = true →
    ∃ s', exec (.rdShared t aid ln) s = .next s' ∧ s'.out = s.out ++ [.coh "NACK" aid ln none] ∧ s'.coh.htt = s.coh.htt ∧
      s'.coh.dir = s.coh.dir ∧ s'.mem = s.mem ∧
      rd s' Fld.COH_STATUS_NACKS = min (2 ^ Fld.COH_STATUS_NACKS.w - 1) (rd s Fld.COH_STATUS_NACKS + 1))

/-- EVICT_CLEAN, WRITEBACK, RSP_I, RSP_S, RSP_I_DATA, RSP_S_DATA, RSP_WB_IN_FLIGHT, SNOOP_TIMEOUT (R132-R139, R145). -/
def Obligations.HomeReleasesAndResponses : Prop :=
  (∀ (t : Ltc) (aid : BitVec 14) (ln : BitVec 34) (l : Line) (s : State), 64 * ln.toNat < stackBytes s →
    isDead s aid = false → LineIdle s ln.toNat → dirOwner s ln.toNat = some aid → keyOf s .stack ln.toNat ≠ .lost →
    (ln.toNat, aid) ∉ s.coh.expect → NoneWaiting s →
    ∃ s', exec (.writeback t aid ln l) s = .next s' ∧ s'.out = s.out ++ [.coh "WB_ACK" aid ln none] ∧
      s'.mem.stack.lineBits ln.toNat = bitsOfLine l ∧ StackSameBut [ln.toNat] s s' ∧ s'.coh.dir.find ln.toNat = none ∧
      HomeOnly s s') ∧
  (∀ (t : Ltc) (aid : BitVec 14) (ln : BitVec 34) (s : State), 64 * ln.toNat < stackBytes s → isDead s aid = false →
    LineIdle s ln.toNat → dirOwner s ln.toNat = some aid → (ln.toNat, aid) ∉ s.coh.expect → NoneWaiting s →
    ∃ s', exec (.evictClean t aid ln) s = .next s' ∧ s'.out = s.out ++ [.coh "WB_ACK" aid ln none] ∧ s'.mem = s.mem ∧
      s'.coh.dir.find ln.toNat = none ∧ HomeOnly s s') ∧
  (∀ (t : Ltc) (aid : BitVec 14) (ln : BitVec 34) (s : State), 64 * ln.toNat < stackBytes s → isDead s aid = false →
    (ln.toNat, aid) ∈ s.coh.expect → NoneWaiting s →
    ∃ s', exec (.evictClean t aid ln) s = .next s' ∧ s'.out = s.out ++ [.coh "WB_ACK" aid ln none] ∧ s'.mem = s.mem ∧
      s'.coh.dir = s.coh.dir ∧ s'.coh.expect = s.coh.expect.erase (ln.toNat, aid) ∧ HomeOnly s s') ∧
  (∀ (t : Ltc) (aid : BitVec 14) (ln : BitVec 34) (l : Line) (s : State), 64 * ln.toNat < stackBytes s →
    isDead s aid = false → s.coh.htt.find ln.toNat = none → dirOwner s ln.toNat ≠ some aid →
    (ln.toNat, aid) ∉ s.coh.expect → NoneWaiting s →
    ∃ s', exec (.writeback t aid ln l) s = .next s' ∧ s'.coh = s.coh ∧ s'.mem = s.mem ∧
      FaultCounted 5 2 7 (homeDie s ln.toNat) s' ∧
      rd s' Fld.COH_STATUS2_WB_DISCARDED =
        min (2 ^ Fld.COH_STATUS2_WB_DISCARDED.w - 1) (rd s Fld.COH_STATUS2_WB_DISCARDED + 1)) ∧
  (∀ (t : Ltc) (aid : BitVec 14) (ln : BitVec 34) (l : Line) (tr : Trans) (s : State), Awaits aid ln.toNat tr s →
    tr.need.erase aid ≠ [] →
    ∀ k ∈ [(Instr.rspI t aid ln, { tr with need := tr.need.erase aid }),
      (Instr.rspS t aid ln, { tr with need := tr.need.erase aid, kept := true }),
      (Instr.rspIData t aid ln l, { tr with need := tr.need.erase aid, data := some l }),
      (Instr.rspSData t aid ln l, { tr with need := tr.need.erase aid, data := some l, kept := true })],
    ∃ s', exec k.1 s = .next s' ∧ s'.coh.htt.find ln.toNat = some k.2 ∧ s'.out = s.out ∧ s'.mem = s.mem ∧
      (∀ n, n ≠ ln.toNat → s'.coh.dir.find n = s.coh.dir.find n) ∧ HomeOnly s s') ∧
  (∀ (t : Ltc) (aid : BitVec 14) (ln : BitVec 34) (tr : Trans) (s : State), AwaitsLast aid ln.toNat tr s →
    tr.req.op = .rdOwn → tr.data = none → tr.st = .hInv → dirOwner s ln.toNat ≠ some aid →
    ∃ s' tr', exec (.rspI t aid ln) s = .next s' ∧ s'.coh.htt.find ln.toNat = some tr' ∧ tr'.st = .hRd ∧ tr'.req = tr.req ∧
      s'.out = s.out ∧ s'.mem = s.mem ∧ HomeOnly s s') ∧
  (∀ (t : Ltc) (aid : BitVec 14) (ln : BitVec 34) (tr : Trans) (s : State), AwaitsLast aid ln.toNat tr s →
    tr.req.op = .rdCur → tr.data = none → tr.st = .hRecall →
    ∃ s' tr', exec (.rspS t aid ln) s = .next s' ∧ s'.coh.htt.find ln.toNat = some tr' ∧ tr'.st = .hRd ∧ tr'.req = tr.req ∧
      s'.coh.dir = s.coh.dir ∧ s'.out = s.out ∧ s'.mem = s.mem ∧ HomeOnly s s') ∧
  (∀ (t : Ltc) (aid : BitVec 14) (ln : BitVec 34) (l : Line) (tr : Trans) (s : State), AwaitsLast aid ln.toNat tr s →
    tr.req.op = .rdOwn → tr.written = false → tr.st = .hRecall → dirOwner s ln.toNat = some aid →
    keyOf s .stack ln.toNat ≠ .lost →
    ∃ s', exec (.rspIData t aid ln l) s = .next s' ∧ s'.out = s.out ++ [.coh "DATA_E" tr.req.aid ln (some l)] ∧
      s'.mem.stack.lineBits ln.toNat = bitsOfLine l ∧ StackSameBut [ln.toNat] s s' ∧
      dirOwner s' ln.toNat = some tr.req.aid ∧ s'.coh.htt.find ln.toNat = none ∧ HomeOnly s s') ∧
  (∀ (t : Ltc) (aid : BitVec 14) (ln : BitVec 34) (l : Line) (tr : Trans) (e : DirEntry) (s : State),
    AwaitsLast aid ln.toNat tr s → tr.req.op = .rdShared → tr.written = false → tr.st = .hRecall → tr.req.aid ≠ aid →
    s.coh.dir.find ln.toNat = some e → e.owned = true → e.ptrs = [aid] → keyOf s .stack ln.toNat ≠ .lost →
    ∃ s', exec (.rspSData t aid ln l) s = .next s' ∧ s'.out = s.out ++ [.coh "DATA_S" tr.req.aid ln (some l)] ∧
      s'.mem.stack.lineBits ln.toNat = bitsOfLine l ∧ StackSameBut [ln.toNat] s s' ∧ dirOwner s' ln.toNat = none ∧
      (s'.coh.dir.find ln.toNat).map DirEntry.ptrs = some [aid, tr.req.aid] ∧ s'.coh.htt.find ln.toNat = none ∧
      HomeOnly s s') ∧
  (∀ (t : Ltc) (aid : BitVec 14) (ln : BitVec 34) (tr : Trans) (s : State), Awaits aid ln.toNat tr s → aid ∉ tr.early →
    ∃ s', exec (.rspWbInFlight t aid ln true) s = .next s' ∧ s'.coh.htt.find ln.toNat =
      some { tr with need := tr.need.erase aid, wb := tr.wb ++ [aid], st := .hWbwait } ∧ s'.coh.dir = s.coh.dir ∧
      s'.out = s.out ∧ s'.mem = s.mem ∧ HomeOnly s s') ∧
  (∀ (t : Ltc) (aid : BitVec 14) (ln : BitVec 34) (tr : Trans) (s : State), Awaits aid ln.toNat tr s → aid ∉ tr.early →
    tr.need.erase aid ≠ [] →
    ∃ s', exec (.rspWbInFlight t aid ln false) s = .next s' ∧
      s'.coh.htt.find ln.toNat = some { tr with need := tr.need.erase aid } ∧
      s'.coh.expect = s.coh.expect ++ [(ln.toNat, aid)] ∧ s'.out = s.out ∧ s'.mem = s.mem ∧ HomeOnly s s') ∧
  (∀ (t : Ltc) (aid : BitVec 14) (ln : BitVec 34) (tr : Trans) (s : State), s.coh.htt.find ln.toNat = some tr →
    aid ∈ tr.need → aid ∉ tr.reported → tr.since.toNat + us (snoopLimit s) ≤ now (adv t s) →
    ∃ s', exec (.snoopTimeout t ln aid) s = .next s' ∧
      s'.coh.htt.find ln.toNat = some { tr with reported := tr.reported ++ [aid] } ∧
      FaultCounted 5 1 7 (homeDie s ln.toNat) s' ∧ s'.coh.dir = s.coh.dir ∧ s'.mem = s.mem ∧
      rd s' Fld.COH_STATUS_SNOOP_TIMEOUTS =
        min (2 ^ Fld.COH_STATUS_SNOOP_TIMEOUTS.w - 1) (rd s Fld.COH_STATUS_SNOOP_TIMEOUTS + 1)) ∧
  (∀ (t : Ltc) (aid : BitVec 14) (ln : BitVec 34) (tr : Trans) (s : State), s.coh.htt.find ln.toNat = some tr →
    aid ∈ tr.reported → exec (.snoopTimeout t ln aid) s = .next (adv t s))

/-- SNP_INV, SNP_SHARED, SNP_CUR, DATA_S, DATA_E, GRANT_E, CMP, WB_ACK, NACK, REFUSED, NACK_BACKOFF at a cache of this part (R132-R136, R141,
R148). -/
def Obligations.EngineLineCaches : Prop :=
  (∀ (t : Ltc) (die : BitVec 1) (ln : BitVec 34) (k : Nat) (s : State), k = elcKey die.toNat ln.toNat →
    s.coh.evicting.find k = none → s.coh.pend.find k = none → s.coh.elc.find k = none →
    ∀ i ∈ [Instr.snpInv t die ln, .snpShared t die ln, .snpCur t die ln],
      exec i s = .next { adv t s with out := s.out ++ [.coh "RSP_I" (ownAid s die.toNat) ln none] }) ∧
  (∀ (t : Ltc) (die : BitVec 1) (ln : BitVec 34) (k : Nat) (x : ElcLine) (s : State), k = elcKey die.toNat ln.toNat →
    s.coh.evicting.find k = none → s.coh.pend.find k = none → s.coh.elc.find k = some x →
    (∃ s', exec (.snpInv t die ln) s = .next s' ∧ s'.coh.elc.find k = none ∧ s'.mem = s.mem ∧ s'.eng = s.eng ∧
      s'.out = s.out ++ [if x.st = .m then .coh "RSP_I_DATA" (ownAid s die.toNat) ln (some x.line)
        else .coh "RSP_I" (ownAid s die.toNat) ln none]) ∧
    (∃ s' y, exec (.snpShared t die ln) s = .next s' ∧ s'.coh.elc.find k = some y ∧ y.st = .s ∧ y.line = x.line ∧
      s'.mem = s.mem ∧ s'.eng = s.eng ∧
      s'.out = s.out ++ [if x.st = .m then .coh "RSP_S_DATA" (ownAid s die.toNat) ln (some x.line)
        else .coh "RSP_S" (ownAid s die.toNat) ln none]) ∧
    (∃ s', exec (.snpCur t die ln) s = .next s' ∧ s'.coh = s.coh ∧ s'.mem = s.mem ∧ s'.eng = s.eng ∧
      s'.out = s.out ++ [if x.st = .m then .coh "RSP_S_DATA" (ownAid s die.toNat) ln (some x.line)
        else .coh "RSP_S" (ownAid s die.toNat) ln none])) ∧
  (∀ (t : Ltc) (die : BitVec 1) (ln : BitVec 34) (l : Option Line) (s : State),
    s.coh.evicting.find (elcKey die.toNat ln.toNat) = some l →
    ∀ i ∈ [Instr.snpInv t die ln, .snpShared t die ln, .snpCur t die ln],
      exec i s = .next { adv t s with out := s.out ++
        [.coh (if l.isSome then "RSP_WB_IN_FLIGHT dirty" else "RSP_WB_IN_FLIGHT clean") (ownAid s die.toNat) ln none] }) ∧
  (∀ (t : Ltc) (die : BitVec 1) (ln : BitVec 34) (k : Nat) (p : ElcPend) (s : State), k = elcKey die.toNat ln.toNat →
    s.coh.evicting.find k = none → s.coh.pend.find k = some p →
    ∀ x ∈ [(Instr.snpInv t die ln, TState.hInv), (.snpShared t die ln, .hRecall), (.snpCur t die ln, .hRd)],
    p.holds x.2 = true →
    ∃ s', exec x.1 s = .next s' ∧ s'.coh.pend.find k = some { p with held := some x.2 } ∧ s'.out = s.out ∧
      s'.coh.elc = s.coh.elc ∧ s'.mem = s.mem ∧ s'.eng = s.eng) ∧
  (∀ (t : Ltc) (die : BitVec 1) (ln : BitVec 34) (k : Nat) (p : ElcPend) (x : ElcLine) (s : State),
    k = elcKey die.toNat ln.toNat → s.coh.evicting.find k = none → s.coh.pend.find k = some p → p.upg = true →
    p.grant = none → s.coh.elc.find k = some x →
    ∃ s', exec (.snpInv t die ln) s = .next s' ∧ s'.coh.elc.find k = none ∧ s'.coh.pend = s.coh.pend ∧ s'.mem = s.mem ∧
      s'.eng = s.eng ∧ s'.out = s.out ++ [if x.st = .m then .coh "RSP_I_DATA" (ownAid s die.toNat) ln (some x.line)
        else .coh "RSP_I" (ownAid s die.toNat) ln none]) ∧
  (∀ (t : Ltc) (die : BitVec 1) (ln : BitVec 34) (k : Nat) (p : ElcPend) (l : Line) (s : State),
    k = elcKey die.toNat ln.toNat → s.coh.pend.find k = some p → p.task = none → p.held = none →
    ElcRoom s die.toNat ln.toNat →
    (∃ s' y, exec (.dataS t die ln l) s = .next s' ∧ s'.coh.elc.find k = some y ∧ y.st = .s ∧ y.line = l ∧
      s'.coh.pend.find k = none ∧ s'.out = s.out ∧ s'.mem = s.mem ∧ s'.eng = s.eng) ∧
    (∃ s' y, exec (.dataE t die ln l) s = .next s' ∧ s'.coh.elc.find k = some y ∧ y.st = .e ∧ y.line = l ∧
      s'.coh.pend.find k = none ∧ s'.out = s.out ∧ s'.mem = s.mem ∧ s'.eng = s.eng) ∧
    (∀ x, s.coh.elc.find k = some x →
      ∃ s' y, exec (.grantE t die ln) s = .next s' ∧ s'.coh.elc.find k = some y ∧ y.st = .e ∧ y.line = x.line ∧
        s'.coh.pend.find k = none ∧ s'.out = s.out ∧ s'.mem = s.mem ∧ s'.eng = s.eng)) ∧
  (∀ (t : Ltc) (die : BitVec 1) (ln : BitVec 34) (k key : Nat) (p : ElcPend) (x : Task) (code : BitVec 4) (size8 : Bool)
    (off : BitVec 6) (operand cmp : Word) (l : Line) (s : State), k = elcKey die.toNat ln.toNat →
    s.coh.pend.find k = some p → p.op = .atomic code size8 off operand cmp → p.task = some key →
    s.eng.tasks.find key = some x → p.held = none → l.poison = 0 →
    ElcRoom s die.toNat ln.toNat →
    ∃ s' y, exec (.dataE t die ln l) s = .next s' ∧ s'.coh.elc.find k = some y ∧ y.st = .m ∧
      y.line = (atomicOnLine code.toNat size8 off.toNat operand.toNat cmp.toNat l).2.2 ∧
      s'.eng.tasks.find key = some { x with
        st := .done 0 (BitVec.ofNat 64 (atomicOnLine code.toNat size8 off.toNat operand.toNat cmp.toNat l).1) } ∧
      s'.coh.pend.find k = none ∧ s'.out = s.out ∧ s'.mem = s.mem) ∧
  (∀ (t : Ltc) (die : BitVec 1) (ln : BitVec 34) (k key : Nat) (p : ElcPend) (x : Task) (old : Word) (st : BitVec 8) (s : State),
    k = elcKey die.toNat ln.toNat → s.coh.pend.find k = some p → p.task = some key → s.eng.tasks.find key = some x →
    (∃ s', exec (.cmp t die ln old) s = .next s' ∧ s'.coh.pend.find k = none ∧
      s'.eng.tasks.find key = some { x with st := .done 0 old } ∧ s'.out = s.out ∧ s'.mem = s.mem) ∧
    (∃ s', exec (.refused t die ln st) s = .next s' ∧ s'.coh.pend.find k = none ∧
      s'.eng.tasks.find key = some { x with st := .done 0x21 0 } ∧ s'.out = s.out ∧ s'.mem = s.mem)) ∧
  (∀ (t : Ltc) (die : BitVec 1) (ln : BitVec 34) (k : Nat) (st : BitVec 8) (s : State), k = elcKey die.toNat ln.toNat →
    (∃ s', exec (.wbAck t die ln) s = .next s' ∧ s'.coh.evicting.find k = none ∧
      (∀ j, j ≠ k → s'.coh.evicting.find j = s.coh.evicting.find j) ∧ s'.coh.elc = s.coh.elc ∧ s'.mem = s.mem ∧
      s'.out = s.out ∧ s'.eng = s.eng) ∧
    (s.coh.pend.find k = none → ∃ s', exec (.refused t die ln st) s = .next s' ∧ s'.coh.evicting.find k = none ∧
      s'.coh.elc = s.coh.elc ∧ s'.mem = s.mem ∧ s'.out = s.out ∧ s'.eng = s.eng)) ∧
  (∀ (t : Ltc) (die : BitVec 1) (ln : BitVec 34) (k : Nat) (p : ElcPend) (s : State), k = elcKey die.toNat ln.toNat →
    s.coh.pend.find k = some p →
    ∃ s' q, exec (.nack t die ln) s = .next s' ∧ s'.coh.pend.find k = some q ∧ q.nacks = p.nacks + 1 ∧ q.op = p.op ∧
      q.retryAt = some (BitVec.ofNat 64 (now (adv t s) + us (2 ^ min p.nacks 6))) ∧ s'.coh.elc = s.coh.elc ∧
      s'.mem = s.mem ∧ s'.out = s.out ∧ s'.eng = s.eng) ∧
  (∀ (t : Ltc) (enc : Bool) (owner : BitVec 13) (num : BitVec 48) (die : BitVec 1) (ln : BitVec 34) (p : ElcPend) (rt : BitVec 64)
    (s : State), num.toNat = elcKey die.toNat ln.toNat → requestOf s (sourceId s) enc owner num = none →
    s.coh.pend.find num.toNat = some p → p.op = .rdOwn → p.retryAt = some rt → rt.toNat ≤ now (adv t s) →
    HomeFree (ownAid s die.toNat) ln.toNat s → s.coh.dir.find ln.toNat = none →
    ∃ s' tr, exec (.nackBackoff t (sourceId s) enc owner num) s = .next s' ∧ s'.coh.htt.find ln.toNat = some tr ∧
      tr.req = { aid := ownAid s die.toNat, op := .rdOwn } ∧ tr.st = .hRd ∧
      s'.coh.pend.find num.toNat = some { p with retryAt := none } ∧ s'.coh.dir = s.coh.dir ∧ s'.out = s.out ∧
      s'.mem = s.mem ∧ HomeOnly s s')

/-- COH_RECLAIM_DECLARE_DEAD, RECLAIM_WALK_DONE, COH_RECLAIM_REVIVE (R146). -/
def Obligations.ReclaimOfDeadAgents : Prop :=
  (∀ (t : Ltc) (aid : BitVec 14) (s : State), aid ∉ s.coh.walks →
    (∀ e ∈ s.coh.htt, aid ∉ e.2.need ∧ aid ∉ e.2.wb) → NoneWaiting s →
    ∃ s', exec (.cohReclaimDeclareDead t aid) s = .next s' ∧ aid ∈ s'.coh.dead ∧ s'.coh.walks = s.coh.walks ++ [aid] ∧
      (∀ a, a ≠ aid → (a ∈ s'.coh.dead ↔ a ∈ s.coh.dead)) ∧ rd s' Fld.COH_RECLAIM_STATUS_AID = aid.toNat ∧
      rd s' Fld.COH_RECLAIM_STATUS_ACTIVE = 1 ∧ rd s' Fld.COH_RECLAIM_STATUS_DONE = 0 ∧ s'.coh.htt = s.coh.htt ∧
      s'.coh.dir = s.coh.dir ∧ s'.mem = s.mem ∧ s'.out = s.out ∧ s'.ctl = s.ctl) ∧
  (∀ (t : Ltc) (aid : BitVec 14) (s : State), aid ∈ s.coh.walks → NoneWaiting s →
    exec (.cohReclaimDeclareDead t aid) s = .next (adv t s) ∧ exec (.cohReclaimRevive t aid) s = .next (adv t s)) ∧
  (∀ (t : Ltc) (aid : BitVec 14) (s : State), aid ∉ s.coh.walks → s.coh.dead.Nodup →
    ∃ s', exec (.cohReclaimRevive t aid) s = .next s' ∧ aid ∉ s'.coh.dead ∧
      (∀ a, a ≠ aid → (a ∈ s'.coh.dead ↔ a ∈ s.coh.dead)) ∧ s'.coh.dir = s.coh.dir ∧ s'.coh.htt = s.coh.htt ∧
      s'.mem = s.mem ∧ s'.regs = s.regs ∧ s'.out = s.out ∧ s'.ctl = s.ctl) ∧
  (∀ (t : Ltc) (a : BitVec 14) (rest : List (BitVec 14)) (s : State), s.coh.walks = a :: rest → s.coh.dir.wf = true → NoneWaiting s →
    ∃ s', exec (.reclaimWalkDone t) s = .next s' ∧ s'.coh.walks = rest ∧
      (∀ ln, dirOwner s ln = some a → s'.coh.dir.find ln = none) ∧
      (∀ ln, dirOwner s ln = some a → lossOf s .stack ln = none → (readLine .stack ln s').1.poison = 255) ∧
      (∀ ln e, s.coh.dir.find ln = some e → e.owned = false → a ∈ e.ptrs →
        (s'.coh.dir.find ln = none ∨ ∃ e', s'.coh.dir.find ln = some e' ∧ e'.ptrs = e.ptrs.erase a)) ∧
      (∀ ln e, s.coh.dir.find ln = some e → a ∉ e.ptrs → s'.coh.dir.find ln = some e) ∧
      rd s' Fld.COH_RECLAIM_STATUS_ACTIVE = (if rest = [] then 0 else 1) ∧
      (rd s Fld.COH_RECLAIM_STATUS_AID = a.toNat → rd s' Fld.COH_RECLAIM_STATUS_DONE = 1) ∧ s'.coh.htt = s.coh.htt ∧
      s'.coh.dead = s.coh.dead)

/-- RING_CREATE, RING_DESTROY, DB_TAIL, DB_CQ_HEAD, ENGINE_SET_ENABLE, REDUCE_SLOT_RESERVE (R151-R160, R225). -/
def Obligations.RingsAndSlots : Prop :=
  (∀ (t : Ltc) (h : CmdHdr) (e : BitVec 512) (r : Ring) (n : Nat) (s : State), Suits h .tenant → Waits s h →
    r = { entry := e, tenant := BitVec.ofNat 10 h.tenant.toNat } → bitsOf e.toNat 44 4 = 0 → bitsOf e.toNat 76 436 = 0 →
    r.group ≠ 3 → r.group < 5 → freeRing s = some n →
    (ringEntryOk s h.tenant.toNat r = true →
      ∃ s', exec (.ringCreate t h e) s = .next s' ∧ Answered s' h Status.OK (leBytes 2 n) ∧ ringOf s' n = some r ∧
        ringOf s n = none ∧ OtherRings n s s' ∧ s'.eng.runq = s.eng.runq ∧ s'.eng.tasks = s.eng.tasks ∧ EnginesOnly s s' ∧
        s'.tel = s.tel ∧ SameRegs faultRegs s s') ∧
    (ringEntryOk s h.tenant.toNat r = false →
      ∃ s', exec (.ringCreate t h e) s = .next s' ∧ Answered s' h Status.BAD_PARAM [] ∧ ControlOnly s s')) ∧
  (∀ (t : Ltc) (h : CmdHdr) (n : BitVec 16) (r : Ring) (s : State), Suits h .either → Waits s h →
    ringOf s n.toNat = some r → r.state ≠ 3 → (h.tenant = 0xFFF ∨ h.tenant.toNat = r.tenant.toNat) → r.held = [] →
    queuedOf s n.toNat = [] → tasksOf s n.toNat = [] →
    (r.inflight = 0 → ∃ s', exec (.ringDestroy t h n) s = .next s' ∧ Answered s' h Status.OK [] ∧
      ringOf s' n.toNat = none ∧ OtherRings n.toNat s s' ∧ s'.eng.tasks = s.eng.tasks ∧ EnginesOnly s s') ∧
    (r.inflight ≠ 0 → ∃ s', exec (.ringDestroy t h n) s = .next s' ∧ Running s' h ∧
      ringOf s' n.toNat = some { r with state := 3, destroyer := some h } ∧ OtherRings n.toNat s s' ∧
      s'.eng.tasks = s.eng.tasks ∧ EnginesOnly s s')) ∧
  (∀ (t : Ltc) (ring : BitVec 12) (te : BitVec 10) (v : BitVec 32) (r : Ring) (s : State),
    doorbellRing s ring.toNat te.toNat = some r → r.state = 1 →
    ((v - r.tail).toNat < 2 ^ 31 → (v - r.head).toNat ≤ r.slots →
      exec (.dbTail t ring te v) s = .next (putRing ring.toNat { r with tail := v } (adv t s))) ∧
    ((v - r.cqHead).toNat < 2 ^ 31 → (v - r.cqHead).toNat ≤ r.unread →
      exec (.dbCqHead t ring te v) s = .next (putRing ring.toNat { r with cqHead := v } (adv t s))) ∧
    (2 ^ 31 ≤ (v - r.tail).toNat →
      exec (.dbTail t ring te v) s = .next (bump (adv t s) Fld.ENG_STATUS_DOORBELL_STALE)) ∧
    ((v - r.tail).toNat < 2 ^ 31 → r.slots < (v - r.head).toNat →
      ∃ s', exec (.dbTail t ring te v) s = .next s' ∧ ringOf s' ring.toNat = some { r with state := 2 } ∧
        FaultCounted 6 2 8 ring.toNat s' ∧ OtherRings ring.toNat s s' ∧ EnginesOnly s s') ∧
    ((v - r.cqHead).toNat < 2 ^ 31 → r.unread < (v - r.cqHead).toNat →
      ∃ s', exec (.dbCqHead t ring te v) s = .next s' ∧ ringOf s' ring.toNat = some { r with state := 2 } ∧
        FaultCounted 6 2 8 ring.toNat s' ∧ OtherRings ring.toNat s s' ∧ EnginesOnly s s')) ∧
  (∀ (t : Ltc) (ring : BitVec 12) (te : BitVec 10) (v : BitVec 32) (s : State), doorbellRing s ring.toNat te.toNat = none →
    exec (.dbTail t ring te v) s = .next (bump (adv t s) Fld.ENG_STATUS_DOORBELL_REFUSED) ∧
    exec (.dbCqHead t ring te v) s = .next (bump (adv t s) Fld.ENG_STATUS_DOORBELL_REFUSED)) ∧
  (∀ (t : Ltc) (h : CmdHdr) (b : BitVec 512) (s : State), Suits h .platform → Waits s h →
    (dies s = 1 → b.toNat / 2 ^ 256 = 0) → (rd s Fld.PWR_STATUS_STATE = 2 → b.toNat ||| enableBits s = enableBits s) →
    (∀ e ∈ s.eng.rings, e.2.held = []) →
    ∃ s', exec (.engineSetEnable t h b) s = .next s' ∧ Answered s' h Status.OK [] ∧
      (∀ i, i < 8 → rd s' (Fld.ENG_ENABLE_ENABLE i) = bitsOf b.toNat (64 * i) 64) ∧ s'.eng = s.eng ∧ EnginesOnly s s' ∧
      SameRegs ((List.range 8).map (fun i => Reg.ENG_ENABLE.base + 8 * i) ++ faultRegs) s s') ∧
  (∀ (t : Ltc) (h : CmdHdr) (count : BitVec 32) (n : Nat) (s : State), Suits h .tenant → Waits s h → 1 ≤ count.toNat →
    count.toNat ≤ 2048 → s.red.slots.wf = true → reserveRun s count.toNat = some n →
    ∃ s', exec (.reduceSlotReserve t h count) s = .next s' ∧ Answered s' h Status.OK (leBytes 4 n) ∧
      (∀ m, n ≤ m → m < n + count.toNat → slotTenant s m = none ∧ slotTenant s' m = some h.tenant.toNat ∧
        m / slotsPerDie = n / slotsPerDie) ∧
      (∀ m, m < n ∨ n + count.toNat ≤ m → slotTenant s' m = slotTenant s m) ∧ s'.red.runs = s.red.runs ∧
      SameMemory s s' ∧ s'.coh = s.coh ∧ s'.eng = s.eng ∧ s'.cru = s.cru ∧ SameFabric s s' ∧ SamePlatform s s' ∧
      SameModes s s' ∧ SameRegs faultRegs s s') ∧
  (∀ (t : Ltc) (h : CmdHdr) (s : State), Suits h .tenant → Waits s h →
    (holdsArmed s h.tenant.toNat = false → ∃ s', exec (.reduceSlotRelease t h) s = .next s' ∧
      Answered s' h Status.OK (leBytes 4 0xFFFFFFFF) ∧ (∀ m, slotTenant s' m ≠ some h.tenant.toNat) ∧
      s'.red.runs = s.red.runs ∧ SameMemory s s' ∧ s'.coh = s.coh ∧ s'.eng = s.eng ∧ s'.cru = s.cru ∧ SameFabric s s' ∧
      SamePlatform s s' ∧ SameModes s s' ∧ SameRegs faultRegs s s') ∧
    (holdsArmed s h.tenant.toNat = true → ∃ s', exec (.reduceSlotRelease t h) s = .next s' ∧
      Answered s' h Status.IN_USE [] ∧ ControlOnly s s'))

/-- FETCH_BATCH, DESCRIPTOR_ARRIVAL, DESCRIPTOR_BEGIN, STEAL, DESCRIPTOR_COMPLETE, DEADLINE_MISS (R158-R172). -/
def Obligations.DescriptorLife : Prop :=
  (∀ (t : Ltc) (die : BitVec 1) (cl group : BitVec 3) (can : List (Nat × Ring)) (n k : Nat) (r : Ring) (x : Ext)
    (s : State), rd s Fld.PWR_STATUS_STATE ≠ 2 →
    can = s.eng.rings.filter (fun e => e.2.readyFor die.toNat cl.toNat group.toNat &&
      ((placeCluster s e.2).bind fun c => pickEngine s die.toNat c group.toNat).isSome) →
    ((s.eng.served.find (fetchUnit die.toNat cl.toNat group.toNat) = none ∧ can.head? = some (n, r)) ∨
      ∃ l, s.eng.served.find (fetchUnit die.toNat cl.toNat group.toNat) = some l ∧
        (can.find? (fun e => decide (l < e.1)) = some (n, r) ∨ ((∀ e ∈ can, e.1 ≤ l) ∧ can.head? = some (n, r)))) →
    k = min 8 (min r.waiting r.room) →
    (∀ j, j < k → accessAllowed s r.tenant.toNat (r.slotAddr (r.head.toNat + j)) false = true) →
    (∀ j, j < k → ∀ i, i < 2 → HomeTakes s (r.slotAddr (r.head.toNat + j) / 64 + i) ∧
      Plain s (r.slotAddr (r.head.toNat + j) / 64 + i)) →
    ∃ s', exec (.fetchBatch t die cl group x) s = .next s' ∧ ringOf s' n = some { r with
        head := r.head + BitVec.ofNat 32 k, inflight := r.inflight + k, batches := r.batches ++ [(r.head,
          (List.range k).map fun j => (BitVec.ofNat 1024 (s.mem.stack.num (r.slotAddr (r.head.toNat + j)) 128), 0))],
        noEngine := false } ∧
      s'.eng.served.find (fetchUnit die.toNat cl.toNat group.toNat) = some n ∧ s'.eng.runq = s.eng.runq ∧
      s'.eng.tasks = s.eng.tasks ∧ StackSameBut [] s s' ∧ s'.mem.far = s.mem.far ∧ s'.mem.sram = s.mem.sram ∧
      s'.xlt = s.xlt ∧ s'.cru = s.cru ∧ s'.red = s.red ∧ SameFabric s s' ∧ SamePlatform s s' ∧ s'.mode = s.mode) ∧
  (∀ (t : Ltc) (ring : BitVec 12) (x : Ext) (i : BitVec 32) (d : BitVec 1024)
    (rest : List (BitVec 32 × List (BitVec 1024 × BitVec 16))) (r : Ring) (q : QDesc) (s : State),
    ringOf s ring.toNat = some r → r.state = 1 → r.batches = (i, [(d, 0)]) :: rest →
    q = { ring := ring, slot := i, desc := d, tenant := r.tenant, age := s.eng.age, fetchedAt := after (adv t s) 0 } →
    fetchCheck r q 0 = none → descLate (adv t s) q = false →
    ∃ s', exec (.descriptorArrival t ring x) s = .next s' ∧ QueuedIn s' ring.toNat q ∧
      (ringOf s' ring.toNat).map Ring.batches = some rest ∧ s'.eng.tasks = s.eng.tasks ∧ EnginesOnly s s') ∧
  (∀ (t : Ltc) (eng : Eng) (ctx : Nat) (q : QDesc) (r : Ring) (s : State), oldestOf (runqOf s eng.toNat) = some q →
    ringOf s q.ring.toNat = some r → r.state ≠ 3 → engPresent s eng = true →
    engEnabled s eng.die eng.cluster eng.group eng.unit = true → couldBegin s eng.toNat eng.group q = true →
    freeCtx s eng.toNat = some ctx → eng.group ≠ 0 →
    ∃ s' x, exec (.descriptorBegin t eng) s = .next s' ∧ runqOf s' eng.toNat = (runqOf s eng.toNat).erase q ∧
      taskOf s' (taskKey eng.toNat ctx) = some x ∧ x.q.desc = q.desc ∧ x.q.ring = q.ring ∧ x.q.slot = q.slot ∧
      x.recorded = none ∧ x.chunk = none ∧
      ((q.dropLate = false ∨ descLate (adv t s) q = false) → bodyCheck s eng.group q = none → x.st = .ready) ∧
      ((q.dropLate = false ∨ descLate (adv t s) q = false) → ∀ c, bodyCheck s eng.group q = some c →
        ∃ v, x.st = .done (BitVec.ofNat 8 c) v) ∧
      (q.dropLate = true → descLate (adv t s) q = true → x.missed = true ∧ ∃ v, x.st = .done 0x01 v) ∧
      (∀ k, k ≠ taskKey eng.toNat ctx → taskOf s' k = taskOf s k) ∧ s'.eng.rings = s.eng.rings ∧ EnginesOnly s s') ∧
  (∀ (t : Ltc) (eng : Eng) (v : Nat) (q : QDesc) (s : State), engPresent s eng = true →
    engEnabled s eng.die eng.cluster eng.group eng.unit = true → runqOf s eng.toNat = [] →
    stealFrom s eng = some (v, q) →
    ∃ s', exec (.steal t eng) s = .next s' ∧ v ≠ eng.toNat ∧ runqOf s' eng.toNat = [q] ∧
      runqOf s' v = (runqOf s v).erase q ∧ (∀ e, e ≠ v → e ≠ eng.toNat → runqOf s' e = runqOf s e) ∧
      (bitsOf v 4 3 = eng.cluster → rd s' Fld.ENG_STATUS2_STEALS_CLUSTER =
        min (2 ^ Fld.ENG_STATUS2_STEALS_CLUSTER.w - 1) (rd s Fld.ENG_STATUS2_STEALS_CLUSTER + 1)) ∧
      (bitsOf v 4 3 ≠ eng.cluster → rd s' Fld.ENG_STATUS2_STEALS_DIE =
        min (2 ^ Fld.ENG_STATUS2_STEALS_DIE.w - 1) (rd s Fld.ENG_STATUS2_STEALS_DIE + 1)) ∧
      s'.eng.tasks = s.eng.tasks ∧ s'.eng.rings = s.eng.rings ∧ EnginesOnly s s') ∧
  (∀ (t : Ltc) (eng : Eng) (ctx : BitVec 5) (x : Ext) (k : Task) (r : Ring) (c : BitVec 8) (v : Word) (s : State),
    eng.group ≠ 0 → taskOf s (taskKey eng.toNat ctx.toNat) = some k → k.st = .done c v → k.recorded = none →
    k.chunk = none → k.q.counter = false → k.q.tagged = false → runOfTask s (taskKey eng.toNat ctx.toNat) = none →
    ringOf s k.q.ring.toNat = some r → r.state = 1 → HomeTakes s r.recordLine →
    accessAllowed s r.tenant.toNat (r.recordAddr r.written.toNat) true = true →
    Plain s (r.recordAddr r.written.toNat / 64) →
    ∃ s', exec (.descriptorComplete t eng ctx x) s = .next s' ∧ taskOf s' (taskKey eng.toNat ctx.toNat) = none ∧
      s'.mem.stack.num (r.recordAddr r.written.toNat) 32 = recordWord (adv t s) r k.q
        { status := c.toNat, result := v.toNat, poison := k.poison, missed := k.missed || descLate (adv t s) k.q,
          eng := eng.toNat } ∧
      StackSameOutside (r.recordAddr r.written.toNat) 32 s s' ∧
      (ringOf s' k.q.ring.toNat).map (fun y => (y.written, y.inflight)) = some (r.written + 1, r.inflight - 1) ∧
      s'.mem.far = s.mem.far ∧ s'.xlt = s.xlt ∧ SameFabric s s' ∧ SamePlatform s s' ∧ s'.mode = s.mode) ∧
  (∀ (t : Ltc) (ring : BitVec 12) (slot : BitVec 32) (q : QDesc) (stage : Nat) (s : State),
    findDesc s ring.toNat slot = some (q, stage) →
    (q.reported = false → descLate (adv t s) q = true → EventRoom s →
      ∃ s', exec (.deadlineMiss t ring slot) s = .next s' ∧
        (findDesc s' ring.toNat slot).map (fun y => y.1.reported) = some true ∧
        (∃ e ∈ s'.ctl.events, e.cls = 2 ∧ e.tenant.toNat = q.tenant.toNat) ∧
        rd s' Fld.ENG_STATUS_DEADLINE_MISSES =
          min (2 ^ Fld.ENG_STATUS_DEADLINE_MISSES.w - 1) (rd s Fld.ENG_STATUS_DEADLINE_MISSES + 1) ∧ EnginesOnly s s') ∧
    (q.reported = true ∨ descLate (adv t s) q = false → exec (.deadlineMiss t ring slot) s = .next (adv t s)))

/-- FILL, COPY, COMPARE, REDUCE, ATOMIC of a data mover (R174-R179). -/
def Obligations.DataMovers : Prop :=
  (∀ (t : Ltc) (eng : Eng) (ctx : BitVec 5) (x : Ext) (k : Task) (key n vb : Nat) (lb : Nat → Nat) (s : State),
    key = taskKey eng.toNat ctx.toNat → readyTask s eng ctx.toNat 2 1 = some k → turnOf s eng.toNat = some key →
    k.prog = 0 → k.sideA = none → moverA k.q = ⟨0, false, 0⟩ → moverB k.q = ⟨vb, false, 64 * n⟩ → vb % 64 = 0 →
    NoExactSamples s k.q.tenant.toNat → NoLookAhead s eng k.q.tenant.toNat vb n → (∀ i, i < n → CanWrite s eng k.q.tenant.toNat (vb + 64 * i) (lb i)) →
    ∃ s', exec (.fill t eng ctx x) s = .next s' ∧ TaskDone s' key 0 (64 * n) ∧
      (∀ i, i < n → s'.mem.stack.lineBits (lb i / 64) = bitsOfLine (fillLine k.q)) ∧
      StackSameBut ((List.range n).map fun i => lb i / 64) s s' ∧ TaskOnly key s s') ∧
  (∀ (t : Ltc) (eng : Eng) (ctx : BitVec 5) (x : Ext) (k : Task) (key n va vb : Nat) (la lb : Nat → Nat) (s : State),
    key = taskKey eng.toNat ctx.toNat → readyTask s eng ctx.toNat 2 2 = some k → turnOf s eng.toNat = some key →
    k.prog = 0 → k.sideA = none → moverA k.q = ⟨va, false, 64 * n⟩ → moverB k.q = ⟨vb, false, 64 * n⟩ → va % 64 = 0 →
    vb % 64 = 0 → NoExactSamples s k.q.tenant.toNat → NoLookAhead s eng k.q.tenant.toNat va n →
    NoLookAhead s eng k.q.tenant.toNat vb n → (∀ i, i < n → CanRead s eng k.q.tenant.toNat (va + 64 * i) (la i)) →
    (∀ i, i < n → CanWrite s eng k.q.tenant.toNat (vb + 64 * i) (lb i)) →
    (∀ i j, i < n → j < n → la i / 64 ≠ lb j / 64 ∧ (i ≠ j → lb i / 64 ≠ lb j / 64)) →
    ∃ s', exec (.copy t eng ctx x) s = .next s' ∧ TaskDone s' key 0 (64 * n) ∧
      (∀ i, i < n → s'.mem.stack.lineBits (lb i / 64) = s.mem.stack.lineBits (la i / 64)) ∧
      StackSameBut ((List.range n).map fun i => lb i / 64) s s' ∧ TaskOnly key s s') ∧
  (∀ (t : Ltc) (eng : Eng) (ctx : BitVec 5) (x : Ext) (k : Task) (key n va vb : Nat) (la lb : Nat → Nat) (s : State),
    key = taskKey eng.toNat ctx.toNat → readyTask s eng ctx.toNat 2 3 = some k → turnOf s eng.toNat = some key →
    k.prog = 0 → k.sideA = none → moverA k.q = ⟨va, false, 64 * n⟩ → moverB k.q = ⟨vb, false, 64 * n⟩ → va % 64 = 0 →
    vb % 64 = 0 → NoExactSamples s k.q.tenant.toNat → NoLookAhead s eng k.q.tenant.toNat va n →
    NoLookAhead s eng k.q.tenant.toNat vb n → (∀ i, i < n → CanRead s eng k.q.tenant.toNat (va + 64 * i) (la i)) →
    (∀ i, i < n → CanRead s eng k.q.tenant.toNat (vb + 64 * i) (lb i)) →
    ∃ s', exec (.compare t eng ctx x) s = .next s' ∧
      (∀ w, w < 8 * n → WordsDiffer s (mvCmpMeta k.q) (sideWord la w) (sideWord lb w) →
        (∀ v, v < w → ¬ WordsDiffer s (mvCmpMeta k.q) (sideWord la v) (sideWord lb v)) → TaskDone s' key 0 (8 * w)) ∧
      ((∀ w, w < 8 * n → ¬ WordsDiffer s (mvCmpMeta k.q) (sideWord la w) (sideWord lb w)) →
        TaskDone s' key 0 (if n = 0 then 0 else 2 ^ 64 - 1)) ∧
      StackSameBut [] s s' ∧ TaskOnly key s s') ∧
  (∀ (t : Ltc) (eng : Eng) (ctx : BitVec 5) (x : Ext) (k : Task) (key n va vb w : Nat) (la lb : Nat → Nat) (s : State),
    key = taskKey eng.toNat ctx.toNat → readyTask s eng ctx.toNat 2 4 = some k → turnOf s eng.toNat = some key →
    k.prog = 0 → k.sideA = none → moverA k.q = ⟨va, false, 64 * n⟩ → moverB k.q = ⟨vb, false, 64 * n⟩ → va % 64 = 0 →
    vb % 64 = 0 → NoExactSamples s k.q.tenant.toNat → NoLookAhead s eng k.q.tenant.toNat va n →
    NoLookAhead s eng k.q.tenant.toNat vb n → (∀ i, i < n → CanRead s eng k.q.tenant.toNat (va + 64 * i) (la i)) →
    (∀ i, i < n → CanRead s eng k.q.tenant.toNat (vb + 64 * i) (lb i) ∧ CanWrite s eng k.q.tenant.toNat (vb + 64 * i) (lb i)) →
    (∀ i j, i < n → j < n → la i / 64 ≠ lb j / 64 ∧ (i ≠ j → lb i / 64 ≠ lb j / 64)) → w = 512 / redWidth (mvRfmt k.q) →
    ∃ s', exec (.reduce t eng ctx x) s = .next s' ∧ TaskDone s' key 0 (64 * n) ∧
      (∀ i, i < n → s'.mem.stack.num (64 * (lb i / 64)) 64 = redNum (mvRfmt k.q) (mvRfn k.q) w
        (s.mem.stack.num (64 * (lb i / 64)) 64) (s.mem.stack.num (64 * (la i / 64)) 64) % 2 ^ 512) ∧
      StackSameBut ((List.range n).map fun i => lb i / 64) s s' ∧ TaskOnly key s s') ∧
  (∀ (t : Ltc) (eng : Eng) (ctx : BitVec 5) (x : Ext) (k : Task) (key va la w e : Nat) (s : State),
    key = taskKey eng.toNat ctx.toNat → readyTask s eng ctx.toNat 2 5 = some k → turnOf s eng.toNat = some key →
    va = (moverA k.q).addr → w = (if mvAsize k.q then 64 else 32) → va % (w / 8) = 0 →
    L1Maps s eng k.q.tenant.toNat va la true → NoExactSamples s k.q.tenant.toNat → e = elcKey eng.die (la / 64) →
    (∀ c, s.coh.elc.find e = some c → c.st ≠ .s → bitAt c.line.poison.toNat (la % 64 / 8) = false →
      ∃ s' y, exec (.atomic t eng ctx x) s = .next s' ∧
        TaskDone s' key 0 (bitsOf c.line.data.toNat (8 * (la % 64)) w) ∧ s'.coh.elc.find e = some y ∧ y.st = .m ∧
        bitsOf y.line.data.toNat (8 * (la % 64)) w = atomicNew (mvAtop k.q) w
          (bitsOf c.line.data.toNat (8 * (la % 64)) w) (mvOperand k.q) (mvCompare k.q) % 2 ^ w ∧
        s'.mem = s.mem ∧ s'.coh.dir = s.coh.dir ∧ TaskOnly key s s') ∧
    (s.coh.elc.find e = none → s.coh.pend.find e = none → s.coh.evicting.find e = none → lineBusy s (la / 64) = false →
      homeFull s (la / 64) = false → Plain s (la / 64) → ElcRoom s eng.die (la / 64) → (setMates s (la / 64)).length < 16 →
      ∃ s' y, exec (.atomic t eng ctx x) s = .next s' ∧ TaskDone s' key 0 (s.mem.stack.num la (w / 8)) ∧
        s'.coh.elc.find e = some y ∧ y.st = .m ∧ dirOwner s' (la / 64) = some (ownAid s eng.die) ∧
        bitsOf y.line.data.toNat (8 * (la % 64)) w = atomicNew (mvAtop k.q) w
          (s.mem.stack.num la (w / 8)) (mvOperand k.q) (mvCompare k.q) % 2 ^ w ∧
        StackSameBut [] s s' ∧ TaskOnly key s s')) ∧
  (∀ (t : Ltc) (eng : Eng) (ctx : BitVec 5) (x : Ext) (k : Task) (key va vb la lb : Nat) (s : State),
    key = taskKey eng.toNat ctx.toNat → readyTask s eng ctx.toNat 2 2 = some k → turnOf s eng.toNat = some key →
    k.sideA = none → moverA k.q = ⟨va, false, la⟩ → moverB k.q = ⟨vb, false, lb⟩ →
    ((va % 64 ≠ 0 ∨ la % 64 ≠ 0 ∨ vb % 64 ≠ 0 ∨ lb % 64 ≠ 0) →
      ∃ s', exec (.copy t eng ctx x) s = .next s' ∧ TaskDone s' key 0x12 0 ∧ s'.mem = s.mem ∧ s'.coh = s.coh ∧
        TaskOnly key s s') ∧
    (va % 64 = 0 → la % 64 = 0 → vb % 64 = 0 → lb % 64 = 0 → la ≠ lb →
      ∃ s', exec (.copy t eng ctx x) s = .next s' ∧ TaskDone s' key 0x13 0 ∧ s'.mem = s.mem ∧ s'.coh = s.coh ∧
        TaskOnly key s s'))

/-- GATHER and POOL (R215-R221). -/
def Obligations.GatherEngines : Prop :=
  (∀ (t : Ltc) (eng : Eng) (ctx : BitVec 5) (x : Ext) (k : Task) (key va li row : Nat) (s : State),
    key = taskKey eng.toNat ctx.toNat → readyTask s eng ctx.toNat 1 1 = some k → k.prog + 1 = gaCount k.q →
    NoExactSamples s k.q.tenant.toNat → va = gaIdx k.q + idxBytes k.q * k.prog → va % 64 + idxBytes k.q ≤ 64 →
    CanRead s eng k.q.tenant.toNat va li →
    (k.sideA = none → CanTouchSpan s eng k.q.tenant.toNat (gaIdx k.q) (idxBytes k.q * gaCount k.q) false ∧
      CanTouchSpan s eng k.q.tenant.toNat (gaOut k.q) (gaOutBytes k.q * gaCount k.q) true) → row = s.mem.stack.num li (idxBytes k.q) →
    (row < gaRows k.q → ∀ (lt lo : Nat → Nat),
      (∀ j, j < gaLines k.q → CanRead s eng k.q.tenant.toNat (gaTable k.q + 64 * gaLines k.q * row + 64 * j) (lt j) ∧
        ∃ u, ownerOf s (lt j) = .sharedRead u) →
      (∀ j, j < gaLines k.q → CanWrite s eng k.q.tenant.toNat (gaOut k.q + 64 * gaLines k.q * k.prog + 64 * j) (lo j)) →
      (∀ i j, i < gaLines k.q → j < gaLines k.q → i ≠ j → lo i / 64 ≠ lo j / 64) →
      ∃ s', exec (.gather t eng ctx x) s = .next s' ∧ TaskDone s' key 0 (gaCount k.q) ∧
        (∀ j, j < gaLines k.q → s'.mem.stack.lineBits (lo j / 64) = s.mem.stack.lineBits (lt j / 64)) ∧
        StackSameBut ((List.range (gaLines k.q)).map fun j => lo j / 64) s s' ∧
        rd s' Fld.GTH_STATUS_ROWS_READ = min (2 ^ Fld.GTH_STATUS_ROWS_READ.w - 1) (rd s Fld.GTH_STATUS_ROWS_READ + 1) ∧
        TaskOnly key s s') ∧
    (gaRows k.q ≤ row →
      ∃ s', exec (.gather t eng ctx x) s = .next s' ∧ TaskDone s' key 0x46 (gatherFigure k.prog k.prog) ∧
        StackSameBut [] s s' ∧
        rd s' Fld.GTH_STATUS_RANGE_FAULTS =
          min (2 ^ Fld.GTH_STATUS_RANGE_FAULTS.w - 1) (rd s Fld.GTH_STATUS_RANGE_FAULTS + 1) ∧ TaskOnly key s s')) ∧
  (∀ (t : Ltc) (eng : Eng) (ctx : BitVec 5) (x : Ext) (k : Task) (key n : Nat) (l : Nat → Nat) (bags : List (Nat × Nat))
    (s : State), key = taskKey eng.toNat ctx.toNat → readyTask s eng ctx.toNat 1 2 = some k → k.sideA = none →
    NoExactSamples s k.q.tenant.toNat → n = gaCount k.q + 1 → CanReadSpan s eng k.q.tenant.toNat (gaOffs k.q) (4 * n) l →
    CanTouchSpan s eng k.q.tenant.toNat (gaOut k.q) (gaOutBytes k.q * gaCount k.q) true →
    bags = bagsOf ((List.range n).map fun i =>
      (spanAt s (gaOffs k.q) (spanLines (gaOffs k.q) (4 * n)) l).num (4 * i) 4) →
    (∀ b ∈ bags, bagOk b = true →
      CanTouchSpan s eng k.q.tenant.toNat (gaIdx k.q + idxBytes k.q * b.1) (idxBytes k.q * (b.2 - b.1)) false ∧
      CanTouchSpan s eng k.q.tenant.toNat (gaWgt k.q + 4 * b.1) (if gaWgt k.q = 0 then 0 else 4 * (b.2 - b.1)) false) →
    ((∃ b ∈ bags, b.2 < b.1) → ∃ s', exec (.pool t eng ctx x) s = .next s' ∧
      TaskDone s' key 0x48 (gatherFigure 0 noPos) ∧ StackSameBut [] s s' ∧
      rd s' Fld.GTH_STATUS_RANGE_FAULTS =
        min (2 ^ Fld.GTH_STATUS_RANGE_FAULTS.w - 1) (rd s Fld.GTH_STATUS_RANGE_FAULTS + 1) ∧ TaskOnly key s s') ∧
    ((∀ b ∈ bags, b.1 ≤ b.2) → (∃ b ∈ bags, b.1 + 4096 < b.2) → ∃ s', exec (.pool t eng ctx x) s = .next s' ∧
      TaskDone s' key 0x47 (gatherFigure 0 noPos) ∧ StackSameBut [] s s' ∧
      rd s' Fld.GTH_STATUS_RANGE_FAULTS =
        min (2 ^ Fld.GTH_STATUS_RANGE_FAULTS.w - 1) (rd s Fld.GTH_STATUS_RANGE_FAULTS + 1) ∧ TaskOnly key s s')) ∧
  (∀ (t : Ltc) (eng : Eng) (ctx : BitVec 5) (x : Ext) (k : Task) (key lo n m li lw : Nat) (bags : List Extent)
    (lt : Nat → Nat → Nat) (lq : Nat → Nat) (ws : List Nat) (rows : List (List Line)) (s : State),
    key = taskKey eng.toNat ctx.toNat → readyTask s eng ctx.toNat 1 2 = some k → k.prog + 1 = gaCount k.q →
    NoExactSamples s k.q.tenant.toNat → k.sideA = some bags → bags.getD k.prog ⟨0, 0⟩ = ⟨lo, n⟩ →
    m = gaOutBytes k.q / 64 →
    (n ≠ 0 → CanRead s eng k.q.tenant.toNat (gaIdx k.q + idxBytes k.q * lo) li ∧
      (gaIdx k.q + idxBytes k.q * lo) % 64 + idxBytes k.q * n ≤ 64) →
    (n ≠ 0 → gaWgt k.q ≠ 0 → CanRead s eng k.q.tenant.toNat (gaWgt k.q + 4 * lo) lw ∧
      (gaWgt k.q + 4 * lo) % 64 + 4 * n ≤ 64) →
    (∀ i, i < n → s.mem.stack.num (li + idxBytes k.q * i) (idxBytes k.q) < gaRows k.q ∧
      ∀ j, j < gaLines k.q → (∃ u, ownerOf s (lt i j) = .sharedRead u) ∧ CanRead s eng k.q.tenant.toNat
        (gaTable k.q + 64 * gaLines k.q * s.mem.stack.num (li + idxBytes k.q * i) (idxBytes k.q) + 64 * j) (lt i j)) →
    (∀ j, j < m → CanWrite s eng k.q.tenant.toNat (gaOut k.q + gaOutBytes k.q * k.prog + 64 * j) (lq j)) →
    (∀ i j, i < m → j < m → i ≠ j → lq i / 64 ≠ lq j / 64) →
    ws = (if gaWgt k.q = 0 then List.replicate n 0x3F800000
      else (List.range n).map fun i => s.mem.stack.num (lw + 4 * i) 4) →
    rows = (List.range n).map (fun i => (List.range (gaLines k.q)).map fun j =>
      lineOfBits (s.mem.stack.lineBits (lt i j / 64)) 0) →
    ∃ s' race, exec (.pool t eng ctx x) s = .next s' ∧ TaskDone s' key 0 (k.tally + n) ∧
      (∀ j l, (rowLines (poolRow k.q race ws rows).1 (poolRow k.q race ws rows).2 m false)[j]? = some l →
        s'.mem.stack.lineBits (lq j / 64) = bitsOfLine l) ∧
      StackSameBut ((List.range m).map fun j => lq j / 64) s s' ∧ TaskOnly key s s')

/-- SEQCTX_BIND, SEQCTX_RELEASE, LAYER_LOCK_GRANT, APPEND, SKETCH (R188-R200). -/
def Obligations.SequenceContexts : Prop :=
  (∀ (t : Ltc) (h : CmdHdr) (n : BitVec 16) (va : Word) (la : Nat) (c : SeqCtx) (x : Ext) (s : State), Suits h .tenant →
    Waits s h → n.toNat < ctxCount s → ctxOf s n.toNat = none → va.toNat % 1024 = 0 →
    (plainPage h.tenant.toNat va.toNat s).1 = some la → la % 1024 = 0 →
    (∀ i, i < 16 → Plain s (la / 64 + i)) →
    c = { tenant := BitVec.ofNat 10 h.tenant.toNat, va := va, desc := BitVec.ofNat 8192 (s.mem.stack.num la 1024) } →
    (seqDescOk c = true → ∃ s', exec (.seqctxBind t h n va x) s = .next s' ∧ Answered s' h Status.OK [] ∧
      ctxOf s' n.toNat = some c ∧ (∀ m, m ≠ n.toNat → ctxOf s' m = ctxOf s m) ∧ StackSameBut [] s s' ∧
      s'.mem.far = s.mem.far ∧ (∀ l, s'.mem.sram.byte l = s.mem.sram.byte l) ∧ s'.eng = s.eng ∧ s'.red = s.red ∧ SameFabric s s' ∧
      SamePlatform s s' ∧ s'.mode = s.mode) ∧
    (seqDescOk c = false → ∃ s', exec (.seqctxBind t h n va x) s = .next s' ∧ Answered s' h Status.BAD_PARAM [] ∧
      s'.cru = s.cru ∧ StackSameBut [] s s' ∧ s'.eng = s.eng ∧ s'.red = s.red)) ∧
  (∀ (t : Ltc) (h : CmdHdr) (n : BitVec 16) (la : Nat) (c : SeqCtx) (x : Ext) (s : State), Suits h .tenant →
    Waits s h → ctxOf s n.toNat = some c → c.tenant.toNat = h.tenant.toNat → c.releasing = none →
    (∀ k ∈ s.eng.tasks, waitsLock n.toNat k.2 = false) →
    (c.locks = [] → c.lost = false → (plainPage c.tenant.toNat c.va.toNat s).1 = some la → la % 1024 = 0 →
      (∀ i, i < 5 → Plain s (la / 64 + i) ∧ HomeTakes s (la / 64 + i)) →
      ∃ s', exec (.seqctxRelease t h n x) s = .next s' ∧ Answered s' h Status.OK [] ∧ ctxOf s' n.toNat = none ∧
        (∀ m, m ≠ n.toNat → ctxOf s' m = ctxOf s m) ∧
        (∀ j, (32 ≤ j ∧ j < 36 ∨ 64 ≤ j ∧ j < 320) →
          s'.mem.stack.byte (la + j) = BitVec.ofNat 8 (bitsOf c.desc.toNat (8 * j) 8)) ∧
        (∀ a, ¬ (la + 32 ≤ a ∧ a < la + 36 ∨ la + 64 ≤ a ∧ a < la + 320) → s'.mem.stack.byte a = s.mem.stack.byte a) ∧
        s'.eng = s.eng ∧ s'.red = s.red ∧ SameFabric s s' ∧ SamePlatform s s' ∧ s'.mode = s.mode) ∧
    (c.locks ≠ [] → ∃ s', exec (.seqctxRelease t h n x) s = .next s' ∧ Running s' h ∧
      ctxOf s' n.toNat = some { c with releasing := some h } ∧ SameMemory s s' ∧ s'.eng = s.eng ∧ s'.red = s.red ∧
      SameFabric s s' ∧ SamePlatform s s')) ∧
  (∀ (t : Ltc) (n : BitVec 11) (layer : BitVec 6) (c : SeqCtx) (key : Nat) (k : Task) (s : State), s.eng.tasks.wf = true →
    ctxOf s n.toNat = some c → c.locks.find layer.toNat = none →
    firstMin (fun e => e.2.order) (s.eng.tasks.keep fun _ x => x.st = .lock n.toNat layer.toNat) = some (key, k) →
    ∃ s', exec (.layerLockGrant t n layer) s = .next s' ∧ taskOf s' key = some { k with st := .ready, figure := if k.q.op = 3 then 0 else seqFigure s k.q 0 } ∧
      ctxOf s' n.toNat = some { c with locks := c.locks.put layer.toNat key } ∧
      (∀ m, m ≠ key → taskOf s' m = taskOf s m) ∧ s'.eng.rings = s.eng.rings ∧ s'.eng.runq = s.eng.runq ∧ SameMemory s s' ∧
      s'.coh = s.coh ∧ s'.xlt = s.xlt ∧ s'.red = s.red ∧ SameFabric s s' ∧ SamePlatform s s' ∧ SameModes s s' ∧
      s'.regs = s.regs) ∧
  (∀ (t : Ltc) (eng : Eng) (ctx : BitVec 5) (x : Ext) (k : Task) (c : SeqCtx) (key le e tok at_ : Nat) (l : Nat → Nat)
    (news : Span) (s : State), key = taskKey eng.toNat ctx.toNat → tileTask s eng ctx.toNat 2 = some (k, c) →
    k.stage = 1 → k.index + 1 = appendWrites c (cbTokens k.q) → filledBlocks (cbPos k.q) (cbTokens k.q) = [] →
    cbLayer k.q < 64 → NoExactSamples s k.q.tenant.toNat → tok = cbPos k.q + (appendWrite c k.index).1 →
    CanRead s eng k.q.tenant.toNat (entryVa c (cbLayer k.q) (tok / 16)) le → le % 64 ≤ 56 → e = s.mem.stack.num le 8 →
    goodEntry c e → at_ = bitsOf e 0 57 + (appendWrite c k.index).2.1 * c.headBytes +
      16 * (appendWrite c k.index).2.2 * c.rowBytes + tok % 16 * c.rowBytes →
    (∀ i, i < spanLines at_ c.rowBytes → l i % 64 = 0 ∧ Plain s (l i / 64) ∧
      CanWrite s eng k.q.tenant.toNat (if i = 0 then at_ else alignDown at_ 64 + 64 * i)
        (if i = 0 then l 0 + at_ % 64 else l i)) →
    (∀ i j, i < spanLines at_ c.rowBytes → j < spanLines at_ c.rowBytes → i ≠ j → l i ≠ l j) →
    news = newsSpan k.q (areaOf s key) → news.poison = 0 →
    ∃ s', exec (.append t eng ctx x) s = .next s' ∧
      (∀ j, j < c.rowBytes → s'.mem.stack.byte (l ((at_ % 64 + j) / 64) + (at_ % 64 + j) % 64) =
        BitVec.ofNat 8 (news.num (k.index * c.rowBytes + j) 1)) ∧
      (∀ a, (∀ j, j < c.rowBytes → a ≠ l ((at_ % 64 + j) / 64) + (at_ % 64 + j) % 64) →
        s'.mem.stack.byte a = s.mem.stack.byte a) ∧
      (ctxOf s' (cbCtx k.q)).map (fun d => d.fill (cbLayer k.q)) = some ((cbPos k.q + cbTokens k.q) % 2 ^ 32) ∧
      TaskDone s' key 0 ((cbPos k.q + cbTokens k.q) % 2 ^ 32 + 2 ^ 32 * k.tally) ∧ TaskOnly key s s') ∧
  (∀ (t : Ltc) (eng : Eng) (ctx : BitVec 5) (x : Ext) (k : Task) (c : SeqCtx) (key n b h le e base ls : Nat) (l : Nat → Nat)
    (sk : Nat × Nat) (s : State), key = taskKey eng.toNat ctx.toNat → tileTask s eng ctx.toNat 3 = some (k, c) →
    n = min (cbCount k.q) (c.fill (cbLayer k.q) / 16 - cbPos k.q) → k.prog < 2 ^ 32 → k.prog + 1 = n * c.heads →
    b = cbPos k.q + k.prog / c.heads → h = k.prog % c.heads → NoExactSamples s k.q.tenant.toNat → 1 ≤ c.rowBytes →
    CanRead s eng k.q.tenant.toNat (entryVa c (cbLayer k.q) b) le → le % 64 ≤ 56 → e = s.mem.stack.num le 8 →
    goodEntry c e → base = bitsOf e 0 57 + (if c.latent then 0 else h * c.headBytes) →
    CanReadSpan s eng k.q.tenant.toNat base (16 * c.rowBytes) l →
    sk = sketchOf c (cbLayer k.q) h ((List.range 16).map fun r =>
      (spanAt s base (spanLines base (16 * c.rowBytes)) l).row c.kv (r * c.rowBytes) c.dim) →
    CanWrite s eng k.q.tenant.toNat (sketchVa c (cbLayer k.q) b h) ls → Plain s (ls / 64) → ls % 64 ≤ 48 →
    ∃ s', exec (.sketch t eng ctx x) s = .next s' ∧ s'.mem.stack.num ls 16 = sk.1 % 2 ^ 128 ∧ StackSameOutside ls 16 s s' ∧
      TaskDone s' key 0 (k.tally + 1) ∧
      rd s' Fld.CRU_STATUS2_SKETCHES_WRITTEN =
        min (2 ^ Fld.CRU_STATUS2_SKETCHES_WRITTEN.w - 1) (rd s Fld.CRU_STATUS2_SKETCHES_WRITTEN + 1) ∧
      TaskOnly key s s')

/-- ATTEND, MATMUL, CHUNK_TAKE, PARTIAL_MERGE (R196-R211). -/
def Obligations.AttentionAndMatmul : Prop :=
  (∀ (t : Ltc) (eng : Eng) (ctx : BitVec 5) (x : Ext) (k : Task) (c : SeqCtx) (key : Nat) (le : Nat → Nat) (s : State),
    key = taskKey eng.toNat ctx.toNat → tileTask s eng ctx.toNat 1 = some (k, c) → k.stage = 4 →
    NoExactSamples s k.q.tenant.toNat → OnlyPoster key s →
    (∀ b ∈ blocksNeeded (areaOf s key), CanRead s eng k.q.tenant.toNat (entryVa c (cbLayer k.q) b) (le b) ∧ le b % 64 ≤ 56 ∧
      goodEntry c (s.mem.stack.num (le b) 8)) →
    ∃ s', exec (.attend t eng ctx x) s = .next s' ∧ (areaOf s' key).attended = (areaOf s key).attended ∧
      (∀ b ∈ blocksNeeded (areaOf s key), (areaOf s' key).addrs.get 0 b = bitsOf (s.mem.stack.num (le b) 8) 0 57) ∧
      ChunksPosted key eng.cl (attendChunks key k.q (areaOf s' key)) s s' ∧
      (areaOf s' key).rows = List.replicate (attendRows c k.q) (emptyRow c) ∧ s'.cru.ctxs = s.cru.ctxs ∧
      s'.cru.partials = s.cru.partials ∧ StackSameBut [] s s' ∧ TaskOnly key s s') ∧
  (∀ (t : Ltc) (eng : Eng) (ctx : BitVec 5) (x : Ext) (k : Task) (key : Nat) (l : Nat → Nat) (s : State),
    key = taskKey eng.toNat ctx.toNat → readyTask s eng ctx.toNat 0 4 = some k → NoExactSamples s k.q.tenant.toNat →
    OnlyPoster key s → mmA k.q % 64 = 0 →
    (∀ i, i < matmulArea k.q / 64 → CanRead s eng k.q.tenant.toNat (mmA k.q + 64 * i) (l i)) →
    ∃ s', exec (.matmul t eng ctx x) s = .next s' ∧
      (areaOf s' key).lines =
        (List.range (matmulArea k.q / 64)).map (fun i => lineOfBits (s.mem.stack.lineBits (l i / 64)) 0) ∧
      ChunksPosted key eng.cl (matmulChunks key k.q) s s' ∧ s'.cru.ctxs = s.cru.ctxs ∧
      s'.cru.partials = s.cru.partials ∧ StackSameBut [] s s' ∧ TaskOnly key s s') ∧
  (∀ (t : Ltc) (eng : Eng) (x : Ext) (ctx : Nat) (k : Chunk) (rest : List Chunk) (p : Task) (c : SeqCtx)
    (l : Nat → Nat → Nat) (s : State), eng.group = 0 → tileAsleep s eng = false → engPresent s eng = true →
    engEnabled s eng.die eng.cluster 0 eng.unit = true → chunkTasks s eng.toNat = [] → freeCtx s eng.toNat = some ctx →
    (∀ e ∈ s.cru.areas, e.2.own = []) → chunkqOf s eng.cl = k :: rest → taskOf s k.parent = some p →
    mayServe s eng.die eng.cluster 0 p.q.tenant.toNat = true → p.q.op = 1 → ctxOf s (cbCtx p.q) = some c →
    1 ≤ c.headBytes → NoExactSamples s p.q.tenant.toNat →
    (∀ i b va, k.blocks[i]? = some (b, va) →
      CanReadSpan s eng p.q.tenant.toNat (va + if c.latent then 0 else k.head * c.headBytes) c.headBytes (l i)) →
    ∃ s' race, exec (.chunkTake t eng x) s = .next s' ∧
      s'.cru.partials = s.cru.partials ++
        [{ parent := k.parent, unit := eng.unit, head := k.head, poison := false,
           rows := chunkRows c p.q (areaOf s k.parent) race k.head (k.blocks.zipIdx.flatMap fun y =>
             blockTokens c y.1.1 (spanAt s (y.1.2 + if c.latent then 0 else k.head * c.headBytes)
               (spanLines (y.1.2 + if c.latent then 0 else k.head * c.headBytes) c.headBytes) (l y.2))) }] ∧
      chunkqOf s' eng.cl = rest ∧ s'.cru.ctxs = s.cru.ctxs ∧ s'.cru.areas = s.cru.areas ∧
      (∀ m, m ≠ taskKey eng.toNat ctx → taskOf s' m = taskOf s m) ∧ taskOf s' (taskKey eng.toNat ctx) = none ∧
      s'.eng.rings = s.eng.rings ∧ StackSameBut [] s s' ∧ s'.mem.far = s.mem.far ∧ s'.red = s.red ∧ SameFabric s s' ∧
      SamePlatform s s') ∧
  (∀ (t : Ltc) (eng : Eng) (ctx : BitVec 5) (x : Ext) (k : Task) (c : SeqCtx) (key : Nat) (p : Partial) (s : State),
    key = taskKey eng.toNat ctx.toNat → eng.group = 0 → taskOf s key = some k → ctxOf s (cbCtx k.q) = some c →
    k.chunk = none → k.recorded = none → k.q.op = 1 → 5 ≤ k.stage → k.st = .wait →
    (s.cru.partials.find? fun y => y.parent = key) = some p → 1 < (areaOf s key).left →
    ∃ s', exec (.partialMerge t eng ctx x) s = .next s' ∧ s'.cru.partials = s.cru.partials.erase p ∧
      (areaOf s' key).rows = mergePartial c p (areaOf s key).rows ∧ (areaOf s' key).left + 1 = (areaOf s key).left ∧
      (p.poison = true → p.head ∈ (areaOf s' key).poisoned) ∧
      (∀ y, y ≠ key → areaOf s' y = areaOf s y) ∧ s'.eng = s.eng ∧ s'.mem = s.mem ∧ s'.coh = s.coh ∧ s'.red = s.red ∧
      SameFabric s s' ∧ SamePlatform s s' ∧ s'.regs = s.regs)

/-- REDUCE_ARM, CONTRIBUTION, REDUCE_TIMEOUT (R226-R230). -/
def Obligations.ReduceRuns : Prop :=
  (∀ (t : Ltc) (eng : Eng) (ctx : BitVec 5) (x : Ext) (k : Task) (r : Ring) (key : Nat) (s : State),
    key = taskKey eng.toNat ctx.toNat → readyTask s eng ctx.toNat 4 1 = some k → ringOf s k.q.ring.toNat = some r →
    runOfTask s key = none → raLocal k.q = false →
    (slotsCheck s k.q r.die = none → ∃ s', exec (.reduceArm t eng ctx x) s = .next s' ∧
      s'.red.runs.find (raSlot k.q) = some
        { nslots := raNslots k.q, contrib := raContrib k.q, fmt := raFmt k.q, fn := raFn k.q, loc := false,
          elems := raElems k.q, task := key, armed := after (adv t s) 0, limitUs := raTimeout k.q } ∧
      (∀ m, m ≠ raSlot k.q → s'.red.runs.find m = s.red.runs.find m) ∧ s'.red.slots = s.red.slots ∧
      taskOf s' key = some { k with st := .wait } ∧ (∀ m, m ≠ key → taskOf s' m = taskOf s m) ∧
      s'.eng.rings = s.eng.rings ∧ SameMemory s s' ∧ s'.coh = s.coh ∧ s'.cru = s.cru ∧ SameFabric s s' ∧
      SamePlatform s s' ∧ s'.regs = s.regs) ∧
    (∀ c, slotsCheck s k.q r.die = some c → ∃ s', exec (.reduceArm t eng ctx x) s = .next s' ∧ TaskDone s' key c 0 ∧
      s'.red = s.red ∧ TaskOnly key s s')) ∧
  (∀ (t : Ltc) (port : BitVec 4) (c p : Cell) (e : Stream) (n slot co i te : Nat) (r : RedRun) (s : State),
    NewRequest t port c p 5 1 e n s → slot = bitsOf p.addr.toNat 0 12 → co = bitsOf p.addr.toNat 12 8 →
    i = bitsOf p.addr.toNat 20 7 → te = cellTenant s p → slotTenant s slot = some te → runAt s slot = some (slot, r) →
    co < r.contrib → (co = 0 → r.loc = false) → i < r.cells →
    (r.has co i = false → ∃ s', exec (.contribution t port c) s = .next s' ∧
      s'.red.runs.find slot = some (combineCell r co i p.payload.toNat (cellMarks p)) ∧
      (∀ m, m ≠ slot → s'.red.runs.find m = s.red.runs.find m) ∧ s'.red.slots = s.red.slots ∧ PerformedNow p e n s' ∧
      AckHeld p n s' ∧ s'.mem = s.mem ∧ s'.coh = s.coh ∧ s'.xlt = s.xlt ∧ s'.cru = s.cru ∧ s'.ready = s.ready) ∧
    (r.has co i = true → ∃ s', exec (.contribution t port c) s = .next s' ∧ s'.red = s.red ∧ PerformedNow p e n s' ∧
      AckHeld p n s' ∧ RequestOnly s s' ∧ s'.mem = s.mem ∧ s'.eng = s.eng ∧
      rd s' Fld.RED_STATUS_DUPLICATES = min (2 ^ Fld.RED_STATUS_DUPLICATES.w - 1) (rd s Fld.RED_STATUS_DUPLICATES + 1))) ∧
  (∀ (t : Ltc) (port : BitVec 4) (c p : Cell) (e : Stream) (n slot q : Nat) (s : State), NewRequest t port c p 5 1 e n s →
    slot = bitsOf p.addr.toNat 0 12 → tablePort s p.src.toNat = some q →
    (slotTenant s slot ≠ some (cellTenant s p) → ∃ s' d, exec (.contribution t port c) s = .next s' ∧
      CellQueued d q s s' ∧ IsReply d p 4 0x10 ∧ PerformedNow p e n s' ∧ s'.red = s.red ∧ RequestOnly s s' ∧
      s'.mem = s.mem ∧ s'.eng = s.eng ∧
      rd s' Fld.RED_STATUS_REFUSED = min (2 ^ Fld.RED_STATUS_REFUSED.w - 1) (rd s Fld.RED_STATUS_REFUSED + 1)) ∧
    (slotTenant s slot = some (cellTenant s p) → runAt s slot = none → ∃ s' d, exec (.contribution t port c) s = .next s' ∧
      CellQueued d q s s' ∧ IsReply d p 4 1 ∧ s'.red = s.red ∧ RequestOnly s s' ∧ s'.mem = s.mem ∧ s'.eng = s.eng ∧
      (streamOf s' (cellStream p)).map Stream.performed = some e.performed ∧
      rd s' Fld.RED_STATUS_NOT_ARMED = min (2 ^ Fld.RED_STATUS_NOT_ARMED.w - 1) (rd s Fld.RED_STATUS_NOT_ARMED + 1))) ∧
  (∀ (t : Ltc) (eng : Eng) (ctx : BitVec 5) (k : Task) (key n : Nat) (r : RedRun) (s : State),
    key = taskKey eng.toNat ctx.toNat → taskOf s key = some k → runOfTask s key = some (n, r) → k.isDone = false →
    r.complete = false →
    (r.armed.toNat + us r.limitUs ≤ now (adv t s) → ∃ s', exec (.reduceTimeout t eng ctx) s = .next s' ∧
      TaskDone s' key 0x4D r.figure ∧ s'.red.runs.find n = none ∧
      (∀ m, m ≠ n → s'.red.runs.find m = s.red.runs.find m) ∧ s'.red.slots = s.red.slots ∧
      rd s' Fld.RED_STATUS_TIMEOUTS = min (2 ^ Fld.RED_STATUS_TIMEOUTS.w - 1) (rd s Fld.RED_STATUS_TIMEOUTS + 1) ∧
      (∀ m, m ≠ key → taskOf s' m = taskOf s m) ∧ s'.eng.rings = s.eng.rings ∧ SameMemory s s' ∧ s'.coh = s.coh ∧
      SameFabric s s' ∧ SamePlatform s s') ∧
    (now (adv t s) < r.armed.toNat + us r.limitUs → exec (.reduceTimeout t eng ctx) s = .next (adv t s)))

/-- COUNTER_SELECT, SNAPSHOT_READ, DUMP_RING_SET, DUMP, SAMPLING_SET, COALESCE_WINDOW_END (R414-R422). Counters of timed events
are latched as free values (log entry 46). -/
def Obligations.CountersDumpsAndSampling : Prop :=
  (∀ (t : Ltc) (h : CmdHdr) (cl n : Byte) (e : BitVec 16) (s : State), Suits h .either → Waits s h →
    (cl.toNat < clusters s → n.toNat < 16 → eventListed e.toNat = true →
      (h.tenant = 0xFFF ∨ (counterHandle s h.tenant.toNat = true ∧ e.toNat < 0x200)) →
      ∃ s', exec (.counterSelect t h cl n e) s = .next s' ∧ Answered s' h Status.OK [] ∧
        s'.tel.counters.get {} (16 * cl.toNat + n.toNat) = { event := e, tenant := h.tenant } ∧
        (∀ k, k ≠ 16 * cl.toNat + n.toNat → s'.tel.counters.get {} k = s.tel.counters.get {} k) ∧ s'.mode = s.mode ∧
        SameMemory s s' ∧ SameEngines s s' ∧ SameFabric s s' ∧ SamePlatform s s' ∧ SameRegs faultRegs s s') ∧
    ((clusters s ≤ cl.toNat ∨ 16 ≤ n.toNat ∨ eventListed e.toNat = false ∨
        (h.tenant ≠ 0xFFF ∧ (counterHandle s h.tenant.toNat = false ∨ 0x200 ≤ e.toNat))) →
      ∃ s', exec (.counterSelect t h cl n e) s = .next s' ∧ Answered s' h Status.BAD_PARAM [] ∧ ControlOnly s s')) ∧
  (∀ (t : Ltc) (h : CmdHdr) (g : BitVec 16) (s : State), Suits h .platform → Waits s h →
    (g.toNat < clusters s → ∃ s', exec (.snapshotRead t h g) s = .next s' ∧
      Answered s' h Status.OK (snapshotOf g.toNat 1 (adv t s)).1 ∧ SameModes s s' ∧ SameMemory s s' ∧ SameEngines s s' ∧
      SameFabric s s' ∧ SamePlatform s s' ∧ SameRegs faultRegs s s') ∧
    (g = 0x00FF → ∃ s', exec (.snapshotRead t h g) s = .next s' ∧
      Answered s' h Status.OK (snapshotOf 0 (clusters s) (adv t s)).1 ∧ SameModes s s' ∧ SameMemory s s' ∧
      SameEngines s s' ∧ SameFabric s s' ∧ SamePlatform s s' ∧ SameRegs faultRegs s s') ∧
    (clusters s ≤ g.toNat → g ≠ 0x00FF →
      ∃ s', exec (.snapshotRead t h g) s = .next s' ∧ Answered s' h Status.NOT_FOUND [] ∧ ControlOnly s s')) ∧
  (∀ (t : Ltc) (h : CmdHdr) (a : Word) (size period : BitVec 32) (s : State), Suits h .platform → Waits s h →
    (ringParamsOk s a.toNat size.toNat period.toNat = true →
      ∃ s', exec (.dumpRingSet t h a size period) s = .next s' ∧ Answered s' h Status.OK [] ∧
        rd s' Fld.TEL_STATUS_RING_VALID = 1 ∧ rd s' Fld.TEL_STATUS_RING_LOST = 0 ∧
        rd s' Fld.TEL_STATUS_DSEQ_NEXT = rd s Fld.TEL_STATUS_DSEQ_NEXT ∧
        s'.tel = { s.tel with ringAddr := a, ringSize := size, period := period,
                              dumpAt := after (adv t s) (us period.toNat) } ∧
        s'.mode = s.mode ∧ SameMemory s s' ∧ SameEngines s s' ∧ SameFabric s s' ∧ SamePlatform s s' ∧
        SameRegs (Reg.TEL_STATUS.base :: faultRegs) s s') ∧
    (ringParamsOk s a.toNat size.toNat period.toNat = false →
      ∃ s', exec (.dumpRingSet t h a size period) s = .next s' ∧ Answered s' h Status.BAD_PARAM [] ∧ ControlOnly s s')) ∧
  (∀ (t : Ltc) (n : Nat) (s : State), s.tel.period ≠ 0 → s.tel.dumpAt.toNat ≤ now (adv t s) → ringUsable s = true →
    4096 ≤ s.tel.ringSize.toNat → s.tel.ringAddr.toNat % 64 = 0 → n = rd s Fld.TEL_STATUS_DSEQ_NEXT →
    n + 16 ≤ 2 ^ 32 →
    (∀ ln, s.tel.ringAddr.toNat / 64 ≤ ln → 64 * ln < s.tel.ringAddr.toNat + s.tel.ringSize.toNat →
      lineBusy s ln = false ∧ Plain s ln) →
    ∃ s', exec (.dump t) s = .next s' ∧ rd s' Fld.TEL_STATUS_DSEQ_NEXT = (n + clusters s) % 2 ^ 32 ∧
      s'.tel.dumpAt = BitVec.ofNat 64 (s.tel.dumpAt.toNat + us s.tel.period.toNat) ∧
      (∀ c, c < clusters s → ∀ a, a = s.tel.ringAddr.toNat + 256 * ((n + c) % (s.tel.ringSize.toNat / 256)) →
        s'.mem.stack.num a 16 = recordHeader 1 c (n + c) (now48 (adv t s)) ∧
        ∀ i x, i < 16 → x = s.tel.counters.get {} (16 * c + i) → eventTimed x.event.toNat = false →
          s'.mem.stack.num (a + 64 + 8 * i) 8 = x.value.toNat) ∧
      StackSameOutside s.tel.ringAddr.toNat s.tel.ringSize.toNat s s' ∧ s'.mem.far = s.mem.far ∧
      s'.mem.sram = s.mem.sram ∧ s'.eng = s.eng ∧ s'.mode = s.mode ∧ SameFabric s s' ∧ SamePlatform s s') ∧
  (∀ (t : Ltc) (s : State), (s.tel.period = 0 ∨ now (adv t s) < s.tel.dumpAt.toNat) → exec (.dump t) s = .next (adv t s)) ∧
  (∀ (t : Ltc) (h : CmdHdr) (rate : BitVec 32) (s : State), Suits h .either → Waits s h →
    ((bitsOf rate.toNat 5 3 ≠ 0 ∨ bitsOf rate.toNat 13 19 ≠ 0) →
      ∃ s', exec (.samplingSet t h rate) s = .next s' ∧ Answered s' h Status.RSV_NONZERO [] ∧ ControlOnly s s') ∧
    (bitsOf rate.toNat 5 3 = 0 → bitsOf rate.toNat 13 19 = 0 →
      (bitAt rate.toNat 11 = true ∨ (bitsOf rate.toNat 0 5 ≠ 0 ∧ (bitsOf rate.toNat 0 5 < 6 ∨ 24 < bitsOf rate.toNat 0 5))) →
      ∃ s', exec (.samplingSet t h rate) s = .next s' ∧ Answered s' h Status.BAD_PARAM [] ∧ ControlOnly s s') ∧
    (bitsOf rate.toNat 5 3 = 0 → bitsOf rate.toNat 13 19 = 0 → bitAt rate.toNat 11 = false →
      (bitsOf rate.toNat 0 5 = 0 ∨ (6 ≤ bitsOf rate.toNat 0 5 ∧ bitsOf rate.toNat 0 5 ≤ 24)) →
      ((h.tenant = 0xFFF ∨ tenantGrants s h.tenant.toNat 1 = true) →
        ∃ s', exec (.samplingSet t h rate) s = .next s' ∧ Answered s' h Status.OK [] ∧
          s'.tel = { s.tel with rateLog2 := BitVec.ofNat 5 (bitsOf rate.toNat 0 5),
                                groups := BitVec.ofNat 5 (bitsOf rate.toNat 8 5), tenant := h.tenant } ∧
          s'.mode = s.mode ∧ SameMemory s s' ∧ SameEngines s s' ∧ SameFabric s s' ∧ SamePlatform s s' ∧
          SameRegs faultRegs s s') ∧
      (h.tenant ≠ 0xFFF → tenantGrants s h.tenant.toNat 1 = false →
        ∃ s', exec (.samplingSet t h rate) s = .next s' ∧ Answered s' h Status.CONSENT_REQUIRED [] ∧ ControlOnly s s'))) ∧
  (∀ (t : Ltc) (cls code kind : Byte) (i : BitVec 12) (w : Window) (s : State), windowOf s cls code kind i = some w →
    (∀ v ∈ s.ctl.windows, v.cls = cls → v.code = code → v.kind = kind → v.index = i → v = w) →
    w.ends.toNat ≤ now (adv t s) →
    (w.count = 0 → ∃ s', exec (.coalesceWindowEnd t cls code kind i) s = .next s' ∧ windowOf s' cls code kind i = none ∧
      ControlOnly s s' ∧ SameRegs [] s s') ∧
    (w.count ≠ 0 → w.cls ≠ 2 →
      ∃ s', exec (.coalesceWindowEnd t cls code kind i) s = .next s' ∧
        windowOf s' cls code kind i = some { w with ends := after (adv t s) (us 100), count := 0, first := 0 } ∧
        rd s' Fld.FLT_STATUS_NEXT_FREC = (rd s Fld.FLT_STATUS_NEXT_FREC + 1) % 2 ^ 32 ∧
        (∃ r, s'.ctl.log.find (rd s Fld.FLT_STATUS_LOG_NEXT % 512) = some r ∧ bitsOf r.toNat 40 16 = min 0xFFFF w.count ∧
          bitsOf r.toNat 64 32 = rd s Fld.FLT_STATUS_NEXT_FREC) ∧ ControlOnly s s')) ∧
  (∀ (t : Ltc) (cls code kind : Byte) (i : BitVec 12) (s : State), windowOf s cls code kind i = none →
    exec (.coalesceWindowEnd t cls code kind i) s = .next (adv t s))

/-- POWER_STATE_SET, THROTTLE_SET, WARNING_LEVEL_CROSSING, THROTTLE_RELEASE, VR_HOT, VR_HOT_RELEASE, PMBUS_POLL, THERMAL_THROTTLE,
THERMAL_TRIP, BANK_FAULT, RAIL_RESET_LEVEL (R375-R389). -/
def Obligations.PowerAndThermal : Prop :=
  (∀ (t : Ltc) (h : CmdHdr) (n : Byte) (s : State), Suits h .platform → Waits s h →
    (n.toNat ≤ 2 → (n = 2 → enginesStopped s = true) →
      ∃ s', exec (.powerStateSet t h n) s = .next s' ∧ Answered s' h Status.OK [] ∧ rd s' Fld.PWR_STATUS_STATE = n.toNat ∧
        (∀ g, s'.ecc.retained.get false g = decide (n.toNat ≠ 0 ∧ g < 128 * dies s ∧ (n.toNat = 2 ∨ g ∈ idleTiles s))) ∧
        s'.mem.stack = s.mem.stack ∧ s'.mem.far = s.mem.far ∧ s'.mem.sram = s.mem.sram ∧ SameEngines s s' ∧ SameFabric s s' ∧
        SamePlatform s s' ∧ SameModes s s' ∧ SameRegs (Reg.PWR_STATUS.base :: faultRegs) s s') ∧
    (n = 2 → enginesStopped s = false →
      ∃ s', exec (.powerStateSet t h n) s = .next s' ∧ Answered s' h Status.NOT_PERMITTED [] ∧ ControlOnly s s') ∧
    (2 < n.toNat →
      ∃ s', exec (.powerStateSet t h n) s = .next s' ∧ Answered s' h Status.BAD_PARAM [] ∧ ControlOnly s s')) ∧
  (∀ (t : Ltc) (h : CmdHdr) (mask : BitVec 32) (limit : BitVec 16) (s : State), Suits h .platform → Waits s h →
    (throttleOk s mask.toNat limit.toNat = true →
      ∃ s', exec (.throttleSet t h mask limit) s = .next s' ∧ Answered s' h Status.OK [] ∧
        (∀ i, s'.pwr.limits.get 600 i = if bitAt mask.toNat i then limit.toNat else s.pwr.limits.get 600 i) ∧
        s'.pwr = { s.pwr with limits := s'.pwr.limits } ∧ SameMemory s s' ∧ SameEngines s s' ∧ SameFabric s s' ∧
        s'.anv = s.anv ∧ s'.sec = s.sec ∧ SameModes s s' ∧ SameRegs faultRegs s s') ∧
    (throttleOk s mask.toNat limit.toNat = false →
      ∃ s', exec (.throttleSet t h mask limit) s = .next s' ∧ Answered s' h Status.BAD_PARAM [] ∧ ControlOnly s s')) ∧
  (∀ (t : Ltc) (rail : BitVec 4) (mv : BitVec 16) (s : State), rail.toNat < 14 →
    (100 * mv.toNat < 95 * nominalMv s rail.toNat → s.pwr.episodes.find rail.toNat = none →
      ∃ s', exec (.warningLevelCrossing t rail mv) s = .next s' ∧
        s'.pwr.episodes.find rail.toNat = some { start := after (adv t s) 0, last := after (adv t s) 0, minMv := mv.toNat } ∧
        rd s' Fld.PWR_EPISODES_SUPPLY_EPISODES = min 0xFFFF (rd s Fld.PWR_EPISODES_SUPPLY_EPISODES + 1) ∧
        (∀ r, r ≠ rail.toNat → s'.pwr.episodes.find r = s.pwr.episodes.find r) ∧ s'.ctl = s.ctl ∧ SameMemory s s' ∧
        SameEngines s s' ∧ SameFabric s s' ∧ SameModes s s') ∧
    (∀ e, 100 * mv.toNat < 95 * nominalMv s rail.toNat → s.pwr.episodes.find rail.toNat = some e →
      ∃ s', exec (.warningLevelCrossing t rail mv) s = .next s' ∧
        s'.pwr.episodes.find rail.toNat = some { e with last := after (adv t s) 0, minMv := min e.minMv mv.toNat } ∧
        rd s' Fld.PWR_EPISODES_SUPPLY_EPISODES = rd s Fld.PWR_EPISODES_SUPPLY_EPISODES ∧ s'.ctl = s.ctl ∧
        SameMemory s s' ∧ SameEngines s s' ∧ SameFabric s s' ∧ SameModes s s') ∧
    (95 * nominalMv s rail.toNat ≤ 100 * mv.toNat → exec (.warningLevelCrossing t rail mv) s = .next (adv t s))) ∧
  (∀ (t : Ltc) (rail : BitVec 4) (mv : BitVec 16) (ns : BitVec 32) (e : Episode) (s : State),
    s.pwr.episodes.find rail.toNat = some e →
    (e.last.toNat + us 10 ≤ now (adv t s) → EventRoom s →
      ∃ s', exec (.throttleRelease t rail mv ns) s = .next s' ∧ s'.pwr.episodes.find rail.toNat = none ∧
        (∀ r, r ≠ rail.toNat → s'.pwr.episodes.find r = s.pwr.episodes.find r) ∧
        EventHeld s' 6 0xFFF (supplyPayload (adv t s) rail.toNat e (min e.minMv mv.toNat) ns.toNat) ∧ SameMemory s s' ∧
        SameEngines s s' ∧ SameFabric s s' ∧ SameModes s s') ∧
    (now (adv t s) < e.last.toNat + us 10 → exec (.throttleRelease t rail mv ns) s = .next (adv t s))) ∧
  (∀ (t : Ltc) (d : FDie) (s : State),
    (hotLow s d = false → ∃ s' i, exec (.vrHot t d) s = .next s' ∧ hotLow s' d = true ∧ hotLow s' d.other = hotLow s d.other ∧
      i < 14 ∧ FaultCounted 8 5 9 i s' ∧ SameMemory s s' ∧ SameEngines s s' ∧ SameFabric s s' ∧ SameModes s s' ∧
      SameRegs faultRegs s s') ∧
    (hotLow s d = true → exec (.vrHot t d) s = .next (adv t s)) ∧
    exec (.vrHotRelease t d) s = .next (setHot d false (adv t s))) ∧
  (∀ (t : Ltc) (d : FDie) (r : PmbReading) (w : Nat) (s : State), railWord d r.rail.toNat = some w →
    (now (adv t s) < (s.pwr.pollAt.get 0 d.num).toNat → exec (.pmbusPoll t d [r]) s = .next (adv t s)) ∧
    ((s.pwr.pollAt.get 0 d.num).toNat ≤ now (adv t s) → r.answered = true → ∃ s', exec (.pmbusPoll t d [r]) s = .next s' ∧ rd s' (Fld.PWR_RAIL_VOUT_MV w) = r.voutMv.toNat ∧
      rd s' (Fld.PWR_RAIL_IOUT_A w) = r.ioutA.toNat ∧ rd s' (Fld.PWR_RAIL_TEMP_C w) = r.tempC.toNat ∧
      rd s' (Fld.PWR_RAIL_STATUS_WORD w) = r.status.toNat ∧ s'.pwr.missed.find (deviceOf d r.rail.toNat) = none ∧
      (r.status ≠ 0 → rd s (Fld.PWR_RAIL_STATUS_WORD w) = 0 → FaultCounted 8 2 9 r.rail.toNat s') ∧ SameMemory s s' ∧
      SameEngines s s' ∧ SameFabric s s' ∧ SameModes s s' ∧ SameRegs ((Fld.PWR_RAIL_VOUT_MV w).addr :: faultRegs) s s') ∧
    ((s.pwr.pollAt.get 0 d.num).toNat ≤ now (adv t s) → r.answered = false → ∃ s', exec (.pmbusPoll t d [r]) s = .next s' ∧
      rd s' Fld.PWR_EPISODES_PMBUS_ERRORS = min 0xFFFF (rd s Fld.PWR_EPISODES_PMBUS_ERRORS + 1) ∧
      s'.pwr.missed.get 0 (deviceOf d r.rail.toNat) = s.pwr.missed.get 0 (deviceOf d r.rail.toNat) + 1 ∧
      (s.pwr.missed.get 0 (deviceOf d r.rail.toNat) = 2 → FaultCounted 8 1 9 r.rail.toNat s') ∧ SameMemory s s' ∧
      SameEngines s s' ∧ SameFabric s s' ∧ SameModes s s' ∧ SameRegs (Reg.PWR_EPISODES.base :: faultRegs) s s')) ∧
  (∀ (t : Ltc) (die : BitVec 1) (core stack : Byte) (s : State), die.toNat < dies s → stepDue (adv t s) die.toNat = true →
    ((throttleC s < core.toNat ∨ 95 < stack.toNat) →
      ∃ s', exec (.thermalThrottle t die core stack) s = .next s' ∧
        s'.pwr.thermal.get 6000 die.toNat = max 750 (s.pwr.thermal.get 6000 die.toNat - 375) ∧
        s'.pwr.coolAt.find die.toNat = none ∧
        (s.pwr.thermal.get 6000 die.toNat = 6000 → rd s' Fld.PWR_THERMAL_THERMAL_EVENTS =
          min 0xFFFF (rd s Fld.PWR_THERMAL_THERMAL_EVENTS + 1)) ∧
        (∀ k, k ≠ die.toNat → s'.pwr.thermal.get 6000 k = s.pwr.thermal.get 6000 k) ∧ SameMemory s s' ∧ SameEngines s s' ∧
        SameFabric s s' ∧ SameModes s s' ∧ SameRegs (Reg.PWR_THERMAL.base :: faultRegs) s s') ∧
    (core.toNat + 5 ≤ throttleC s → stack.toNat ≤ 90 → ∀ u, s.pwr.coolAt.find die.toNat = some u →
      u.toNat + us 100 ≤ now (adv t s) →
      ∃ s', exec (.thermalThrottle t die core stack) s = .next s' ∧
        (s.pwr.thermal.get 6000 die.toNat < 6000 →
          s'.pwr.thermal.get 6000 die.toNat = min 6000 (s.pwr.thermal.get 6000 die.toNat + 375)) ∧
        s'.ctl = s.ctl ∧ SameMemory s s' ∧ SameEngines s s' ∧ SameFabric s s' ∧ SameModes s s' ∧
        SameRegs [Reg.PWR_THERMAL.base] s s')) ∧
  (∀ (t : Ltc) (core fab stack : Byte) (s : State),
    ((115 ≤ core.toNat ∨ 110 ≤ fab.toNat ∨ 105 ≤ stack.toNat) →
      ∃ s', exec (.thermalTrip t core fab stack) s = .next s' ∧ s'.pins.thermtripLow = true ∧ s'.pwr.tripped = true ∧
        s'.pins.bankEnA = false ∧ s'.pins.bankEnB = false ∧ (∀ r, r < 12 → railUp s' r = false) ∧
        (∀ r, 12 ≤ r → r < 14 → railUp s' r = railUp s r) ∧ s'.mem = {} ∧ s'.eng = {} ∧ s'.sec.tenants = [] ∧
        s'.anv.token = none ∧ s'.fuses = s.fuses ∧ s'.clk = (adv t s).clk) ∧
    (core.toNat < 115 → fab.toNat < 110 → stack.toNat < 105 →
      ∃ s', exec (.thermalTrip t core fab stack) s = .next s' ∧ rd s' Fld.PWR_THERMAL_T_CORE_MAX = core.toNat ∧
        rd s' Fld.PWR_THERMAL_T_FAB_MAX = fab.toNat ∧ rd s' Fld.PWR_THERMAL_T_STACK_MAX = stack.toNat ∧
        s'.ctl = s.ctl ∧ s'.pwr = s.pwr ∧ SameMemory s s' ∧ SameEngines s s' ∧ SameFabric s s' ∧ SameModes s s' ∧
        SameRegs [Reg.PWR_THERMAL.base] s s')) ∧
  (∀ (t : Ltc) (d : FDie) (s : State),
    (bankOk s d = true → bankOk s d.other = true → ∃ s', exec (.bankFault t d) s = .next s' ∧ BankLost d s s') ∧
    (bankOk s d = true → bankOk s d.other = false → ∃ s', exec (.bankFault t d) s = .next s' ∧
      (∀ r, r < 12 → railUp s' r = false) ∧ s'.mem = {} ∧ s'.eng = {} ∧ s'.fuses = s.fuses) ∧
    (bankOk s d = false → exec (.bankFault t d) s = .next (adv t s))) ∧
  (∀ (t : Ltc) (rail : BitVec 4) (s : State),
    (rail.toNat < 4 → ∃ s', exec (.railResetLevel t rail) s = .next s' ∧ rd s' Fld.RST_STATUS_LAST_TYPE = 6 ∧
      rd s' Fld.RST_STATUS_LAST_SOURCE = 2 ∧ s'.mem.stack = {} ∧ s'.mem.far = s.mem.far ∧ s'.eng = {} ∧
      s'.pwr.episodes.find rail.toNat = none ∧ s'.anv = s.anv ∧ s'.link = s.link ∧ s'.mode = s.mode) ∧
    (4 ≤ rail.toNat → rail.toNat < 12 → bankOk s (railDomain rail.toNat) = true →
      bankOk s (railDomain rail.toNat).other = true →
      ∃ s', exec (.railResetLevel t rail) s = .next s' ∧ BankLost (railDomain rail.toNat) s s') ∧
    (12 ≤ rail.toNat → exec (.railResetLevel t rail) s = .next (adv t s)))

/-- PORESET_N, PORESET_N_LOW, RAIL_IN_WINDOW, RAIL_ENABLE_TIMEOUT, POWER_ON_PHASE, PHASE_LATE, VAON_LOSS, VAON_RETURN (R385, R395,
R399-R401). A shared rail that is late ends both sequences (log entry 49). -/
def Obligations.SupplyAndStartUp : Prop :=
  (∀ (t : Ltc) (s : State),
    (s.pwr.poresetLow = true → ∃ s', exec (.poresetN t) s = .next s' ∧ s'.pwr.poresetLow = false ∧ s'.pwr.tripped = false ∧
      s'.pins.bankEnA = true ∧ s'.pins.bankEnB = true ∧ rd s' Fld.RST_STATUS_LAST_TYPE = 7 ∧
      rd s' Fld.RST_STATUS_LAST_SOURCE = (if s.pwr.tripped then 3 else 1) ∧
      rd s' Fld.RST_STATUS_LAST_LTC = now48 (adv t s) ∧ SameMemory s s' ∧ SameEngines s s' ∧ SameFabric s s' ∧
      SameModes s s' ∧ SameRegs [Reg.RST_STATUS.base] s s') ∧
    (s.pwr.poresetLow = false → exec (.poresetN t) s = .next (adv t s)) ∧
    ∃ s', exec (.poresetNLow t) s = .next s' ∧ s'.pwr.poresetLow = true ∧ s'.pins.thermtripLow = false ∧
      s'.pins.bankEnA = false ∧ s'.pins.bankEnB = false ∧ (∀ r, r < 12 → railUp s' r = false) ∧ s'.mem = {} ∧ s'.eng = {} ∧
      s'.clk = (adv t s).clk ∧ s'.fuses = s.fuses) ∧
  (∀ (t : Ltc) (rail : BitVec 4) (s : State),
    (railEnabled s rail.toNat = true → railUp s rail.toNat = false →
      ∃ s', exec (.railInWindow t rail) s = .next s' ∧ railUp s' rail.toNat = true ∧
        (∀ r, r ≠ rail.toNat → railUp s' r = railUp s r) ∧
        (∀ d, bankOk s' d = (bankOk s d || bankComplete s' d)) ∧ s'.ctl = s.ctl ∧ SameMemory s s' ∧ SameEngines s s' ∧
        SameFabric s s' ∧ SameModes s s' ∧ SameRegs [] s s') ∧
    ((railEnabled s rail.toNat = false ∨ railUp s rail.toNat = true) →
      exec (.railInWindow t rail) s = .next (adv t s))) ∧
  (∀ (t : Ltc) (rail : BitVec 4) (e : Ltc) (s : State), s.pwr.enabledAt.find rail.toNat = some e → rail.toNat < 12 →
    railUp s rail.toNat = false → e.toNat + us 5000 ≤ now (adv t s) →
    ∃ s', exec (.railEnableTimeout t rail) s = .next s' ∧ FaultCounted 8 6 9 rail.toNat s' ∧
      (∀ d, (rail.toNat < 4 ∨ railDomain rail.toNat = d) →
        bankOk s' d = false ∧ bankEn s' d = false ∧ ∀ r ∈ ownRails d, railUp s' r = false) ∧
      (rail.toNat < 4 → ∀ r, r < 4 → railUp s' r = false) ∧
      (4 ≤ rail.toNat → ∀ d, d = (railDomain rail.toNat).other →
        bankOk s' d = bankOk s d ∧ bankEn s' d = bankEn s d ∧ ∀ r ∈ ownRails d, railUp s' r = railUp s r) ∧
      SameMemory s s' ∧ SameEngines s s' ∧ SameFabric s s' ∧ SameModes s s' ∧ SameRegs faultRegs s s') ∧
  (∀ (t : Ltc) (n : BitVec 4) (f : Dimms) (s : State), 1 ≤ n.toNat → n.toNat ≤ 8 → phaseDone s n.toNat = false →
    (powerGood s = true → (∀ p ∈ phasePreds n.toNat, phaseDone s p = true) →
      ((n ≠ 2 ∨ rd s Fld.ECC_TIN_STATUS_PENDING = 0) →
        ∃ s', exec (.powerOnPhase t n f) s = .next s' ∧ phaseDone s' n.toNat = true ∧
          (∀ m, 1 ≤ m → m ≠ n.toNat → phaseDone s' m = phaseDone s m) ∧
          rd s' (Fld.RST_PHASE_LTC_DONE_LTC n.toNat) = now48 (adv t s) ∧
          (n = 1 → rd s' Fld.MEM_CONFIG_FAR_STATE = 1) ∧ (n = 3 → s'.mem.sram = {}) ∧
          (n = 5 → ∀ d, (anvil s d).state = 0 → step2Done s d = true → (anvil s' d).state = 1) ∧
          (n = 7 → s'.mem.stack = {} ∧ s'.coh.dir = []) ∧
          (n = 8 → populationOk f = true →
            rd s' Fld.MEM_CONFIG_FAR_CHANNELS = popCount 12 f.channels.toNat ∧
            rd s' Fld.MEM_CONFIG_FAR_STATE = if f.channels = 0 then 0 else 2) ∧
          (n = 8 → populationOk f = false → rd s' Fld.MEM_CONFIG_FAR_STATE = 3) ∧
          s'.eng = s.eng ∧ s'.mode = s.mode) ∧
      (n = 2 → rd s Fld.ECC_TIN_STATUS_PENDING = 1 → rd s Fld.ECC_TIN_STATUS_STATE ≠ 1 →
        ∃ s', exec (.powerOnPhase t n f) s = .next s' ∧ TinningBegun 3 s s' ∧ phaseDone s' 2 = false)) ∧
    ((powerGood s = false ∨ ∃ p ∈ phasePreds n.toNat, phaseDone s p = false) →
      exec (.powerOnPhase t n f) s = .next (adv t s))) ∧
  (∀ (t : Ltc) (n : BitVec 4) (stackMask ddr : BitVec 12) (ports : BitVec 16) (s : State), 1 ≤ n.toNat → n.toNat ≤ 8 →
    (phaseDone s n.toNat = false → s.pwr.goodAt.toNat + phaseLimit n.toNat ≤ now (adv t s) →
      ∃ s', exec (.phaseLate t n stackMask ddr ports) s = .next s' ∧
        rd s' Fld.FLT_DEGRADED_STACKS_LOST = rd s Fld.FLT_DEGRADED_STACKS_LOST ||| stackMask.toNat ∧
        rd s' Fld.FLT_DEGRADED_DDR_LOST = rd s Fld.FLT_DEGRADED_DDR_LOST ||| ddr.toNat ∧
        rd s' Fld.FLT_DEGRADED_PORTS_LOST = rd s Fld.FLT_DEGRADED_PORTS_LOST ||| ports.toNat ∧ FaultCounted 9 4 0 0 s' ∧
        ((stackMask ≠ 0 ∨ ddr ≠ 0 ∨ ports ≠ 0) → s'.pins.replaceReqLow = true) ∧ SameMemory s s' ∧ SameEngines s s' ∧
        SameFabric s s' ∧ SameModes s s' ∧ SameRegs (Reg.FLT_DEGRADED.base :: faultRegs) s s') ∧
    ((phaseDone s n.toNat = true ∨ now (adv t s) < s.pwr.goodAt.toNat + phaseLimit n.toNat) →
      exec (.phaseLate t n stackMask ddr ports) s = .next (adv t s))) ∧
  (∀ (t : Ltc) (d : FDie) (s : State), vaon s d = true →
    (vaon s d.other = true → ∃ s', exec (.vaonLoss t d) s = .next s' ∧ vaon s' d = false ∧ vaon s' d.other = true ∧
      followed s' d = false ∧ now s' = now (adv t s) ∧ s'.ctl = s.ctl ∧ SameMemory s s' ∧ SameEngines s s' ∧
      SameFabric s s' ∧ SameModes s s' ∧ SameRegs [] s s') ∧
    (vaon s d.other = false → ∃ s', exec (.vaonLoss t d) s = .next s' ∧ now s' = 0 ∧ s'.clk.ltcA = 0 ∧ s'.clk.ltcB = 0 ∧
      s'.mem = {} ∧ s'.eng = {} ∧ s'.fuses = s.fuses)) ∧
  (∀ (t : Ltc) (d : FDie) (u : Ltc) (s : State), vaon s d = false → s.pwr.vaonOut.find d.num = some u →
    (now (adv t s) < u.toNat + us 1000 → ∃ s', exec (.vaonReturn t d) s = .next s' ∧ vaon s' d = true ∧
      now s' = now (adv t s) ∧ s'.sec.tampered = true ∧ s'.pins.tamperLow = true ∧ TinningBegun 1 s s') ∧
    (u.toNat + us 1000 ≤ now (adv t s) → ∃ s', exec (.vaonReturn t d) s = .next s' ∧ vaon s' d = true ∧
      now s' = now (adv t s) ∧ bankEn s' d = true ∧ (∀ r ∈ ownRails d, railUp s' r = false) ∧
      (∀ p, p < 16 → onDie d p = true → portState s' p = 0) ∧ (∀ p, onDie d p = false → lport s' p = lport s p) ∧
      (anvil s' d).state = 0 ∧ s'.mem.stack = s.mem.stack ∧ s'.coh = s.coh ∧ s'.eng = s.eng ∧ s'.sec = s.sec))

/-- RESET, RESET_ENGINES, RESET_CONTROL, RESET_FABRIC, RESET_PART, RESET_CORE (R397-R399). -/
def Obligations.ResetsReachTheirScope : Prop :=
  (∀ (t : Ltc) (s : State),
    (∃ s', exec (.resetEngines t) s = .next s' ∧ ResetNoted 1 0 t s s' ∧ EnginesReset s s' ∧
      (∀ a, a < 0xD0000 → regGet s' a = regGet s a) ∧
      (∀ a, 0x100000 ≤ a → a ∉ Reg.RST_STATUS.base :: faultRegs → regGet s' a = regGet s a)) ∧
    (∃ s', exec (.resetControl t) s = .next s' ∧ ResetNoted 2 0 t s s' ∧ ControlReset s s' ∧
      ∀ a, a < 0x1000 ∨ (0x1300 ≤ a ∧ a < 0x130000) → regGet s' a = regGet s a) ∧
    (∀ d, ∃ s', exec (.resetFabric t d) s = .next s' ∧ ResetNoted (3 + d.num) 0 t s s' ∧ FabricReset d s s' ∧
      ((anvil s d).activating = none → s'.ctl.sessions = s.ctl.sessions)) ∧
    (∃ s', exec (.resetPart t) s = .next s' ∧ ResetNoted 5 0 t s s' ∧ PartReset s s' ∧ s'.clk = (adv t s).clk) ∧
    (∃ s', exec (.resetCore t) s = .next s' ∧ ResetNoted 6 2 t s s' ∧ s'.mem.stack = {} ∧ s'.mem.sram = {} ∧
      s'.mem.far = s.mem.far ∧ s'.sec.tenants = [] ∧ s'.mem.ingots = [] ∧ s'.coh = {} ∧ s'.xlt = {} ∧ s'.eng = {} ∧
      s'.cru = {} ∧ s'.red = {} ∧ s'.link = s.link ∧ s'.tc = s.tc ∧ s'.mode = s.mode ∧ s'.anv = s.anv ∧
      s'.fuses = s.fuses)) ∧
  (∀ (t : Ltc) (h : CmdHdr) (n : Byte) (s : State), Suits h .platform → Waits s h →
    (n = 1 → ∃ s', exec (.reset t h n) s = .next s' ∧ Answered s' h Status.OK [] ∧ ResetNoted 1 0 t s s' ∧
      EnginesReset s s' ∧
      ∀ e r, s.ctl.journal = e :: r → e.h = h → (∀ x ∈ r, x.h ≠ h) → ∀ x ∈ s'.ctl.journal, x.isQueued = false) ∧
    (n = 3 → ∃ s', exec (.reset t h n) s = .next s' ∧ Answered s' h Status.OK [] ∧ ResetNoted 3 0 t s s' ∧
      FabricReset .f0 s s') ∧
    (n = 4 → ∃ s', exec (.reset t h n) s = .next s' ∧ Answered s' h Status.OK [] ∧ ResetNoted 4 0 t s s' ∧
      FabricReset .f1 s s') ∧
    (∀ e p, entryOf s h = some e → e.src = .kafer p → portUp s p = true → inGap (adv t s) = false →
      (klink s p).waiting = [] → (klink s p).unacked = [] → cmdLate (adv t s) h = false →
      (n = 2 → ∃ s' r, exec (.reset t h n) s = .next s' ∧ Out.kafer p (.reply r) ∈ s'.out ∧ r.status = 0 ∧ r.tag = h.tag ∧
        r.seq = h.seq ∧ ResetNoted 2 0 t s s' ∧ ControlReset s s') ∧
      (n = 5 → ∃ s' r, exec (.reset t h n) s = .next s' ∧ Out.kafer p (.reply r) ∈ s'.out ∧ r.status = 0 ∧ r.tag = h.tag ∧
        r.seq = h.seq ∧ ResetNoted 5 0 t s s' ∧ PartReset s s')) ∧
    ((n = 0 ∨ 5 < n.toNat) →
      ∃ s', exec (.reset t h n) s = .next s' ∧ Answered s' h Status.BAD_PARAM [] ∧ ControlOnly s s'))

/-- No command makes the LTC run backwards but the loss of the second VAON supply (R395). -/
def Obligations.LtcNeverRunsBackwards : Prop :=
  ∀ s s' : State, step s = .next s' →
    now s ≤ now s' ∨ ∃ t d r, s.pending = Instr.vaonLoss t d :: r ∧ vaon s d = true ∧ vaon s d.other = false

/-- Every step keeps the canonical form of the memory arrays. -/
def Obligations.MemoryFormKept : Prop :=
  ∀ s s' : State, Memory.wf s.mem = true → step s = .next s' → Memory.wf s'.mem = true

/-- The form `MemoryFormKept` keeps holds after reset. -/
def Obligations.MemoryFormAtReset : Prop := Memory.wf State.reset.mem = true

/-- Where a die-local address lies (R69). -/
def Obligations.DieLocalMappingOneToOne : Prop :=
  (∀ (s : State) (la k o q p : Nat), k = (homeOf s la).2 / 256 → o = (homeOf s la).2 % 256 → q = k / 192 →
    p = (k + 7 * q) % 192 →
    (placeOf s la).stack = 6 * (homeOf s la).1 + p / 32 ∧ (placeOf s la).pc = p % 32 ∧ (placeOf s la).pco = q * 256 + o ∧
      ((k : Int) = 192 * q + ((p : Int) - 7 * q) % 192)) ∧
  (∀ (s : State) (la lb : Nat), placeOf s la = placeOf s lb → homeOf s la = homeOf s lb) ∧
  (∀ q p : Nat, p < 192 → ∃ k, (k / 192 = q ∧ (k + 7 * q) % 192 = p) ∧
    ∀ j, j / 192 = q → (j + 7 * q) % 192 = p → j = k) ∧
  ∀ k : Nat, (k + 192 + 7 * ((k + 192) / 192)) % 192 = ((k + 7 * (k / 192)) % 192 + 7) % 192

/-- The home die and the die-local address of a local address, by the grain (R68). -/
def Obligations.HomeDieFollowsGrain : Prop :=
  (∀ (s : State) (la g : Nat), s.variant = .tr12 →
    ((rd s Fld.MEM_CONFIG_GRAIN = 1 ∧ g = 12) ∨ (rd s Fld.MEM_CONFIG_GRAIN = 2 ∧ g = 16) ∨
      (rd s Fld.MEM_CONFIG_GRAIN = 3 ∧ g = 21)) →
    (homeOf s la).1 = (la / 2 ^ g % 2 + ((List.range 10).map fun i => la / 2 ^ (30 + i) % 2).sum) % 2 ∧
      (homeOf s la).2 = la / 2 ^ (g + 1) * 2 ^ g + la % 2 ^ g ∧
      (la / 2 ^ 30 = (la + 2 ^ g) / 2 ^ 30 → (homeOf s (la + 2 ^ g)).1 = 1 - (homeOf s la).1)) ∧
  (∀ (s : State) (la : Nat), s.variant = .tr12 → rd s Fld.MEM_CONFIG_GRAIN = 4 → la < 768 * 2 ^ 30 →
    homeOf s la = (if la < 384 * 2 ^ 30 then 0 else 1, la % (384 * 2 ^ 30))) ∧
  (∀ (s : State) (la : Nat), s.variant = .tr6 → homeOf s la = (0, la)) ∧
  rd State.reset Fld.MEM_CONFIG_GRAIN = 4 ∧
  (∀ (t : Ltc) (h : CmdHdr) (g : Byte) (s : State), Suits h .platform → Waits s h → s.mem.ingots = [] → 1 ≤ g.toNat →
    g.toNat ≤ 4 →
    ∃ s', exec (.interleaveSet t h g) s = .next s' ∧ Answered s' h Status.OK [] ∧ rd s' Fld.MEM_CONFIG_GRAIN = g.toNat)

/-- Sampling follows consent (R346). -/
def Obligations.SamplingNeedsConsent : Prop :=
  (∀ (t : Ltc) (h : CmdHdr) (rate : BitVec 32) (s : State), Suits h .either → Waits s h → h.tenant ≠ 0xFFF →
    bitsOf rate.toNat 5 3 = 0 → bitsOf rate.toNat 13 19 = 0 → bitAt rate.toNat 11 = false →
    (bitsOf rate.toNat 0 5 = 0 ∨ (6 ≤ bitsOf rate.toNat 0 5 ∧ bitsOf rate.toNat 0 5 ≤ 24)) →
    ((∀ e ∈ s.sec.jobs, e.2.valid = true → bindTenant e.2.binding.toNat = h.tenant.toNat →
        bitAt (bindConsent e.2.binding.toNat) 1 = false) →
      ∃ s', exec (.samplingSet t h rate) s = .next s' ∧ Answered s' h Status.CONSENT_REQUIRED [] ∧ ControlOnly s s') ∧
    ((∃ e ∈ s.sec.jobs, e.2.valid = true ∧ bindTenant e.2.binding.toNat = h.tenant.toNat ∧
        bitAt (bindConsent e.2.binding.toNat) 1 = true) →
      ∃ s', exec (.samplingSet t h rate) s = .next s' ∧ Answered s' h Status.OK [] ∧ s'.tel.tenant = h.tenant)) ∧
  (∀ (t : Ltc) (h : CmdHdr) (rate : BitVec 32) (s s' : State) (group tenant : Nat), h.tenant = 0xFFF →
    exec (.samplingSet t h rate) s = .next s' → tenantGrants s tenant 1 = false → (chosen group tenant s').1 = false) ∧
  ∀ (group tenant : Nat) (s : State), (∀ e ∈ s.sec.jobs, e.2.valid = true → bindTenant e.2.binding.toNat = tenant →
      bitAt (bindConsent e.2.binding.toNat) 1 = false) → (chosen group tenant s).1 = false

/-- The length of a cell (R309). -/
def Obligations.CellLength : Prop :=
  ∀ (st : Settings) (p : Nat) (c : Cell),
    cellL st p c = cellP c + bitsOf (st.entry 3 p) 0 10 ∧ (c.cls = 5 → cellP c = 512) ∧
    (c.cls = 0 → (c.op = 1 → cellP c = 64 * readLines c) ∧ (c.op = 2 → cellP c = 64 * popCount 8 c.lines.toNat) ∧
      (c.op = 4 → cellP c = 64 * popCount 8 c.lines.toNat) ∧ (c.op = 3 → cellP c = 64) ∧ (c.op = 5 → cellP c = 8) ∧
      (c.op = 6 → cellP c = 0))

/-- What the decoder locates in a word with at most two bits in error, and in a poisoned word with at most one (R241-R243). -/
def Obligations.CodeCorrectsTwo : Prop :=
  ∀ used : Nat, used = 80 ∨ used = 78 →
    decodeWord used 0 = ⟨.clean, []⟩ ∧ (∀ i, i < used → decodeWord used (2 ^ i) = ⟨.single, [i]⟩) ∧
    (∀ i j, i < j → j < used → decodeWord used (2 ^ i + 2 ^ j) = ⟨.double, [i, j]⟩) ∧
    (decodeWord used (patternOf true)).outcome = .poison ∧
    ∀ i, i < used → (decodeWord used (patternOf true ^^^ 2 ^ i)).outcome = .poison

/-- Every command of the table completes, whatever its operands and the state: the rules give each an effect on every path
(R48 for what is answered by a status). -/
def Obligations.EveryCommandCompletes : Prop := ∀ (c : Instr) (s : State), ∃ s', exec c s = .next s'
end

