-- ==== Sys2Proof/Laws/Bits.lean ====
section
/-! SUPPORT. Laws of bit fields. -/

namespace Sys2Proof.Machine

theorem bitsOf_lt (x lo w : Nat) : bitsOf x lo w < 2 ^ w := Nat.mod_lt _ (Nat.two_pow_pos w)

theorem bitsOf_eq (x lo w : Nat) : bitsOf x lo w = (x >>> lo) % 2 ^ w := by
  simp [bitsOf, Nat.shiftRight_eq_div_pow]

/-- Bit i of a field. -/
theorem testBit_bitsOf (x lo w i : Nat) : (bitsOf x lo w).testBit i = (decide (i < w) && x.testBit (lo + i)) := by
  rw [bitsOf_eq, Nat.testBit_mod_two_pow, Nat.testBit_shiftRight]

/-- A number written over a field, as its low, written and high parts. -/
theorem putBits_eq (x lo w v : Nat) :
    putBits x lo w v = x % 2 ^ lo + 2 ^ lo * (v % 2 ^ w + 2 ^ w * (x / 2 ^ (lo + w))) := by
  have h1 := Nat.div_add_mod x (2 ^ lo)
  have h2 := Nat.div_add_mod (x / 2 ^ lo) (2 ^ w)
  have h3 : x / 2 ^ lo / 2 ^ w = x / 2 ^ (lo + w) := by rw [Nat.div_div_eq_div_mul, Nat.pow_add]
  unfold putBits bitsOf
  rw [h3] at h2
  generalize x / 2 ^ (lo + w) = c at *
  generalize x / 2 ^ lo = b at *
  generalize v % 2 ^ w = e at *
  have h4 : x = 2 ^ lo * (2 ^ w * c) + b % 2 ^ w * 2 ^ lo + x % 2 ^ lo := by
    rw [Nat.mul_comm (b % 2 ^ w), ← Nat.mul_add, h2, h1]
  have h5 : x - b % 2 ^ w * 2 ^ lo = 2 ^ lo * (2 ^ w * c) + x % 2 ^ lo := by omega
  rw [h5, Nat.mul_add, Nat.mul_comm e]
  omega

/-- Bit i of a number with a field replaced. -/
theorem testBit_putBits (x lo w v i : Nat) :
    (putBits x lo w v).testBit i =
      if i < lo then x.testBit i else if i < lo + w then v.testBit (i - lo) else x.testBit i := by
  rw [putBits_eq, Nat.add_comm, Nat.testBit_two_pow_mul_add _ (Nat.mod_lt _ (Nat.two_pow_pos _))]
  by_cases h : i < lo
  · simp [h, Nat.testBit_mod_two_pow]
  · simp only [h, if_false]
    rw [Nat.add_comm, Nat.testBit_two_pow_mul_add _ (Nat.mod_lt _ (Nat.two_pow_pos _))]
    by_cases h' : i < lo + w
    · have : i - lo < w := by omega
      simp [h', this, Nat.testBit_mod_two_pow]
    · have h2 : ¬ i - lo < w := by omega
      simp only [h', h2, if_false]
      rw [Nat.testBit_div_two_pow]
      congr 1
      omega

/-- A field reads as it was written. -/
theorem bitsOf_putBits (x lo w v : Nat) : bitsOf (putBits x lo w v) lo w = v % 2 ^ w := by
  apply Nat.eq_of_testBit_eq
  intro i
  rw [testBit_bitsOf, testBit_putBits, Nat.testBit_mod_two_pow]
  by_cases h : i < w
  · have h1 : ¬ lo + i < lo := by omega
    have h2 : lo + i < lo + w := by omega
    simp [h, h1, h2]
  · simp [h]

/-- A field that does not overlap the one written keeps its value. -/
theorem bitsOf_putBits_of_disjoint (x lo w v lo' w' : Nat) (h : lo' + w' ≤ lo ∨ lo + w ≤ lo') :
    bitsOf (putBits x lo w v) lo' w' = bitsOf x lo' w' := by
  apply Nat.eq_of_testBit_eq
  intro i
  rw [testBit_bitsOf, testBit_bitsOf, testBit_putBits]
  by_cases h' : i < w'
  · rcases h with h | h
    · have : lo' + i < lo := by omega
      simp [this]
    · have h1 : ¬ lo' + i < lo := by omega
      have h2 : ¬ lo' + i < lo + w := by omega
      simp [h1, h2]
  · simp [h']

/-- A field that lies within 64 bits is not touched by cutting the register to 64 bits. -/
theorem bitsOf_mod (x lo w n : Nat) (h : lo + w ≤ n) : bitsOf (x % 2 ^ n) lo w = bitsOf x lo w := by
  apply Nat.eq_of_testBit_eq
  intro i
  rw [testBit_bitsOf, testBit_bitsOf, Nat.testBit_mod_two_pow]
  by_cases h' : i < w
  · have : lo + i < n := by omega
    simp [this]
  · simp [h']

end Sys2Proof.Machine
end

