-- ==== Sys2Proof/Laws/State.lean ====
section
/-! SUPPORT. Updates of the state, field by field: folding keeps what every step of the fold keeps; the updates of one
component change that component alone. -/

namespace Sys2Proof.Machine

@[simp] theorem foldl_variant {α : Type} (g : State → α → State) (h : ∀ s x, (g s x).variant = s.variant) (l : List α) (s : State) :
    (l.foldl g s).variant = s.variant := by
  induction l generalizing s <;> simp_all

@[simp] theorem foldl_clk {α : Type} (g : State → α → State) (h : ∀ s x, (g s x).clk = s.clk) (l : List α) (s : State) :
    (l.foldl g s).clk = s.clk := by
  induction l generalizing s <;> simp_all

@[simp] theorem foldl_pins {α : Type} (g : State → α → State) (h : ∀ s x, (g s x).pins = s.pins) (l : List α) (s : State) :
    (l.foldl g s).pins = s.pins := by
  induction l generalizing s <;> simp_all

@[simp] theorem foldl_regs {α : Type} (g : State → α → State) (h : ∀ s x, (g s x).regs = s.regs) (l : List α) (s : State) :
    (l.foldl g s).regs = s.regs := by
  induction l generalizing s <;> simp_all

@[simp] theorem foldl_fuses {α : Type} (g : State → α → State) (h : ∀ s x, (g s x).fuses = s.fuses) (l : List α) (s : State) :
    (l.foldl g s).fuses = s.fuses := by
  induction l generalizing s <;> simp_all

@[simp] theorem foldl_ctl {α : Type} (g : State → α → State) (h : ∀ s x, (g s x).ctl = s.ctl) (l : List α) (s : State) :
    (l.foldl g s).ctl = s.ctl := by
  induction l generalizing s <;> simp_all

@[simp] theorem foldl_mode {α : Type} (g : State → α → State) (h : ∀ s x, (g s x).mode = s.mode) (l : List α) (s : State) :
    (l.foldl g s).mode = s.mode := by
  induction l generalizing s <;> simp_all

@[simp] theorem foldl_sec {α : Type} (g : State → α → State) (h : ∀ s x, (g s x).sec = s.sec) (l : List α) (s : State) :
    (l.foldl g s).sec = s.sec := by
  induction l generalizing s <;> simp_all

@[simp] theorem foldl_anv {α : Type} (g : State → α → State) (h : ∀ s x, (g s x).anv = s.anv) (l : List α) (s : State) :
    (l.foldl g s).anv = s.anv := by
  induction l generalizing s <;> simp_all

@[simp] theorem foldl_fab {α : Type} (g : State → α → State) (h : ∀ s x, (g s x).fab = s.fab) (l : List α) (s : State) :
    (l.foldl g s).fab = s.fab := by
  induction l generalizing s <;> simp_all

@[simp] theorem foldl_ready {α : Type} (g : State → α → State) (h : ∀ s x, (g s x).ready = s.ready) (l : List α) (s : State) :
    (l.foldl g s).ready = s.ready := by
  induction l generalizing s <;> simp_all

@[simp] theorem foldl_link {α : Type} (g : State → α → State) (h : ∀ s x, (g s x).link = s.link) (l : List α) (s : State) :
    (l.foldl g s).link = s.link := by
  induction l generalizing s <;> simp_all

@[simp] theorem foldl_tc {α : Type} (g : State → α → State) (h : ∀ s x, (g s x).tc = s.tc) (l : List α) (s : State) :
    (l.foldl g s).tc = s.tc := by
  induction l generalizing s <;> simp_all

@[simp] theorem foldl_tel {α : Type} (g : State → α → State) (h : ∀ s x, (g s x).tel = s.tel) (l : List α) (s : State) :
    (l.foldl g s).tel = s.tel := by
  induction l generalizing s <;> simp_all

@[simp] theorem foldl_pwr {α : Type} (g : State → α → State) (h : ∀ s x, (g s x).pwr = s.pwr) (l : List α) (s : State) :
    (l.foldl g s).pwr = s.pwr := by
  induction l generalizing s <;> simp_all

@[simp] theorem foldl_mem {α : Type} (g : State → α → State) (h : ∀ s x, (g s x).mem = s.mem) (l : List α) (s : State) :
    (l.foldl g s).mem = s.mem := by
  induction l generalizing s <;> simp_all

@[simp] theorem foldl_ecc {α : Type} (g : State → α → State) (h : ∀ s x, (g s x).ecc = s.ecc) (l : List α) (s : State) :
    (l.foldl g s).ecc = s.ecc := by
  induction l generalizing s <;> simp_all

@[simp] theorem foldl_coh {α : Type} (g : State → α → State) (h : ∀ s x, (g s x).coh = s.coh) (l : List α) (s : State) :
    (l.foldl g s).coh = s.coh := by
  induction l generalizing s <;> simp_all

@[simp] theorem foldl_xlt {α : Type} (g : State → α → State) (h : ∀ s x, (g s x).xlt = s.xlt) (l : List α) (s : State) :
    (l.foldl g s).xlt = s.xlt := by
  induction l generalizing s <;> simp_all

@[simp] theorem foldl_eng {α : Type} (g : State → α → State) (h : ∀ s x, (g s x).eng = s.eng) (l : List α) (s : State) :
    (l.foldl g s).eng = s.eng := by
  induction l generalizing s <;> simp_all

@[simp] theorem foldl_cru {α : Type} (g : State → α → State) (h : ∀ s x, (g s x).cru = s.cru) (l : List α) (s : State) :
    (l.foldl g s).cru = s.cru := by
  induction l generalizing s <;> simp_all

@[simp] theorem foldl_red {α : Type} (g : State → α → State) (h : ∀ s x, (g s x).red = s.red) (l : List α) (s : State) :
    (l.foldl g s).red = s.red := by
  induction l generalizing s <;> simp_all

@[simp] theorem foldl_draws {α : Type} (g : State → α → State) (h : ∀ s x, (g s x).draws = s.draws) (l : List α) (s : State) :
    (l.foldl g s).draws = s.draws := by
  induction l generalizing s <;> simp_all

@[simp] theorem foldl_out {α : Type} (g : State → α → State) (h : ∀ s x, (g s x).out = s.out) (l : List α) (s : State) :
    (l.foldl g s).out = s.out := by
  induction l generalizing s <;> simp_all

@[simp] theorem foldl_pending {α : Type} (g : State → α → State) (h : ∀ s x, (g s x).pending = s.pending) (l : List α) (s : State) :
    (l.foldl g s).pending = s.pending := by
  induction l generalizing s <;> simp_all

end Sys2Proof.Machine
end

