-- ==== Sys2Proof/Laws/Ops.lean ====
section
/-! SUPPORT. What each shared operation leaves alone, field by field. -/

namespace Sys2Proof.Machine

@[simp] theorem adv_frame (t : Ltc) (s : State) :
    (adv t s).variant = s.variant ∧ (adv t s).pins = s.pins ∧ (adv t s).regs = s.regs ∧ (adv t s).fuses = s.fuses ∧
    (adv t s).ctl = s.ctl ∧ (adv t s).mode = s.mode ∧ (adv t s).sec = s.sec ∧ (adv t s).anv = s.anv ∧
    (adv t s).fab = s.fab ∧ (adv t s).ready = s.ready ∧ (adv t s).link = s.link ∧ (adv t s).tc = s.tc ∧
    (adv t s).tel = s.tel ∧ (adv t s).pwr = s.pwr ∧ (adv t s).mem = s.mem ∧ (adv t s).ecc = s.ecc ∧
    (adv t s).coh = s.coh ∧ (adv t s).xlt = s.xlt ∧ (adv t s).eng = s.eng ∧ (adv t s).cru = s.cru ∧
    (adv t s).red = s.red ∧ (adv t s).draws = s.draws ∧ (adv t s).out = s.out ∧ (adv t s).pending = s.pending := by
  unfold adv
  dsimp only
  split <;> simp

@[simp] theorem regSet_frame (s : State) (a v : Nat) :
    (regSet s a v).variant = s.variant ∧ (regSet s a v).clk = s.clk ∧ (regSet s a v).pins = s.pins ∧
    (regSet s a v).fuses = s.fuses ∧ (regSet s a v).ctl = s.ctl ∧ (regSet s a v).mode = s.mode ∧
    (regSet s a v).sec = s.sec ∧ (regSet s a v).anv = s.anv ∧ (regSet s a v).fab = s.fab ∧
    (regSet s a v).ready = s.ready ∧ (regSet s a v).link = s.link ∧ (regSet s a v).tc = s.tc ∧
    (regSet s a v).tel = s.tel ∧ (regSet s a v).pwr = s.pwr ∧ (regSet s a v).mem = s.mem ∧ (regSet s a v).ecc = s.ecc ∧
    (regSet s a v).coh = s.coh ∧ (regSet s a v).xlt = s.xlt ∧ (regSet s a v).eng = s.eng ∧ (regSet s a v).cru = s.cru ∧
    (regSet s a v).red = s.red ∧ (regSet s a v).draws = s.draws ∧ (regSet s a v).out = s.out ∧
    (regSet s a v).pending = s.pending := by
  unfold regSet
  split <;> simp

@[simp] theorem wr_frame (s : State) (f : Fld) (v : Nat) :
    (wr s f v).variant = s.variant ∧ (wr s f v).clk = s.clk ∧ (wr s f v).pins = s.pins ∧ (wr s f v).fuses = s.fuses ∧
    (wr s f v).ctl = s.ctl ∧ (wr s f v).mode = s.mode ∧ (wr s f v).sec = s.sec ∧ (wr s f v).anv = s.anv ∧
    (wr s f v).fab = s.fab ∧ (wr s f v).ready = s.ready ∧ (wr s f v).link = s.link ∧ (wr s f v).tc = s.tc ∧
    (wr s f v).tel = s.tel ∧ (wr s f v).pwr = s.pwr ∧ (wr s f v).mem = s.mem ∧ (wr s f v).ecc = s.ecc ∧
    (wr s f v).coh = s.coh ∧ (wr s f v).xlt = s.xlt ∧ (wr s f v).eng = s.eng ∧ (wr s f v).cru = s.cru ∧
    (wr s f v).red = s.red ∧ (wr s f v).draws = s.draws ∧ (wr s f v).out = s.out ∧ (wr s f v).pending = s.pending := by
  simp [wr]

@[simp] theorem bumpBy_frame (s : State) (f : Fld) (n : Nat) :
    (bumpBy s f n).variant = s.variant ∧ (bumpBy s f n).clk = s.clk ∧ (bumpBy s f n).pins = s.pins ∧
    (bumpBy s f n).fuses = s.fuses ∧ (bumpBy s f n).ctl = s.ctl ∧ (bumpBy s f n).mode = s.mode ∧
    (bumpBy s f n).sec = s.sec ∧ (bumpBy s f n).anv = s.anv ∧ (bumpBy s f n).fab = s.fab ∧
    (bumpBy s f n).ready = s.ready ∧ (bumpBy s f n).link = s.link ∧ (bumpBy s f n).tc = s.tc ∧
    (bumpBy s f n).tel = s.tel ∧ (bumpBy s f n).pwr = s.pwr ∧ (bumpBy s f n).mem = s.mem ∧ (bumpBy s f n).ecc = s.ecc ∧
    (bumpBy s f n).coh = s.coh ∧ (bumpBy s f n).xlt = s.xlt ∧ (bumpBy s f n).eng = s.eng ∧ (bumpBy s f n).cru = s.cru ∧
    (bumpBy s f n).red = s.red ∧ (bumpBy s f n).draws = s.draws ∧ (bumpBy s f n).out = s.out ∧
    (bumpBy s f n).pending = s.pending := by
  simp [bumpBy]

@[simp] theorem bump_frame (s : State) (f : Fld) :
    (bump s f).variant = s.variant ∧ (bump s f).clk = s.clk ∧ (bump s f).pins = s.pins ∧ (bump s f).fuses = s.fuses ∧
    (bump s f).ctl = s.ctl ∧ (bump s f).mode = s.mode ∧ (bump s f).sec = s.sec ∧ (bump s f).anv = s.anv ∧
    (bump s f).fab = s.fab ∧ (bump s f).ready = s.ready ∧ (bump s f).link = s.link ∧ (bump s f).tc = s.tc ∧
    (bump s f).tel = s.tel ∧ (bump s f).pwr = s.pwr ∧ (bump s f).mem = s.mem ∧ (bump s f).ecc = s.ecc ∧
    (bump s f).coh = s.coh ∧ (bump s f).xlt = s.xlt ∧ (bump s f).eng = s.eng ∧ (bump s f).cru = s.cru ∧
    (bump s f).red = s.red ∧ (bump s f).draws = s.draws ∧ (bump s f).out = s.out ∧ (bump s f).pending = s.pending := by
  simp [bump]

@[simp] theorem draw_frame (s : State) :
    ((draw s).2).variant = s.variant ∧ ((draw s).2).clk = s.clk ∧ ((draw s).2).pins = s.pins ∧
    ((draw s).2).regs = s.regs ∧ ((draw s).2).fuses = s.fuses ∧ ((draw s).2).ctl = s.ctl ∧ ((draw s).2).mode = s.mode ∧
    ((draw s).2).sec = s.sec ∧ ((draw s).2).anv = s.anv ∧ ((draw s).2).fab = s.fab ∧ ((draw s).2).ready = s.ready ∧
    ((draw s).2).link = s.link ∧ ((draw s).2).tc = s.tc ∧ ((draw s).2).tel = s.tel ∧ ((draw s).2).pwr = s.pwr ∧
    ((draw s).2).mem = s.mem ∧ ((draw s).2).ecc = s.ecc ∧ ((draw s).2).coh = s.coh ∧ ((draw s).2).xlt = s.xlt ∧
    ((draw s).2).eng = s.eng ∧ ((draw s).2).cru = s.cru ∧ ((draw s).2).red = s.red ∧ ((draw s).2).out = s.out ∧
    ((draw s).2).pending = s.pending := by
  simp [draw]

@[simp] theorem emit_frame (o : Out) (s : State) :
    (emit o s).variant = s.variant ∧ (emit o s).clk = s.clk ∧ (emit o s).pins = s.pins ∧ (emit o s).regs = s.regs ∧
    (emit o s).fuses = s.fuses ∧ (emit o s).ctl = s.ctl ∧ (emit o s).mode = s.mode ∧ (emit o s).sec = s.sec ∧
    (emit o s).anv = s.anv ∧ (emit o s).fab = s.fab ∧ (emit o s).ready = s.ready ∧ (emit o s).link = s.link ∧
    (emit o s).tc = s.tc ∧ (emit o s).tel = s.tel ∧ (emit o s).pwr = s.pwr ∧ (emit o s).mem = s.mem ∧
    (emit o s).ecc = s.ecc ∧ (emit o s).coh = s.coh ∧ (emit o s).xlt = s.xlt ∧ (emit o s).eng = s.eng ∧
    (emit o s).cru = s.cru ∧ (emit o s).red = s.red ∧ (emit o s).draws = s.draws ∧ (emit o s).pending = s.pending := by
  simp [emit]

@[simp] theorem emitAll_frame (l : List Out) (s : State) :
    (emitAll l s).variant = s.variant ∧ (emitAll l s).clk = s.clk ∧ (emitAll l s).pins = s.pins ∧
    (emitAll l s).regs = s.regs ∧ (emitAll l s).fuses = s.fuses ∧ (emitAll l s).ctl = s.ctl ∧
    (emitAll l s).mode = s.mode ∧ (emitAll l s).sec = s.sec ∧ (emitAll l s).anv = s.anv ∧ (emitAll l s).fab = s.fab ∧
    (emitAll l s).ready = s.ready ∧ (emitAll l s).link = s.link ∧ (emitAll l s).tc = s.tc ∧ (emitAll l s).tel = s.tel ∧
    (emitAll l s).pwr = s.pwr ∧ (emitAll l s).mem = s.mem ∧ (emitAll l s).ecc = s.ecc ∧ (emitAll l s).coh = s.coh ∧
    (emitAll l s).xlt = s.xlt ∧ (emitAll l s).eng = s.eng ∧ (emitAll l s).cru = s.cru ∧ (emitAll l s).red = s.red ∧
    (emitAll l s).draws = s.draws ∧ (emitAll l s).pending = s.pending := by
  simp [emitAll]

@[simp] theorem setAnvil_frame (d : FDie) (a : Anvil) (s : State) :
    (setAnvil d a s).variant = s.variant ∧ (setAnvil d a s).clk = s.clk ∧ (setAnvil d a s).pins = s.pins ∧
    (setAnvil d a s).regs = s.regs ∧ (setAnvil d a s).fuses = s.fuses ∧ (setAnvil d a s).ctl = s.ctl ∧
    (setAnvil d a s).mode = s.mode ∧ (setAnvil d a s).sec = s.sec ∧ (setAnvil d a s).fab = s.fab ∧
    (setAnvil d a s).ready = s.ready ∧ (setAnvil d a s).link = s.link ∧ (setAnvil d a s).tc = s.tc ∧
    (setAnvil d a s).tel = s.tel ∧ (setAnvil d a s).pwr = s.pwr ∧ (setAnvil d a s).mem = s.mem ∧
    (setAnvil d a s).ecc = s.ecc ∧ (setAnvil d a s).coh = s.coh ∧ (setAnvil d a s).xlt = s.xlt ∧
    (setAnvil d a s).eng = s.eng ∧ (setAnvil d a s).cru = s.cru ∧ (setAnvil d a s).red = s.red ∧
    (setAnvil d a s).draws = s.draws ∧ (setAnvil d a s).out = s.out ∧ (setAnvil d a s).pending = s.pending := by
  unfold setAnvil
  split <;> simp

@[simp] theorem setKlink_frame (s : State) (p : KPort) (k : KLink) :
    (setKlink s p k).variant = s.variant ∧ (setKlink s p k).clk = s.clk ∧ (setKlink s p k).pins = s.pins ∧
    (setKlink s p k).regs = s.regs ∧ (setKlink s p k).fuses = s.fuses ∧ (setKlink s p k).mode = s.mode ∧
    (setKlink s p k).sec = s.sec ∧ (setKlink s p k).anv = s.anv ∧ (setKlink s p k).fab = s.fab ∧
    (setKlink s p k).ready = s.ready ∧ (setKlink s p k).link = s.link ∧ (setKlink s p k).tc = s.tc ∧
    (setKlink s p k).tel = s.tel ∧ (setKlink s p k).pwr = s.pwr ∧ (setKlink s p k).mem = s.mem ∧
    (setKlink s p k).ecc = s.ecc ∧ (setKlink s p k).coh = s.coh ∧ (setKlink s p k).xlt = s.xlt ∧
    (setKlink s p k).eng = s.eng ∧ (setKlink s p k).cru = s.cru ∧ (setKlink s p k).red = s.red ∧
    (setKlink s p k).draws = s.draws ∧ (setKlink s p k).out = s.out ∧ (setKlink s p k).pending = s.pending := by
  unfold setKlink
  split <;> simp

@[simp] theorem mapJournal_frame (f : JEntry → JEntry) (s : State) :
    (mapJournal f s).variant = s.variant ∧ (mapJournal f s).clk = s.clk ∧ (mapJournal f s).pins = s.pins ∧
    (mapJournal f s).regs = s.regs ∧ (mapJournal f s).fuses = s.fuses ∧ (mapJournal f s).mode = s.mode ∧
    (mapJournal f s).sec = s.sec ∧ (mapJournal f s).anv = s.anv ∧ (mapJournal f s).fab = s.fab ∧
    (mapJournal f s).ready = s.ready ∧ (mapJournal f s).link = s.link ∧ (mapJournal f s).tc = s.tc ∧
    (mapJournal f s).tel = s.tel ∧ (mapJournal f s).pwr = s.pwr ∧ (mapJournal f s).mem = s.mem ∧
    (mapJournal f s).ecc = s.ecc ∧ (mapJournal f s).coh = s.coh ∧ (mapJournal f s).xlt = s.xlt ∧
    (mapJournal f s).eng = s.eng ∧ (mapJournal f s).cru = s.cru ∧ (mapJournal f s).red = s.red ∧
    (mapJournal f s).draws = s.draws ∧ (mapJournal f s).out = s.out ∧ (mapJournal f s).pending = s.pending := by
  simp [mapJournal]

@[simp] theorem mapSessions_frame (f : Session → Session) (s : State) :
    (mapSessions f s).variant = s.variant ∧ (mapSessions f s).clk = s.clk ∧ (mapSessions f s).pins = s.pins ∧
    (mapSessions f s).regs = s.regs ∧ (mapSessions f s).fuses = s.fuses ∧ (mapSessions f s).mode = s.mode ∧
    (mapSessions f s).sec = s.sec ∧ (mapSessions f s).anv = s.anv ∧ (mapSessions f s).fab = s.fab ∧
    (mapSessions f s).ready = s.ready ∧ (mapSessions f s).link = s.link ∧ (mapSessions f s).tc = s.tc ∧
    (mapSessions f s).tel = s.tel ∧ (mapSessions f s).pwr = s.pwr ∧ (mapSessions f s).mem = s.mem ∧
    (mapSessions f s).ecc = s.ecc ∧ (mapSessions f s).coh = s.coh ∧ (mapSessions f s).xlt = s.xlt ∧
    (mapSessions f s).eng = s.eng ∧ (mapSessions f s).cru = s.cru ∧ (mapSessions f s).red = s.red ∧
    (mapSessions f s).draws = s.draws ∧ (mapSessions f s).out = s.out ∧ (mapSessions f s).pending = s.pending := by
  simp [mapSessions]

@[simp] theorem mapEvents_frame (f : EventRec → EventRec) (s : State) :
    (mapEvents f s).variant = s.variant ∧ (mapEvents f s).clk = s.clk ∧ (mapEvents f s).pins = s.pins ∧
    (mapEvents f s).regs = s.regs ∧ (mapEvents f s).fuses = s.fuses ∧ (mapEvents f s).mode = s.mode ∧
    (mapEvents f s).sec = s.sec ∧ (mapEvents f s).anv = s.anv ∧ (mapEvents f s).fab = s.fab ∧
    (mapEvents f s).ready = s.ready ∧ (mapEvents f s).link = s.link ∧ (mapEvents f s).tc = s.tc ∧
    (mapEvents f s).tel = s.tel ∧ (mapEvents f s).pwr = s.pwr ∧ (mapEvents f s).mem = s.mem ∧
    (mapEvents f s).ecc = s.ecc ∧ (mapEvents f s).coh = s.coh ∧ (mapEvents f s).xlt = s.xlt ∧
    (mapEvents f s).eng = s.eng ∧ (mapEvents f s).cru = s.cru ∧ (mapEvents f s).red = s.red ∧
    (mapEvents f s).draws = s.draws ∧ (mapEvents f s).out = s.out ∧ (mapEvents f s).pending = s.pending := by
  simp [mapEvents]

@[simp] theorem mapWindows_frame (f : Window → Window) (s : State) :
    (mapWindows f s).variant = s.variant ∧ (mapWindows f s).clk = s.clk ∧ (mapWindows f s).pins = s.pins ∧
    (mapWindows f s).regs = s.regs ∧ (mapWindows f s).fuses = s.fuses ∧ (mapWindows f s).mode = s.mode ∧
    (mapWindows f s).sec = s.sec ∧ (mapWindows f s).anv = s.anv ∧ (mapWindows f s).fab = s.fab ∧
    (mapWindows f s).ready = s.ready ∧ (mapWindows f s).link = s.link ∧ (mapWindows f s).tc = s.tc ∧
    (mapWindows f s).tel = s.tel ∧ (mapWindows f s).pwr = s.pwr ∧ (mapWindows f s).mem = s.mem ∧
    (mapWindows f s).ecc = s.ecc ∧ (mapWindows f s).coh = s.coh ∧ (mapWindows f s).xlt = s.xlt ∧
    (mapWindows f s).eng = s.eng ∧ (mapWindows f s).cru = s.cru ∧ (mapWindows f s).red = s.red ∧
    (mapWindows f s).draws = s.draws ∧ (mapWindows f s).out = s.out ∧ (mapWindows f s).pending = s.pending := by
  simp [mapWindows]

@[simp] theorem mapCounters_frame (f : Nat → Counter → Counter) (s : State) :
    (mapCounters f s).variant = s.variant ∧ (mapCounters f s).clk = s.clk ∧ (mapCounters f s).pins = s.pins ∧
    (mapCounters f s).regs = s.regs ∧ (mapCounters f s).fuses = s.fuses ∧ (mapCounters f s).ctl = s.ctl ∧
    (mapCounters f s).mode = s.mode ∧ (mapCounters f s).sec = s.sec ∧ (mapCounters f s).anv = s.anv ∧
    (mapCounters f s).fab = s.fab ∧ (mapCounters f s).ready = s.ready ∧ (mapCounters f s).link = s.link ∧
    (mapCounters f s).tc = s.tc ∧ (mapCounters f s).pwr = s.pwr ∧ (mapCounters f s).mem = s.mem ∧
    (mapCounters f s).ecc = s.ecc ∧ (mapCounters f s).coh = s.coh ∧ (mapCounters f s).xlt = s.xlt ∧
    (mapCounters f s).eng = s.eng ∧ (mapCounters f s).cru = s.cru ∧ (mapCounters f s).red = s.red ∧
    (mapCounters f s).draws = s.draws ∧ (mapCounters f s).out = s.out ∧ (mapCounters f s).pending = s.pending := by
  simp [mapCounters]

@[simp] theorem updJournal_frame (test : JEntry → Bool) (f : JEntry → JEntry) (s : State) :
    (updJournal test f s).variant = s.variant ∧ (updJournal test f s).clk = s.clk ∧ (updJournal test f s).pins = s.pins ∧
    (updJournal test f s).regs = s.regs ∧ (updJournal test f s).fuses = s.fuses ∧ (updJournal test f s).mode = s.mode ∧
    (updJournal test f s).sec = s.sec ∧ (updJournal test f s).anv = s.anv ∧ (updJournal test f s).fab = s.fab ∧
    (updJournal test f s).ready = s.ready ∧ (updJournal test f s).link = s.link ∧ (updJournal test f s).tc = s.tc ∧
    (updJournal test f s).tel = s.tel ∧ (updJournal test f s).pwr = s.pwr ∧ (updJournal test f s).mem = s.mem ∧
    (updJournal test f s).ecc = s.ecc ∧ (updJournal test f s).coh = s.coh ∧ (updJournal test f s).xlt = s.xlt ∧
    (updJournal test f s).eng = s.eng ∧ (updJournal test f s).cru = s.cru ∧ (updJournal test f s).red = s.red ∧
    (updJournal test f s).draws = s.draws ∧ (updJournal test f s).out = s.out ∧
    (updJournal test f s).pending = s.pending := by
  simp [updJournal]

@[simp] theorem setReady_frame (p : Nat) (l : List Cell) (s : State) :
    (setReady p l s).variant = s.variant ∧ (setReady p l s).clk = s.clk ∧ (setReady p l s).pins = s.pins ∧
    (setReady p l s).regs = s.regs ∧ (setReady p l s).fuses = s.fuses ∧ (setReady p l s).ctl = s.ctl ∧
    (setReady p l s).mode = s.mode ∧ (setReady p l s).sec = s.sec ∧ (setReady p l s).anv = s.anv ∧
    (setReady p l s).fab = s.fab ∧ (setReady p l s).link = s.link ∧ (setReady p l s).tc = s.tc ∧
    (setReady p l s).tel = s.tel ∧ (setReady p l s).pwr = s.pwr ∧ (setReady p l s).mem = s.mem ∧
    (setReady p l s).ecc = s.ecc ∧ (setReady p l s).coh = s.coh ∧ (setReady p l s).xlt = s.xlt ∧
    (setReady p l s).eng = s.eng ∧ (setReady p l s).cru = s.cru ∧ (setReady p l s).red = s.red ∧
    (setReady p l s).draws = s.draws ∧ (setReady p l s).out = s.out ∧ (setReady p l s).pending = s.pending := by
  simp [setReady]

@[simp] theorem queueCells_frame (p : Nat) (l : List Cell) (s : State) :
    (queueCells p l s).variant = s.variant ∧ (queueCells p l s).clk = s.clk ∧ (queueCells p l s).pins = s.pins ∧
    (queueCells p l s).regs = s.regs ∧ (queueCells p l s).fuses = s.fuses ∧ (queueCells p l s).ctl = s.ctl ∧
    (queueCells p l s).mode = s.mode ∧ (queueCells p l s).sec = s.sec ∧ (queueCells p l s).anv = s.anv ∧
    (queueCells p l s).fab = s.fab ∧ (queueCells p l s).link = s.link ∧ (queueCells p l s).tc = s.tc ∧
    (queueCells p l s).tel = s.tel ∧ (queueCells p l s).pwr = s.pwr ∧ (queueCells p l s).mem = s.mem ∧
    (queueCells p l s).ecc = s.ecc ∧ (queueCells p l s).coh = s.coh ∧ (queueCells p l s).xlt = s.xlt ∧
    (queueCells p l s).eng = s.eng ∧ (queueCells p l s).cru = s.cru ∧ (queueCells p l s).red = s.red ∧
    (queueCells p l s).draws = s.draws ∧ (queueCells p l s).out = s.out ∧ (queueCells p l s).pending = s.pending := by
  simp [queueCells]

@[simp] theorem countPacket_frame (s : State) :
    (countPacket s).variant = s.variant ∧ (countPacket s).clk = s.clk ∧ (countPacket s).pins = s.pins ∧
    (countPacket s).regs = s.regs ∧ (countPacket s).fuses = s.fuses ∧ (countPacket s).mode = s.mode ∧
    (countPacket s).sec = s.sec ∧ (countPacket s).anv = s.anv ∧ (countPacket s).fab = s.fab ∧
    (countPacket s).ready = s.ready ∧ (countPacket s).link = s.link ∧ (countPacket s).tc = s.tc ∧
    (countPacket s).tel = s.tel ∧ (countPacket s).pwr = s.pwr ∧ (countPacket s).mem = s.mem ∧
    (countPacket s).ecc = s.ecc ∧ (countPacket s).coh = s.coh ∧ (countPacket s).xlt = s.xlt ∧
    (countPacket s).eng = s.eng ∧ (countPacket s).cru = s.cru ∧ (countPacket s).red = s.red ∧
    (countPacket s).draws = s.draws ∧ (countPacket s).out = s.out ∧ (countPacket s).pending = s.pending := by
  simp [countPacket]

@[simp] theorem sendMgmt_frame (op : Nat) (dest : BitVec 12) (packet : List Byte) (s : State) :
    (sendMgmt op dest packet s).variant = s.variant ∧ (sendMgmt op dest packet s).clk = s.clk ∧
    (sendMgmt op dest packet s).pins = s.pins ∧ (sendMgmt op dest packet s).regs = s.regs ∧
    (sendMgmt op dest packet s).fuses = s.fuses ∧ (sendMgmt op dest packet s).mode = s.mode ∧
    (sendMgmt op dest packet s).sec = s.sec ∧ (sendMgmt op dest packet s).anv = s.anv ∧
    (sendMgmt op dest packet s).fab = s.fab ∧ (sendMgmt op dest packet s).link = s.link ∧
    (sendMgmt op dest packet s).tc = s.tc ∧ (sendMgmt op dest packet s).tel = s.tel ∧
    (sendMgmt op dest packet s).pwr = s.pwr ∧ (sendMgmt op dest packet s).mem = s.mem ∧
    (sendMgmt op dest packet s).ecc = s.ecc ∧ (sendMgmt op dest packet s).coh = s.coh ∧
    (sendMgmt op dest packet s).xlt = s.xlt ∧ (sendMgmt op dest packet s).eng = s.eng ∧
    (sendMgmt op dest packet s).cru = s.cru ∧ (sendMgmt op dest packet s).red = s.red ∧
    (sendMgmt op dest packet s).draws = s.draws ∧ (sendMgmt op dest packet s).out = s.out ∧
    (sendMgmt op dest packet s).pending = s.pending := by
  unfold sendMgmt
  split <;> simp

@[simp] theorem sendOnPath_frame (op : Nat) (port : BitVec 4) (hops : BitVec 120) (packet : List Byte) (s : State) :
    (sendOnPath op port hops packet s).variant = s.variant ∧ (sendOnPath op port hops packet s).clk = s.clk ∧
    (sendOnPath op port hops packet s).pins = s.pins ∧ (sendOnPath op port hops packet s).regs = s.regs ∧
    (sendOnPath op port hops packet s).fuses = s.fuses ∧ (sendOnPath op port hops packet s).mode = s.mode ∧
    (sendOnPath op port hops packet s).sec = s.sec ∧ (sendOnPath op port hops packet s).anv = s.anv ∧
    (sendOnPath op port hops packet s).fab = s.fab ∧ (sendOnPath op port hops packet s).link = s.link ∧
    (sendOnPath op port hops packet s).tc = s.tc ∧ (sendOnPath op port hops packet s).tel = s.tel ∧
    (sendOnPath op port hops packet s).pwr = s.pwr ∧ (sendOnPath op port hops packet s).mem = s.mem ∧
    (sendOnPath op port hops packet s).ecc = s.ecc ∧ (sendOnPath op port hops packet s).coh = s.coh ∧
    (sendOnPath op port hops packet s).xlt = s.xlt ∧ (sendOnPath op port hops packet s).eng = s.eng ∧
    (sendOnPath op port hops packet s).cru = s.cru ∧ (sendOnPath op port hops packet s).red = s.red ∧
    (sendOnPath op port hops packet s).draws = s.draws ∧ (sendOnPath op port hops packet s).out = s.out ∧
    (sendOnPath op port hops packet s).pending = s.pending := by
  simp [sendOnPath]

@[simp] theorem markSent_frame (p : KPort) (f : BitVec 16) (k : KPacket) (s : State) :
    (markSent p f k s).variant = s.variant ∧ (markSent p f k s).clk = s.clk ∧ (markSent p f k s).pins = s.pins ∧
    (markSent p f k s).regs = s.regs ∧ (markSent p f k s).fuses = s.fuses ∧ (markSent p f k s).mode = s.mode ∧
    (markSent p f k s).sec = s.sec ∧ (markSent p f k s).anv = s.anv ∧ (markSent p f k s).fab = s.fab ∧
    (markSent p f k s).ready = s.ready ∧ (markSent p f k s).link = s.link ∧ (markSent p f k s).tc = s.tc ∧
    (markSent p f k s).tel = s.tel ∧ (markSent p f k s).pwr = s.pwr ∧ (markSent p f k s).mem = s.mem ∧
    (markSent p f k s).ecc = s.ecc ∧ (markSent p f k s).coh = s.coh ∧ (markSent p f k s).xlt = s.xlt ∧
    (markSent p f k s).eng = s.eng ∧ (markSent p f k s).cru = s.cru ∧ (markSent p f k s).red = s.red ∧
    (markSent p f k s).draws = s.draws ∧ (markSent p f k s).out = s.out ∧ (markSent p f k s).pending = s.pending := by
  unfold markSent
  split <;> simp

theorem kSendNow_frame {s s' : State} {p : KPort} {k : KPacket} (h : kSendNow s p k = some s') :
    (s').variant = s.variant ∧ (s').clk = s.clk ∧ (s').pins = s.pins ∧ (s').regs = s.regs ∧ (s').fuses = s.fuses ∧
    (s').mode = s.mode ∧ (s').sec = s.sec ∧ (s').anv = s.anv ∧ (s').fab = s.fab ∧ (s').ready = s.ready ∧
    (s').link = s.link ∧ (s').tc = s.tc ∧ (s').tel = s.tel ∧ (s').pwr = s.pwr ∧ (s').mem = s.mem ∧ (s').ecc = s.ecc ∧
    (s').coh = s.coh ∧ (s').xlt = s.xlt ∧ (s').eng = s.eng ∧ (s').cru = s.cru ∧ (s').red = s.red ∧ (s').draws = s.draws ∧
    (s').pending = s.pending := by
  unfold kSendNow at h
  simp only [] at h
  split at h
  · cases h; simp
  · cases h

@[simp] theorem kWait_frame (s : State) (p : KPort) (k : KPacket) :
    (kWait s p k).variant = s.variant ∧ (kWait s p k).clk = s.clk ∧ (kWait s p k).pins = s.pins ∧
    (kWait s p k).regs = s.regs ∧ (kWait s p k).fuses = s.fuses ∧ (kWait s p k).mode = s.mode ∧
    (kWait s p k).sec = s.sec ∧ (kWait s p k).anv = s.anv ∧ (kWait s p k).fab = s.fab ∧ (kWait s p k).ready = s.ready ∧
    (kWait s p k).link = s.link ∧ (kWait s p k).tc = s.tc ∧ (kWait s p k).tel = s.tel ∧ (kWait s p k).pwr = s.pwr ∧
    (kWait s p k).mem = s.mem ∧ (kWait s p k).ecc = s.ecc ∧ (kWait s p k).coh = s.coh ∧ (kWait s p k).xlt = s.xlt ∧
    (kWait s p k).eng = s.eng ∧ (kWait s p k).cru = s.cru ∧ (kWait s p k).red = s.red ∧ (kWait s p k).draws = s.draws ∧
    (kWait s p k).out = s.out ∧ (kWait s p k).pending = s.pending := by
  simp [kWait]

@[simp] theorem kSend_frame (s : State) (p : KPort) (k : KPacket) :
    (kSend s p k).variant = s.variant ∧ (kSend s p k).clk = s.clk ∧ (kSend s p k).pins = s.pins ∧
    (kSend s p k).regs = s.regs ∧ (kSend s p k).fuses = s.fuses ∧ (kSend s p k).mode = s.mode ∧
    (kSend s p k).sec = s.sec ∧ (kSend s p k).anv = s.anv ∧ (kSend s p k).fab = s.fab ∧ (kSend s p k).ready = s.ready ∧
    (kSend s p k).link = s.link ∧ (kSend s p k).tc = s.tc ∧ (kSend s p k).tel = s.tel ∧ (kSend s p k).pwr = s.pwr ∧
    (kSend s p k).mem = s.mem ∧ (kSend s p k).ecc = s.ecc ∧ (kSend s p k).coh = s.coh ∧ (kSend s p k).xlt = s.xlt ∧
    (kSend s p k).eng = s.eng ∧ (kSend s p k).cru = s.cru ∧ (kSend s p k).red = s.red ∧ (kSend s p k).draws = s.draws ∧
    (kSend s p k).pending = s.pending := by
  unfold kSend
  split
  · split
    · rename_i h; simp [kSendNow_frame h]
    · simp
  · simp

@[simp] theorem kDrain_frame (n : Nat) (p : KPort) (s : State) :
    (kDrain n p s).variant = s.variant ∧ (kDrain n p s).clk = s.clk ∧ (kDrain n p s).pins = s.pins ∧
    (kDrain n p s).regs = s.regs ∧ (kDrain n p s).fuses = s.fuses ∧ (kDrain n p s).mode = s.mode ∧
    (kDrain n p s).sec = s.sec ∧ (kDrain n p s).anv = s.anv ∧ (kDrain n p s).fab = s.fab ∧
    (kDrain n p s).ready = s.ready ∧ (kDrain n p s).link = s.link ∧ (kDrain n p s).tc = s.tc ∧
    (kDrain n p s).tel = s.tel ∧ (kDrain n p s).pwr = s.pwr ∧ (kDrain n p s).mem = s.mem ∧ (kDrain n p s).ecc = s.ecc ∧
    (kDrain n p s).coh = s.coh ∧ (kDrain n p s).xlt = s.xlt ∧ (kDrain n p s).eng = s.eng ∧ (kDrain n p s).cru = s.cru ∧
    (kDrain n p s).red = s.red ∧ (kDrain n p s).draws = s.draws ∧ (kDrain n p s).pending = s.pending := by
  induction n generalizing s with
  | zero => simp [kDrain]
  | succ n ih =>
    unfold kDrain
    dsimp only
    split
    · simp
    · split
      · simp
      · rename_i h; simp [ih, kSendNow_frame h]

@[simp] theorem sendEventTo_frame (e : EventRec) (rep overdue : Bool) (s : State) (x : Session) :
    (sendEventTo e rep overdue s x).variant = s.variant ∧ (sendEventTo e rep overdue s x).clk = s.clk ∧
    (sendEventTo e rep overdue s x).pins = s.pins ∧ (sendEventTo e rep overdue s x).regs = s.regs ∧
    (sendEventTo e rep overdue s x).fuses = s.fuses ∧ (sendEventTo e rep overdue s x).mode = s.mode ∧
    (sendEventTo e rep overdue s x).sec = s.sec ∧ (sendEventTo e rep overdue s x).anv = s.anv ∧
    (sendEventTo e rep overdue s x).fab = s.fab ∧ (sendEventTo e rep overdue s x).link = s.link ∧
    (sendEventTo e rep overdue s x).tc = s.tc ∧ (sendEventTo e rep overdue s x).tel = s.tel ∧
    (sendEventTo e rep overdue s x).pwr = s.pwr ∧ (sendEventTo e rep overdue s x).mem = s.mem ∧
    (sendEventTo e rep overdue s x).ecc = s.ecc ∧ (sendEventTo e rep overdue s x).coh = s.coh ∧
    (sendEventTo e rep overdue s x).xlt = s.xlt ∧ (sendEventTo e rep overdue s x).eng = s.eng ∧
    (sendEventTo e rep overdue s x).cru = s.cru ∧ (sendEventTo e rep overdue s x).red = s.red ∧
    (sendEventTo e rep overdue s x).draws = s.draws ∧ (sendEventTo e rep overdue s x).pending = s.pending := by
  unfold sendEventTo
  (repeat' split) <;> simp

@[simp] theorem sendEvent_frame (e : EventRec) (overdue : Bool) (s : State) :
    (sendEvent e overdue s).variant = s.variant ∧ (sendEvent e overdue s).clk = s.clk ∧
    (sendEvent e overdue s).pins = s.pins ∧ (sendEvent e overdue s).regs = s.regs ∧
    (sendEvent e overdue s).fuses = s.fuses ∧ (sendEvent e overdue s).mode = s.mode ∧
    (sendEvent e overdue s).sec = s.sec ∧ (sendEvent e overdue s).anv = s.anv ∧ (sendEvent e overdue s).fab = s.fab ∧
    (sendEvent e overdue s).link = s.link ∧ (sendEvent e overdue s).tc = s.tc ∧ (sendEvent e overdue s).tel = s.tel ∧
    (sendEvent e overdue s).pwr = s.pwr ∧ (sendEvent e overdue s).mem = s.mem ∧ (sendEvent e overdue s).ecc = s.ecc ∧
    (sendEvent e overdue s).coh = s.coh ∧ (sendEvent e overdue s).xlt = s.xlt ∧ (sendEvent e overdue s).eng = s.eng ∧
    (sendEvent e overdue s).cru = s.cru ∧ (sendEvent e overdue s).red = s.red ∧ (sendEvent e overdue s).draws = s.draws ∧
    (sendEvent e overdue s).pending = s.pending := by
  unfold sendEvent
  dsimp only
  split <;> simp

@[simp] theorem flushOn_frame (overdue : Bool) (s : State) :
    (flushOn overdue s).variant = s.variant ∧ (flushOn overdue s).clk = s.clk ∧ (flushOn overdue s).pins = s.pins ∧
    (flushOn overdue s).regs = s.regs ∧ (flushOn overdue s).fuses = s.fuses ∧ (flushOn overdue s).mode = s.mode ∧
    (flushOn overdue s).sec = s.sec ∧ (flushOn overdue s).anv = s.anv ∧ (flushOn overdue s).fab = s.fab ∧
    (flushOn overdue s).link = s.link ∧ (flushOn overdue s).tc = s.tc ∧ (flushOn overdue s).tel = s.tel ∧
    (flushOn overdue s).pwr = s.pwr ∧ (flushOn overdue s).mem = s.mem ∧ (flushOn overdue s).ecc = s.ecc ∧
    (flushOn overdue s).coh = s.coh ∧ (flushOn overdue s).xlt = s.xlt ∧ (flushOn overdue s).eng = s.eng ∧
    (flushOn overdue s).cru = s.cru ∧ (flushOn overdue s).red = s.red ∧ (flushOn overdue s).draws = s.draws ∧
    (flushOn overdue s).pending = s.pending := by
  simp [flushOn]

@[simp] theorem flushEvents_frame (s : State) :
    (flushEvents s).variant = s.variant ∧ (flushEvents s).clk = s.clk ∧ (flushEvents s).pins = s.pins ∧
    (flushEvents s).regs = s.regs ∧ (flushEvents s).fuses = s.fuses ∧ (flushEvents s).mode = s.mode ∧
    (flushEvents s).sec = s.sec ∧ (flushEvents s).anv = s.anv ∧ (flushEvents s).fab = s.fab ∧
    (flushEvents s).link = s.link ∧ (flushEvents s).tc = s.tc ∧ (flushEvents s).tel = s.tel ∧
    (flushEvents s).pwr = s.pwr ∧ (flushEvents s).mem = s.mem ∧ (flushEvents s).ecc = s.ecc ∧
    (flushEvents s).coh = s.coh ∧ (flushEvents s).xlt = s.xlt ∧ (flushEvents s).eng = s.eng ∧
    (flushEvents s).cru = s.cru ∧ (flushEvents s).red = s.red ∧ (flushEvents s).draws = s.draws ∧
    (flushEvents s).pending = s.pending := by
  simp [flushEvents]

@[simp] theorem holdEvent_frame (cls tenant len payload at_ : Nat) (s : State) :
    (holdEvent cls tenant len payload at_ s).variant = s.variant ∧ (holdEvent cls tenant len payload at_ s).clk = s.clk ∧
    (holdEvent cls tenant len payload at_ s).pins = s.pins ∧ (holdEvent cls tenant len payload at_ s).regs = s.regs ∧
    (holdEvent cls tenant len payload at_ s).fuses = s.fuses ∧ (holdEvent cls tenant len payload at_ s).mode = s.mode ∧
    (holdEvent cls tenant len payload at_ s).sec = s.sec ∧ (holdEvent cls tenant len payload at_ s).anv = s.anv ∧
    (holdEvent cls tenant len payload at_ s).fab = s.fab ∧ (holdEvent cls tenant len payload at_ s).link = s.link ∧
    (holdEvent cls tenant len payload at_ s).tc = s.tc ∧ (holdEvent cls tenant len payload at_ s).tel = s.tel ∧
    (holdEvent cls tenant len payload at_ s).pwr = s.pwr ∧ (holdEvent cls tenant len payload at_ s).mem = s.mem ∧
    (holdEvent cls tenant len payload at_ s).ecc = s.ecc ∧ (holdEvent cls tenant len payload at_ s).coh = s.coh ∧
    (holdEvent cls tenant len payload at_ s).xlt = s.xlt ∧ (holdEvent cls tenant len payload at_ s).eng = s.eng ∧
    (holdEvent cls tenant len payload at_ s).cru = s.cru ∧ (holdEvent cls tenant len payload at_ s).red = s.red ∧
    (holdEvent cls tenant len payload at_ s).draws = s.draws ∧
    (holdEvent cls tenant len payload at_ s).pending = s.pending := by
  simp [holdEvent]

@[simp] theorem eventPins_frame (cls : Nat) (s : State) :
    (eventPins cls s).variant = s.variant ∧ (eventPins cls s).clk = s.clk ∧ (eventPins cls s).regs = s.regs ∧
    (eventPins cls s).fuses = s.fuses ∧ (eventPins cls s).ctl = s.ctl ∧ (eventPins cls s).mode = s.mode ∧
    (eventPins cls s).sec = s.sec ∧ (eventPins cls s).anv = s.anv ∧ (eventPins cls s).fab = s.fab ∧
    (eventPins cls s).ready = s.ready ∧ (eventPins cls s).link = s.link ∧ (eventPins cls s).tc = s.tc ∧
    (eventPins cls s).tel = s.tel ∧ (eventPins cls s).pwr = s.pwr ∧ (eventPins cls s).mem = s.mem ∧
    (eventPins cls s).ecc = s.ecc ∧ (eventPins cls s).coh = s.coh ∧ (eventPins cls s).xlt = s.xlt ∧
    (eventPins cls s).eng = s.eng ∧ (eventPins cls s).cru = s.cru ∧ (eventPins cls s).red = s.red ∧
    (eventPins cls s).draws = s.draws ∧ (eventPins cls s).out = s.out ∧ (eventPins cls s).pending = s.pending := by
  simp [eventPins]

@[simp] theorem raiseEventAt_frame (at_ cls tenant len payload : Nat) (s : State) :
    (raiseEventAt at_ cls tenant len payload s).variant = s.variant ∧
    (raiseEventAt at_ cls tenant len payload s).clk = s.clk ∧ (raiseEventAt at_ cls tenant len payload s).regs = s.regs ∧
    (raiseEventAt at_ cls tenant len payload s).fuses = s.fuses ∧
    (raiseEventAt at_ cls tenant len payload s).mode = s.mode ∧ (raiseEventAt at_ cls tenant len payload s).sec = s.sec ∧
    (raiseEventAt at_ cls tenant len payload s).anv = s.anv ∧ (raiseEventAt at_ cls tenant len payload s).fab = s.fab ∧
    (raiseEventAt at_ cls tenant len payload s).link = s.link ∧ (raiseEventAt at_ cls tenant len payload s).tc = s.tc ∧
    (raiseEventAt at_ cls tenant len payload s).tel = s.tel ∧ (raiseEventAt at_ cls tenant len payload s).pwr = s.pwr ∧
    (raiseEventAt at_ cls tenant len payload s).mem = s.mem ∧ (raiseEventAt at_ cls tenant len payload s).ecc = s.ecc ∧
    (raiseEventAt at_ cls tenant len payload s).coh = s.coh ∧ (raiseEventAt at_ cls tenant len payload s).xlt = s.xlt ∧
    (raiseEventAt at_ cls tenant len payload s).eng = s.eng ∧ (raiseEventAt at_ cls tenant len payload s).cru = s.cru ∧
    (raiseEventAt at_ cls tenant len payload s).red = s.red ∧
    (raiseEventAt at_ cls tenant len payload s).draws = s.draws ∧
    (raiseEventAt at_ cls tenant len payload s).pending = s.pending := by
  unfold raiseEventAt
  dsimp only
  split <;> simp

@[simp] theorem raiseEvent_frame (cls tenant len payload : Nat) (s : State) :
    (raiseEvent cls tenant len payload s).variant = s.variant ∧ (raiseEvent cls tenant len payload s).clk = s.clk ∧
    (raiseEvent cls tenant len payload s).regs = s.regs ∧ (raiseEvent cls tenant len payload s).fuses = s.fuses ∧
    (raiseEvent cls tenant len payload s).mode = s.mode ∧ (raiseEvent cls tenant len payload s).sec = s.sec ∧
    (raiseEvent cls tenant len payload s).anv = s.anv ∧ (raiseEvent cls tenant len payload s).fab = s.fab ∧
    (raiseEvent cls tenant len payload s).link = s.link ∧ (raiseEvent cls tenant len payload s).tc = s.tc ∧
    (raiseEvent cls tenant len payload s).tel = s.tel ∧ (raiseEvent cls tenant len payload s).pwr = s.pwr ∧
    (raiseEvent cls tenant len payload s).mem = s.mem ∧ (raiseEvent cls tenant len payload s).ecc = s.ecc ∧
    (raiseEvent cls tenant len payload s).coh = s.coh ∧ (raiseEvent cls tenant len payload s).xlt = s.xlt ∧
    (raiseEvent cls tenant len payload s).eng = s.eng ∧ (raiseEvent cls tenant len payload s).cru = s.cru ∧
    (raiseEvent cls tenant len payload s).red = s.red ∧ (raiseEvent cls tenant len payload s).draws = s.draws ∧
    (raiseEvent cls tenant len payload s).pending = s.pending := by
  simp [raiseEvent]

@[simp] theorem reportLost_frame (s : State) :
    (reportLost s).variant = s.variant ∧ (reportLost s).clk = s.clk ∧ (reportLost s).regs = s.regs ∧
    (reportLost s).fuses = s.fuses ∧ (reportLost s).mode = s.mode ∧ (reportLost s).sec = s.sec ∧
    (reportLost s).anv = s.anv ∧ (reportLost s).fab = s.fab ∧ (reportLost s).link = s.link ∧ (reportLost s).tc = s.tc ∧
    (reportLost s).tel = s.tel ∧ (reportLost s).pwr = s.pwr ∧ (reportLost s).mem = s.mem ∧ (reportLost s).ecc = s.ecc ∧
    (reportLost s).coh = s.coh ∧ (reportLost s).xlt = s.xlt ∧ (reportLost s).eng = s.eng ∧ (reportLost s).cru = s.cru ∧
    (reportLost s).red = s.red ∧ (reportLost s).draws = s.draws ∧ (reportLost s).pending = s.pending := by
  unfold reportLost
  split <;> simp

@[simp] theorem formRecord_frame (r cls tenant : Nat) (s : State) :
    (formRecord r cls tenant s).variant = s.variant ∧ (formRecord r cls tenant s).clk = s.clk ∧
    (formRecord r cls tenant s).fuses = s.fuses ∧ (formRecord r cls tenant s).mode = s.mode ∧
    (formRecord r cls tenant s).sec = s.sec ∧ (formRecord r cls tenant s).anv = s.anv ∧
    (formRecord r cls tenant s).fab = s.fab ∧ (formRecord r cls tenant s).link = s.link ∧
    (formRecord r cls tenant s).tc = s.tc ∧ (formRecord r cls tenant s).tel = s.tel ∧
    (formRecord r cls tenant s).pwr = s.pwr ∧ (formRecord r cls tenant s).mem = s.mem ∧
    (formRecord r cls tenant s).ecc = s.ecc ∧ (formRecord r cls tenant s).coh = s.coh ∧
    (formRecord r cls tenant s).xlt = s.xlt ∧ (formRecord r cls tenant s).eng = s.eng ∧
    (formRecord r cls tenant s).cru = s.cru ∧ (formRecord r cls tenant s).red = s.red ∧
    (formRecord r cls tenant s).draws = s.draws ∧ (formRecord r cls tenant s).pending = s.pending := by
  unfold formRecord
  split <;> simp

@[simp] theorem raiseFault_frame (i : FaultInfo) (s : State) :
    (raiseFault i s).variant = s.variant ∧ (raiseFault i s).clk = s.clk ∧ (raiseFault i s).fuses = s.fuses ∧
    (raiseFault i s).mode = s.mode ∧ (raiseFault i s).sec = s.sec ∧ (raiseFault i s).anv = s.anv ∧
    (raiseFault i s).fab = s.fab ∧ (raiseFault i s).link = s.link ∧ (raiseFault i s).tc = s.tc ∧
    (raiseFault i s).tel = s.tel ∧ (raiseFault i s).pwr = s.pwr ∧ (raiseFault i s).mem = s.mem ∧
    (raiseFault i s).ecc = s.ecc ∧ (raiseFault i s).coh = s.coh ∧ (raiseFault i s).xlt = s.xlt ∧
    (raiseFault i s).eng = s.eng ∧ (raiseFault i s).cru = s.cru ∧ (raiseFault i s).red = s.red ∧
    (raiseFault i s).draws = s.draws ∧ (raiseFault i s).pending = s.pending := by
  unfold raiseFault
  (repeat' split) <;> simp

@[simp] theorem ingressRefused_frame (s : State) :
    (ingressRefused s).variant = s.variant ∧ (ingressRefused s).clk = s.clk ∧ (ingressRefused s).fuses = s.fuses ∧
    (ingressRefused s).mode = s.mode ∧ (ingressRefused s).sec = s.sec ∧ (ingressRefused s).anv = s.anv ∧
    (ingressRefused s).fab = s.fab ∧ (ingressRefused s).link = s.link ∧ (ingressRefused s).tc = s.tc ∧
    (ingressRefused s).tel = s.tel ∧ (ingressRefused s).pwr = s.pwr ∧ (ingressRefused s).mem = s.mem ∧
    (ingressRefused s).ecc = s.ecc ∧ (ingressRefused s).coh = s.coh ∧ (ingressRefused s).xlt = s.xlt ∧
    (ingressRefused s).eng = s.eng ∧ (ingressRefused s).cru = s.cru ∧ (ingressRefused s).red = s.red ∧
    (ingressRefused s).draws = s.draws ∧ (ingressRefused s).pending = s.pending := by
  simp [ingressRefused]

@[simp] theorem replaceRequest_frame (cause region : Nat) (s : State) :
    (replaceRequest cause region s).variant = s.variant ∧ (replaceRequest cause region s).clk = s.clk ∧
    (replaceRequest cause region s).regs = s.regs ∧ (replaceRequest cause region s).fuses = s.fuses ∧
    (replaceRequest cause region s).mode = s.mode ∧ (replaceRequest cause region s).sec = s.sec ∧
    (replaceRequest cause region s).anv = s.anv ∧ (replaceRequest cause region s).fab = s.fab ∧
    (replaceRequest cause region s).link = s.link ∧ (replaceRequest cause region s).tc = s.tc ∧
    (replaceRequest cause region s).tel = s.tel ∧ (replaceRequest cause region s).pwr = s.pwr ∧
    (replaceRequest cause region s).mem = s.mem ∧ (replaceRequest cause region s).ecc = s.ecc ∧
    (replaceRequest cause region s).coh = s.coh ∧ (replaceRequest cause region s).xlt = s.xlt ∧
    (replaceRequest cause region s).eng = s.eng ∧ (replaceRequest cause region s).cru = s.cru ∧
    (replaceRequest cause region s).red = s.red ∧ (replaceRequest cause region s).draws = s.draws ∧
    (replaceRequest cause region s).pending = s.pending := by
  simp [replaceRequest]

@[simp] theorem linkStateEvent_frame (kafer : Bool) (port old new width : Nat) (s : State) :
    (linkStateEvent kafer port old new width s).variant = s.variant ∧
    (linkStateEvent kafer port old new width s).clk = s.clk ∧ (linkStateEvent kafer port old new width s).regs = s.regs ∧
    (linkStateEvent kafer port old new width s).fuses = s.fuses ∧
    (linkStateEvent kafer port old new width s).mode = s.mode ∧ (linkStateEvent kafer port old new width s).sec = s.sec ∧
    (linkStateEvent kafer port old new width s).anv = s.anv ∧ (linkStateEvent kafer port old new width s).fab = s.fab ∧
    (linkStateEvent kafer port old new width s).link = s.link ∧ (linkStateEvent kafer port old new width s).tc = s.tc ∧
    (linkStateEvent kafer port old new width s).tel = s.tel ∧ (linkStateEvent kafer port old new width s).pwr = s.pwr ∧
    (linkStateEvent kafer port old new width s).mem = s.mem ∧ (linkStateEvent kafer port old new width s).ecc = s.ecc ∧
    (linkStateEvent kafer port old new width s).coh = s.coh ∧ (linkStateEvent kafer port old new width s).xlt = s.xlt ∧
    (linkStateEvent kafer port old new width s).eng = s.eng ∧ (linkStateEvent kafer port old new width s).cru = s.cru ∧
    (linkStateEvent kafer port old new width s).red = s.red ∧
    (linkStateEvent kafer port old new width s).draws = s.draws ∧
    (linkStateEvent kafer port old new width s).pending = s.pending := by
  simp [linkStateEvent]

@[simp] theorem cmdDeadlineMiss_frame (h : CmdHdr) (src : CmdSource) (s : State) :
    (cmdDeadlineMiss h src s).variant = s.variant ∧ (cmdDeadlineMiss h src s).clk = s.clk ∧
    (cmdDeadlineMiss h src s).fuses = s.fuses ∧ (cmdDeadlineMiss h src s).mode = s.mode ∧
    (cmdDeadlineMiss h src s).sec = s.sec ∧ (cmdDeadlineMiss h src s).anv = s.anv ∧
    (cmdDeadlineMiss h src s).fab = s.fab ∧ (cmdDeadlineMiss h src s).link = s.link ∧
    (cmdDeadlineMiss h src s).tc = s.tc ∧ (cmdDeadlineMiss h src s).tel = s.tel ∧ (cmdDeadlineMiss h src s).pwr = s.pwr ∧
    (cmdDeadlineMiss h src s).mem = s.mem ∧ (cmdDeadlineMiss h src s).ecc = s.ecc ∧
    (cmdDeadlineMiss h src s).coh = s.coh ∧ (cmdDeadlineMiss h src s).xlt = s.xlt ∧
    (cmdDeadlineMiss h src s).eng = s.eng ∧ (cmdDeadlineMiss h src s).cru = s.cru ∧
    (cmdDeadlineMiss h src s).red = s.red ∧ (cmdDeadlineMiss h src s).draws = s.draws ∧
    (cmdDeadlineMiss h src s).pending = s.pending := by
  simp [cmdDeadlineMiss]

@[simp] theorem markRelayed_frame (r : Reply) (s : State) :
    (markRelayed r s).variant = s.variant ∧ (markRelayed r s).clk = s.clk ∧ (markRelayed r s).pins = s.pins ∧
    (markRelayed r s).regs = s.regs ∧ (markRelayed r s).fuses = s.fuses ∧ (markRelayed r s).mode = s.mode ∧
    (markRelayed r s).sec = s.sec ∧ (markRelayed r s).anv = s.anv ∧ (markRelayed r s).fab = s.fab ∧
    (markRelayed r s).ready = s.ready ∧ (markRelayed r s).link = s.link ∧ (markRelayed r s).tc = s.tc ∧
    (markRelayed r s).tel = s.tel ∧ (markRelayed r s).pwr = s.pwr ∧ (markRelayed r s).mem = s.mem ∧
    (markRelayed r s).ecc = s.ecc ∧ (markRelayed r s).coh = s.coh ∧ (markRelayed r s).xlt = s.xlt ∧
    (markRelayed r s).eng = s.eng ∧ (markRelayed r s).cru = s.cru ∧ (markRelayed r s).red = s.red ∧
    (markRelayed r s).draws = s.draws ∧ (markRelayed r s).out = s.out ∧ (markRelayed r s).pending = s.pending := by
  simp [markRelayed]

@[simp] theorem sendReply_frame (s : State) (src : CmdSource) (readyAt : Ltc) (r : Reply) :
    (sendReply s src readyAt r).variant = s.variant ∧ (sendReply s src readyAt r).clk = s.clk ∧
    (sendReply s src readyAt r).pins = s.pins ∧ (sendReply s src readyAt r).regs = s.regs ∧
    (sendReply s src readyAt r).fuses = s.fuses ∧ (sendReply s src readyAt r).mode = s.mode ∧
    (sendReply s src readyAt r).sec = s.sec ∧ (sendReply s src readyAt r).anv = s.anv ∧
    (sendReply s src readyAt r).fab = s.fab ∧ (sendReply s src readyAt r).link = s.link ∧
    (sendReply s src readyAt r).tc = s.tc ∧ (sendReply s src readyAt r).tel = s.tel ∧
    (sendReply s src readyAt r).pwr = s.pwr ∧ (sendReply s src readyAt r).mem = s.mem ∧
    (sendReply s src readyAt r).ecc = s.ecc ∧ (sendReply s src readyAt r).coh = s.coh ∧
    (sendReply s src readyAt r).xlt = s.xlt ∧ (sendReply s src readyAt r).eng = s.eng ∧
    (sendReply s src readyAt r).cru = s.cru ∧ (sendReply s src readyAt r).red = s.red ∧
    (sendReply s src readyAt r).draws = s.draws ∧ (sendReply s src readyAt r).pending = s.pending := by
  unfold sendReply
  (repeat' split) <;> simp

@[simp] theorem updEntry_frame (s : State) (h : CmdHdr) (f : JEntry → JEntry) :
    (updEntry s h f).variant = s.variant ∧ (updEntry s h f).clk = s.clk ∧ (updEntry s h f).pins = s.pins ∧
    (updEntry s h f).regs = s.regs ∧ (updEntry s h f).fuses = s.fuses ∧ (updEntry s h f).mode = s.mode ∧
    (updEntry s h f).sec = s.sec ∧ (updEntry s h f).anv = s.anv ∧ (updEntry s h f).fab = s.fab ∧
    (updEntry s h f).ready = s.ready ∧ (updEntry s h f).link = s.link ∧ (updEntry s h f).tc = s.tc ∧
    (updEntry s h f).tel = s.tel ∧ (updEntry s h f).pwr = s.pwr ∧ (updEntry s h f).mem = s.mem ∧
    (updEntry s h f).ecc = s.ecc ∧ (updEntry s h f).coh = s.coh ∧ (updEntry s h f).xlt = s.xlt ∧
    (updEntry s h f).eng = s.eng ∧ (updEntry s h f).cru = s.cru ∧ (updEntry s h f).red = s.red ∧
    (updEntry s h f).draws = s.draws ∧ (updEntry s h f).out = s.out ∧ (updEntry s h f).pending = s.pending := by
  simp [updEntry]

@[simp] theorem recordStatus_frame (h : CmdHdr) (status : Nat) (s : State) :
    (recordStatus h status s).variant = s.variant ∧ (recordStatus h status s).clk = s.clk ∧
    (recordStatus h status s).pins = s.pins ∧ (recordStatus h status s).regs = s.regs ∧
    (recordStatus h status s).fuses = s.fuses ∧ (recordStatus h status s).mode = s.mode ∧
    (recordStatus h status s).sec = s.sec ∧ (recordStatus h status s).anv = s.anv ∧
    (recordStatus h status s).fab = s.fab ∧ (recordStatus h status s).ready = s.ready ∧
    (recordStatus h status s).link = s.link ∧ (recordStatus h status s).tc = s.tc ∧
    (recordStatus h status s).tel = s.tel ∧ (recordStatus h status s).pwr = s.pwr ∧
    (recordStatus h status s).mem = s.mem ∧ (recordStatus h status s).ecc = s.ecc ∧
    (recordStatus h status s).coh = s.coh ∧ (recordStatus h status s).xlt = s.xlt ∧
    (recordStatus h status s).eng = s.eng ∧ (recordStatus h status s).cru = s.cru ∧
    (recordStatus h status s).red = s.red ∧ (recordStatus h status s).draws = s.draws ∧
    (recordStatus h status s).out = s.out ∧ (recordStatus h status s).pending = s.pending := by
  simp [recordStatus]

@[simp] theorem keepReply_frame (h : CmdHdr) (status : Nat) (r : Reply) (src : CmdSource) (s : State) :
    (keepReply h status r src s).variant = s.variant ∧ (keepReply h status r src s).clk = s.clk ∧
    (keepReply h status r src s).fuses = s.fuses ∧ (keepReply h status r src s).mode = s.mode ∧
    (keepReply h status r src s).sec = s.sec ∧ (keepReply h status r src s).anv = s.anv ∧
    (keepReply h status r src s).fab = s.fab ∧ (keepReply h status r src s).link = s.link ∧
    (keepReply h status r src s).tc = s.tc ∧ (keepReply h status r src s).tel = s.tel ∧
    (keepReply h status r src s).pwr = s.pwr ∧ (keepReply h status r src s).mem = s.mem ∧
    (keepReply h status r src s).ecc = s.ecc ∧ (keepReply h status r src s).coh = s.coh ∧
    (keepReply h status r src s).xlt = s.xlt ∧ (keepReply h status r src s).eng = s.eng ∧
    (keepReply h status r src s).cru = s.cru ∧ (keepReply h status r src s).red = s.red ∧
    (keepReply h status r src s).draws = s.draws ∧ (keepReply h status r src s).pending = s.pending := by
  unfold keepReply
  dsimp only
  (repeat' split) <;> simp

@[simp] theorem finish_frame (h : CmdHdr) (status : Nat) (payload : List Byte) (s : State) :
    (finish h status payload s).variant = s.variant ∧ (finish h status payload s).clk = s.clk ∧
    (finish h status payload s).fuses = s.fuses ∧ (finish h status payload s).mode = s.mode ∧
    (finish h status payload s).sec = s.sec ∧ (finish h status payload s).anv = s.anv ∧
    (finish h status payload s).fab = s.fab ∧ (finish h status payload s).link = s.link ∧
    (finish h status payload s).tc = s.tc ∧ (finish h status payload s).tel = s.tel ∧
    (finish h status payload s).pwr = s.pwr ∧ (finish h status payload s).mem = s.mem ∧
    (finish h status payload s).ecc = s.ecc ∧ (finish h status payload s).coh = s.coh ∧
    (finish h status payload s).xlt = s.xlt ∧ (finish h status payload s).eng = s.eng ∧
    (finish h status payload s).cru = s.cru ∧ (finish h status payload s).red = s.red ∧
    (finish h status payload s).draws = s.draws ∧ (finish h status payload s).pending = s.pending := by
  unfold finish
  dsimp only
  split <;> simp

@[simp] theorem refuseCmd_frame (h : CmdHdr) (status : Nat) (s : State) :
    (refuseCmd h status s).variant = s.variant ∧ (refuseCmd h status s).clk = s.clk ∧
    (refuseCmd h status s).fuses = s.fuses ∧ (refuseCmd h status s).mode = s.mode ∧ (refuseCmd h status s).sec = s.sec ∧
    (refuseCmd h status s).anv = s.anv ∧ (refuseCmd h status s).fab = s.fab ∧ (refuseCmd h status s).link = s.link ∧
    (refuseCmd h status s).tc = s.tc ∧ (refuseCmd h status s).tel = s.tel ∧ (refuseCmd h status s).pwr = s.pwr ∧
    (refuseCmd h status s).mem = s.mem ∧ (refuseCmd h status s).ecc = s.ecc ∧ (refuseCmd h status s).coh = s.coh ∧
    (refuseCmd h status s).xlt = s.xlt ∧ (refuseCmd h status s).eng = s.eng ∧ (refuseCmd h status s).cru = s.cru ∧
    (refuseCmd h status s).red = s.red ∧ (refuseCmd h status s).draws = s.draws ∧
    (refuseCmd h status s).pending = s.pending := by
  simp [refuseCmd]

@[simp] theorem okCmd_frame (h : CmdHdr) (payload : List Byte) (s : State) :
    (okCmd h payload s).variant = s.variant ∧ (okCmd h payload s).clk = s.clk ∧ (okCmd h payload s).fuses = s.fuses ∧
    (okCmd h payload s).mode = s.mode ∧ (okCmd h payload s).sec = s.sec ∧ (okCmd h payload s).anv = s.anv ∧
    (okCmd h payload s).fab = s.fab ∧ (okCmd h payload s).link = s.link ∧ (okCmd h payload s).tc = s.tc ∧
    (okCmd h payload s).tel = s.tel ∧ (okCmd h payload s).pwr = s.pwr ∧ (okCmd h payload s).mem = s.mem ∧
    (okCmd h payload s).ecc = s.ecc ∧ (okCmd h payload s).coh = s.coh ∧ (okCmd h payload s).xlt = s.xlt ∧
    (okCmd h payload s).eng = s.eng ∧ (okCmd h payload s).cru = s.cru ∧ (okCmd h payload s).red = s.red ∧
    (okCmd h payload s).draws = s.draws ∧ (okCmd h payload s).pending = s.pending := by
  simp [okCmd]

@[simp] theorem beginLong_frame (h : CmdHdr) (s : State) :
    (beginLong h s).variant = s.variant ∧ (beginLong h s).clk = s.clk ∧ (beginLong h s).pins = s.pins ∧
    (beginLong h s).regs = s.regs ∧ (beginLong h s).fuses = s.fuses ∧ (beginLong h s).mode = s.mode ∧
    (beginLong h s).sec = s.sec ∧ (beginLong h s).anv = s.anv ∧ (beginLong h s).fab = s.fab ∧
    (beginLong h s).ready = s.ready ∧ (beginLong h s).link = s.link ∧ (beginLong h s).tc = s.tc ∧
    (beginLong h s).tel = s.tel ∧ (beginLong h s).pwr = s.pwr ∧ (beginLong h s).mem = s.mem ∧
    (beginLong h s).ecc = s.ecc ∧ (beginLong h s).coh = s.coh ∧ (beginLong h s).xlt = s.xlt ∧
    (beginLong h s).eng = s.eng ∧ (beginLong h s).cru = s.cru ∧ (beginLong h s).red = s.red ∧
    (beginLong h s).draws = s.draws ∧ (beginLong h s).out = s.out ∧ (beginLong h s).pending = s.pending := by
  simp [beginLong]

@[simp] theorem countEv_frame (cluster event tenant n : Nat) (s : State) :
    (countEv cluster event tenant n s).variant = s.variant ∧ (countEv cluster event tenant n s).clk = s.clk ∧
    (countEv cluster event tenant n s).pins = s.pins ∧ (countEv cluster event tenant n s).regs = s.regs ∧
    (countEv cluster event tenant n s).fuses = s.fuses ∧ (countEv cluster event tenant n s).ctl = s.ctl ∧
    (countEv cluster event tenant n s).mode = s.mode ∧ (countEv cluster event tenant n s).sec = s.sec ∧
    (countEv cluster event tenant n s).anv = s.anv ∧ (countEv cluster event tenant n s).fab = s.fab ∧
    (countEv cluster event tenant n s).ready = s.ready ∧ (countEv cluster event tenant n s).link = s.link ∧
    (countEv cluster event tenant n s).tc = s.tc ∧ (countEv cluster event tenant n s).pwr = s.pwr ∧
    (countEv cluster event tenant n s).mem = s.mem ∧ (countEv cluster event tenant n s).ecc = s.ecc ∧
    (countEv cluster event tenant n s).coh = s.coh ∧ (countEv cluster event tenant n s).xlt = s.xlt ∧
    (countEv cluster event tenant n s).eng = s.eng ∧ (countEv cluster event tenant n s).cru = s.cru ∧
    (countEv cluster event tenant n s).red = s.red ∧ (countEv cluster event tenant n s).draws = s.draws ∧
    (countEv cluster event tenant n s).out = s.out ∧ (countEv cluster event tenant n s).pending = s.pending := by
  simp [countEv]

@[simp] theorem countDie_frame (die event n : Nat) (s : State) :
    (countDie die event n s).variant = s.variant ∧ (countDie die event n s).clk = s.clk ∧
    (countDie die event n s).pins = s.pins ∧ (countDie die event n s).regs = s.regs ∧
    (countDie die event n s).fuses = s.fuses ∧ (countDie die event n s).ctl = s.ctl ∧
    (countDie die event n s).mode = s.mode ∧ (countDie die event n s).sec = s.sec ∧
    (countDie die event n s).anv = s.anv ∧ (countDie die event n s).fab = s.fab ∧
    (countDie die event n s).ready = s.ready ∧ (countDie die event n s).link = s.link ∧
    (countDie die event n s).tc = s.tc ∧ (countDie die event n s).pwr = s.pwr ∧ (countDie die event n s).mem = s.mem ∧
    (countDie die event n s).ecc = s.ecc ∧ (countDie die event n s).coh = s.coh ∧ (countDie die event n s).xlt = s.xlt ∧
    (countDie die event n s).eng = s.eng ∧ (countDie die event n s).cru = s.cru ∧ (countDie die event n s).red = s.red ∧
    (countDie die event n s).draws = s.draws ∧ (countDie die event n s).out = s.out ∧
    (countDie die event n s).pending = s.pending := by
  simp [countDie]

@[simp] theorem countPart_frame (event n : Nat) (s : State) :
    (countPart event n s).variant = s.variant ∧ (countPart event n s).clk = s.clk ∧ (countPart event n s).pins = s.pins ∧
    (countPart event n s).regs = s.regs ∧ (countPart event n s).fuses = s.fuses ∧ (countPart event n s).ctl = s.ctl ∧
    (countPart event n s).mode = s.mode ∧ (countPart event n s).sec = s.sec ∧ (countPart event n s).anv = s.anv ∧
    (countPart event n s).fab = s.fab ∧ (countPart event n s).ready = s.ready ∧ (countPart event n s).link = s.link ∧
    (countPart event n s).tc = s.tc ∧ (countPart event n s).pwr = s.pwr ∧ (countPart event n s).mem = s.mem ∧
    (countPart event n s).ecc = s.ecc ∧ (countPart event n s).coh = s.coh ∧ (countPart event n s).xlt = s.xlt ∧
    (countPart event n s).eng = s.eng ∧ (countPart event n s).cru = s.cru ∧ (countPart event n s).red = s.red ∧
    (countPart event n s).draws = s.draws ∧ (countPart event n s).out = s.out ∧
    (countPart event n s).pending = s.pending := by
  simp [countPart]

end Sys2Proof.Machine
end

