-- ==== Sys2Proof/Laws/Tab.lean ====
section
/-! SUPPORT. Laws of tables: reading after writing, and the canonical form. -/

namespace Sys2Proof.Machine

variable {α : Type}

@[simp] theorem Tab.find_nil (k : Nat) : Tab.find ([] : Tab α) k = none := rfl

theorem Tab.find_cons (j : Nat) (v : α) (r : Tab α) (k : Nat) :
    Tab.find ((j, v) :: r) k = if k = j then some v else Tab.find r k := rfl

@[simp] theorem Tab.find_put_self (t : Tab α) (k : Nat) (v : α) : (t.put k v).find k = some v := by
  induction t with
  | nil => simp [Tab.put, Tab.find]
  | cons e r ih =>
    obtain ⟨j, w⟩ := e
    unfold Tab.put
    by_cases h1 : k < j
    · simp [Tab.find, h1]
    · by_cases h2 : k = j
      · simp [Tab.find, h2]
      · simp [Tab.find, h1, h2, ih]

theorem Tab.find_put_of_ne (t : Tab α) {k m : Nat} (v : α) (h : m ≠ k) : (t.put k v).find m = t.find m := by
  induction t with
  | nil => simp [Tab.put, Tab.find, h]
  | cons e r ih =>
    obtain ⟨j, w⟩ := e
    unfold Tab.put
    by_cases h1 : k < j
    · simp [Tab.find, h1, h]
    · by_cases h2 : k = j
      · subst h2; simp [Tab.find, h]
      · simp [Tab.find, h1, h2, ih]

@[simp] theorem Tab.find_del_self (t : Tab α) (k : Nat) : (t.del k).find k = none := by
  induction t with
  | nil => rfl
  | cons e r ih =>
    obtain ⟨j, w⟩ := e
    by_cases h : j = k
    · simpa [Tab.del, h] using ih
    · have h' : ¬ k = j := fun x => h x.symm
      simpa [Tab.del, h, Tab.find, h'] using ih

theorem Tab.find_del_of_ne (t : Tab α) {k m : Nat} (h : m ≠ k) : (t.del k).find m = t.find m := by
  induction t with
  | nil => rfl
  | cons e r ih =>
    obtain ⟨j, w⟩ := e
    by_cases h' : j = k
    · subst h'
      simpa [Tab.del, Tab.find, h] using ih
    · have e : Tab.del ((j, w) :: r) k = (j, w) :: Tab.del r k := by simp [Tab.del, h']
      rw [e, Tab.find_cons, Tab.find_cons, ih]

@[simp] theorem Tab.get_set_self [DecidableEq α] (d : α) (t : Tab α) (k : Nat) (v : α) : (t.set d k v).get d k = v := by
  unfold Tab.set Tab.get
  by_cases h : v = d <;> simp [h]

theorem Tab.get_set_of_ne [DecidableEq α] (d : α) (t : Tab α) {k m : Nat} (v : α) (h : m ≠ k) :
    (t.set d k v).get d m = t.get d m := by
  unfold Tab.set Tab.get
  split
  · rw [Tab.find_del_of_ne t h]
  · rw [Tab.find_put_of_ne t v h]

@[simp] theorem Tab.get_put_self (d : α) (t : Tab α) (k : Nat) (v : α) : (t.put k v).get d k = v := by simp [Tab.get]

/-! ### The canonical form -/

theorem Tab.above_mono {j k : Nat} {t : Tab α} (h : j ≤ k) (ht : Tab.above k t = true) : Tab.above j t = true := by
  cases t with
  | nil => rfl
  | cons e r => simp [Tab.above] at *; omega

theorem Tab.above_put {j k : Nat} {t : Tab α} {v : α} (h : j < k) (ht : Tab.above j t = true) :
    Tab.above j (t.put k v) = true := by
  cases t with
  | nil => simpa [Tab.put, Tab.above] using h
  | cons e r =>
    obtain ⟨i, w⟩ := e
    simp only [Tab.put]
    repeat' split
    all_goals simp_all [Tab.above]

theorem Tab.wf_put {t : Tab α} (k : Nat) (v : α) (h : Tab.wf t = true) : Tab.wf (t.put k v) = true := by
  induction t with
  | nil => rfl
  | cons e r ih =>
    obtain ⟨j, w⟩ := e
    simp only [Tab.wf, Bool.and_eq_true] at h
    unfold Tab.put
    by_cases h1 : k < j
    · simp only [h1, if_true, Tab.wf, Bool.and_eq_true]
      exact ⟨by simp [Tab.above, h1], h.1, h.2⟩
    · by_cases h2 : k = j
      · subst h2; simp [Tab.wf, h.1, h.2]
      · simp only [h1, h2, if_false]
        simp only [Tab.wf, Bool.and_eq_true]
        exact ⟨Tab.above_put (by omega) h.1, ih h.2⟩

theorem Tab.wf_iff {t : Tab α} : Tab.wf t = true ↔ t.Pairwise fun a b => a.1 < b.1 := by
  induction t with
  | nil => simp [Tab.wf]
  | cons e r ih =>
    obtain ⟨j, w⟩ := e
    rw [Tab.wf, Bool.and_eq_true, ih, List.pairwise_cons]
    constructor
    · rintro ⟨ha, hr⟩
      refine ⟨fun b hb => ?_, hr⟩
      cases r with
      | nil => simp at hb
      | cons c q =>
        obtain ⟨i, x⟩ := c
        simp only [Tab.above, decide_eq_true_eq] at ha
        rcases List.mem_cons.1 hb with rfl | hb
        · exact ha
        · exact Nat.lt_trans ha ((List.pairwise_cons.1 hr).1 b hb)
    · rintro ⟨ha, hr⟩
      refine ⟨?_, hr⟩
      cases r with
      | nil => rfl
      | cons c q => simpa [Tab.above] using ha c (by simp)

theorem Tab.wf_filter {t : Tab α} (p : Nat × α → Bool) (h : Tab.wf t = true) : Tab.wf (t.filter p) = true := by
  rw [Tab.wf_iff] at *
  exact h.filter p

theorem Tab.wf_del {t : Tab α} (k : Nat) (h : Tab.wf t = true) : Tab.wf (t.del k) = true := Tab.wf_filter _ h

theorem Tab.wf_keep {t : Tab α} (p : Nat → α → Bool) (h : Tab.wf t = true) : Tab.wf (t.keep p) = true := Tab.wf_filter _ h

theorem Tab.noDefault_put [DecidableEq α] {d : α} {t : Tab α} {k : Nat} {v : α} (hv : v ≠ d) (h : t.noDefault d = true) :
    (t.put k v).noDefault d = true := by
  induction t with
  | nil => simp [Tab.put, Tab.noDefault, hv]
  | cons e r ih =>
    obtain ⟨j, w⟩ := e
    have h1 : w ≠ d ∧ Tab.noDefault d r = true := by simpa [Tab.noDefault] using h
    have h2 := ih h1.2
    unfold Tab.put
    repeat' split
    all_goals simp only [Tab.noDefault, List.all_cons, Bool.and_eq_true, decide_eq_true_eq] at *
    · exact ⟨hv, h1⟩
    · exact ⟨hv, h1.2⟩
    · exact ⟨h1.1, h2⟩

theorem Tab.noDefault_filter [DecidableEq α] {d : α} {t : Tab α} (p : Nat × α → Bool) (h : t.noDefault d = true) :
    Tab.noDefault d (t.filter p) = true := by
  simp only [Tab.noDefault, List.all_eq_true] at *
  exact fun x hx => h x (List.mem_filter.1 hx).1

/-- A write that lists no default keeps the canonical form. -/
theorem Tab.canonical_set [DecidableEq α] {d : α} {t : Tab α} (k : Nat) (v : α) (h : t.canonical d = true) :
    (t.set d k v).canonical d = true := by
  simp only [Tab.canonical, Bool.and_eq_true] at *
  unfold Tab.set
  split
  · exact ⟨Tab.wf_del k h.1, Tab.noDefault_filter _ h.2⟩
  · exact ⟨Tab.wf_put k v h.1, Tab.noDefault_put ‹_› h.2⟩

/-- Taking entries away keeps the canonical form. -/
theorem Tab.canonical_keep [DecidableEq α] {d : α} {t : Tab α} (p : Nat → α → Bool) (h : t.canonical d = true) :
    (t.keep p).canonical d = true := by
  simp only [Tab.canonical, Bool.and_eq_true] at *
  exact ⟨Tab.wf_keep p h.1, Tab.noDefault_filter _ h.2⟩

end Sys2Proof.Machine
end

