-- ==== Sys2Proof/Laws/Memory.lean ====
section
/-! SUPPORT. Every memory operation keeps the canonical form of the arrays; reading a byte after writing one. -/

namespace Sys2Proof.Machine

/-! ### One byte -/

@[simp] theorem Store.byte_putByte_self (st : Store) (a : Nat) (b : Byte) : (st.putByte a b).byte a = b := by
  simp [Store.byte, Store.putByte]

theorem Store.byte_putByte_of_ne (st : Store) {a c : Nat} (b : Byte) (h : c ≠ a) : (st.putByte a b).byte c = st.byte c := by
  simp [Store.byte, Store.putByte, Tab.get_set_of_ne _ _ _ h]

/-- Writing n bytes leaves every byte outside them. -/
theorem Store.byte_putNum_outside (st : Store) (a n x c : Nat) (h : c < a ∨ a + n ≤ c) :
    (st.putNum a n x).byte c = st.byte c := by
  induction n generalizing st a x with
  | zero => rfl
  | succ n ih =>
    rw [Store.putNum, ih _ _ _ (by omega), Store.byte_putByte_of_ne _ _ (by omega)]

/-- A number read back where it was written. -/
theorem Store.num_putNum_self (st : Store) (a n x : Nat) : (st.putNum a n x).num a n = x % 256 ^ n := by
  induction n generalizing st a x with
  | zero => simp [Store.num, Nat.mod_one]
  | succ n ih =>
    rw [Store.putNum, Store.num, ih, Store.byte_putNum_outside _ _ _ _ _ (by omega), Store.byte_putByte_self,
      BitVec.toNat_ofNat, show (256 : Nat) ^ (n + 1) = 256 * 256 ^ n from Nat.pow_succ' , Nat.mod_mul]

/-! ### The canonical form -/

theorem Store.wf_putByte {st : Store} (a : Nat) (b : Byte) (h : st.wf = true) : (st.putByte a b).wf = true := by
  simp only [Store.wf, Store.putByte, Bool.and_eq_true] at *
  exact ⟨⟨⟨Tab.canonical_set _ _ h.1.1.1, h.1.1.2⟩, h.1.2⟩, h.2⟩

theorem Store.wf_putNum {st : Store} (a n x : Nat) (h : st.wf = true) : (st.putNum a n x).wf = true := by
  induction n generalizing st a x with
  | zero => exact h
  | succ n ih => exact ih _ _ (Store.wf_putByte _ _ h)

theorem Store.wf_putWord {st : Store} (w data md err : Nat) (h : st.wf = true) : (st.putWord w data md err).wf = true := by
  have h1 := Store.wf_putNum (8 * w) 8 data h
  simp only [Store.wf, Store.putWord, Bool.and_eq_true] at *
  exact ⟨⟨⟨h1.1.1.1, Tab.canonical_set _ _ h1.1.1.2⟩, Tab.canonical_set _ _ h1.1.2⟩, h1.2⟩

/-- A fold of steps that each keep the form keeps it. -/
theorem Store.wf_foldl {α : Type} (f : Store → α → Store) (l : List α) {st : Store}
    (hf : ∀ st x, st.wf = true → (f st x).wf = true) (h : st.wf = true) : (l.foldl f st).wf = true := by
  induction l generalizing st with
  | nil => exact h
  | cons x r ih => exact ih (hf _ x h)

theorem Store.wf_putLine {st : Store} (ln x : Nat) (pats : List Nat) (tag : Nat) (h : st.wf = true) :
    (st.putLine ln x pats tag).wf = true := by
  have h1 : ((List.range 8).foldl (fun st i =>
      st.putWord (8 * ln + i) (wordData x i) (wordMeta x i) (pats.getD i 0)) st).wf = true :=
    Store.wf_foldl _ _ (fun _ _ => Store.wf_putWord _ _ _ _) h
  unfold Store.putLine
  simp only [Store.wf, Bool.and_eq_true] at *
  exact ⟨h1.1, Tab.canonical_set _ _ h1.2⟩

theorem Store.wf_zero {st : Store} (lo hi : Nat) (h : st.wf = true) : (st.zero lo hi).wf = true := by
  simp only [Store.wf, Store.zero, Bool.and_eq_true] at *
  exact ⟨⟨⟨Tab.canonical_keep _ h.1.1.1, Tab.canonical_keep _ h.1.1.2⟩, Tab.canonical_keep _ h.1.2⟩, Tab.canonical_keep _ h.2⟩

theorem Store.wf_errs {st : Store} {e : Tab (BitVec 80)} (he : Tab.canonical 0 e = true) (h : st.wf = true) :
    ({ st with errs := e } : Store).wf = true := by
  simp only [Store.wf, Bool.and_eq_true] at *
  exact ⟨⟨h.1.1, he⟩, h.2⟩

theorem Store.errs_of_wf {st : Store} (h : st.wf = true) : Tab.canonical 0 st.errs = true := by
  simp only [Store.wf, Bool.and_eq_true] at h
  exact h.1.2

theorem Store.wf_empty : ({} : Store).wf = true := rfl

/-! ### Arrays of a state -/

theorem storeOf_wf {s : State} (a : Arr) (h : Memory.wf s.mem = true) : (storeOf s a).wf = true := by
  simp only [Memory.wf, Bool.and_eq_true] at h
  cases a
  · exact h.1.1
  · exact h.1.2
  · exact h.2

theorem setStore_wf {s : State} (a : Arr) {st : Store} (hst : st.wf = true) (h : Memory.wf s.mem = true) :
    Memory.wf (setStore a st s).mem = true := by
  simp only [Memory.wf, Bool.and_eq_true] at *
  cases a
  · exact ⟨⟨hst, h.1.2⟩, h.2⟩
  · exact ⟨⟨h.1.1, hst⟩, h.2⟩
  · exact ⟨h.1, hst⟩

/-- A fold of steps that each keep the form keeps it. -/
theorem memory_wf_foldl {α : Type} (f : State → α → State) (l : List α) {s : State}
    (hf : ∀ s x, Memory.wf s.mem = true → Memory.wf (f s x).mem = true) (h : Memory.wf s.mem = true) :
    Memory.wf (l.foldl f s).mem = true := by
  induction l generalizing s with
  | nil => exact h
  | cons x r ih => exact ih (hf _ x h)

@[simp] theorem countLine_mem (a : Arr) (ln event : Nat) (s : State) : (countLine a ln event s).mem = s.mem := by
  cases a <;> rfl

theorem wr_mem (s : State) (f : Fld) (v : Nat) : (wr s f v).mem = s.mem := by simp
theorem bump_mem (s : State) (f : Fld) : (bump s f).mem = s.mem := by simp
theorem raiseFault_mem (i : FaultInfo) (s : State) : (raiseFault i s).mem = s.mem := by simp

theorem countCorrected_mem (a : Arr) (addr : Nat) (double : Bool) (s : State) :
    (countCorrected a addr double s).mem = s.mem := by
  simp only [countCorrected, apply_ite State.mem, wr_mem, raiseFault_mem, bump_mem, ite_self]

theorem countUncorrectable_mem (a : Arr) (addr check : Nat) (pos : List Nat) (s : State) :
    (countUncorrectable a addr check pos s).mem = s.mem := by
  simp only [countUncorrectable, raiseFault_mem, bump_mem]

theorem noteDecoded_mem (a : Arr) (addr check : Nat) (d : Decoded) (s : State) :
    (noteDecoded a addr check d s).mem = s.mem := by
  unfold noteDecoded
  split <;> simp only [countCorrected_mem, countUncorrectable_mem]

/-- A table of patterns that entries are set in, one by one, keeps its form. -/
theorem errs_wf_foldl (g : Nat → Nat × BitVec 80) (l : List Nat) {t : Tab (BitVec 80)} (h : Tab.canonical 0 t = true) :
    Tab.canonical 0 (l.foldl (fun t i => Tab.set 0 t (g i).1 (g i).2) t) = true := by
  induction l generalizing t with
  | nil => exact h
  | cons x r ih => exact ih (Tab.canonical_set _ _ h)

theorem readUnder_wf (a : Arr) (ln : Nat) (k : KeyRes) {s : State} (h : Memory.wf s.mem = true) :
    Memory.wf (readUnder a ln k s).2.2.mem = true := by
  unfold readUnder
  dsimp only
  split
  · rwa [countLine_mem]
  · apply setStore_wf
    · apply Store.wf_errs
      · exact errs_wf_foldl (fun i => (8 * ln + i, _)) _
          (Store.errs_of_wf (storeOf_wf a (by rwa [countLine_mem])))
      · exact storeOf_wf a (memory_wf_foldl _ _ (fun s i hs => by rwa [noteDecoded_mem]) (by rwa [countLine_mem]))
    · exact memory_wf_foldl _ _ (fun s i hs => by rwa [noteDecoded_mem]) (by rwa [countLine_mem])

theorem writeWhole_wf (a : Arr) (ln : Nat) (k : KeyRes) (l : Line) {s : State} (h : Memory.wf s.mem = true) :
    Memory.wf (writeWhole a ln k l s).mem = true := by
  have h' : Memory.wf (countLine a ln 0x211 s).mem = true := by rwa [countLine_mem]
  unfold writeWhole
  dsimp only
  split
  · exact h'
  · exact setStore_wf a (Store.wf_putLine _ _ _ _ (storeOf_wf a h')) h'
  · exact setStore_wf a (Store.wf_putLine _ _ _ _ (storeOf_wf a h')) h'

theorem writeRawWords_wf (a : Arr) (ln m : Nat) (l : Line) {s : State} (h : Memory.wf s.mem = true) :
    Memory.wf (writeRawWords a ln m l s).mem = true := by
  have h' : Memory.wf (countLine a ln 0x211 s).mem = true := by rwa [countLine_mem]
  unfold writeRawWords
  refine setStore_wf a (Store.wf_foldl _ _ (fun st i hst => ?_) (storeOf_wf a h')) h'
  split
  · exact Store.wf_putWord _ _ _ _ hst
  · exact hst

theorem writeUnder_wf (a : Arr) (ln : Nat) (k : KeyRes) (m : Nat) (l : Line) {s : State} (h : Memory.wf s.mem = true) :
    Memory.wf (writeUnder a ln k m l s).mem = true := by
  unfold writeUnder
  split
  · exact writeWhole_wf _ _ _ _ h
  · split
    · exact writeRawWords_wf _ _ _ _ h
    · exact writeWhole_wf _ _ _ _ (readUnder_wf _ _ _ h)

theorem readLine_wf (a : Arr) (ln : Nat) {s : State} (h : Memory.wf s.mem = true) :
    Memory.wf (readLine a ln s).2.mem = true := readUnder_wf _ _ _ h

theorem writeLine_wf (a : Arr) (ln m : Nat) (l : Line) {s : State} (h : Memory.wf s.mem = true) :
    Memory.wf (writeLine a ln m l s).mem = true := writeUnder_wf _ _ _ _ _ h

theorem readWord_wf (a : Arr) (addr : Nat) {s : State} (h : Memory.wf s.mem = true) :
    Memory.wf (readWord a addr s).2.2.mem = true := readLine_wf _ _ h

theorem writeWord_wf (a : Arr) (addr x : Nat) {s : State} (h : Memory.wf s.mem = true) :
    Memory.wf (writeWord a addr x s).mem = true := writeLine_wf _ _ _ _ h

theorem readSram_wf (loc : Nat) {s : State} (h : Memory.wf s.mem = true) : Memory.wf (readSram loc s).2.2.2.mem = true := by
  unfold readSram
  apply setStore_wf
  · apply Store.wf_errs
    · exact Tab.canonical_set _ _ (Store.errs_of_wf (storeOf_wf .sram (by rwa [noteDecoded_mem])))
    · exact storeOf_wf .sram (by rwa [noteDecoded_mem])
  · rwa [noteDecoded_mem]

theorem writeSram_wf (loc x : Nat) (poisoned : Bool) {s : State} (h : Memory.wf s.mem = true) :
    Memory.wf (writeSram loc x poisoned s).mem = true :=
  setStore_wf .sram (Store.wf_putWord _ _ _ _ (storeOf_wf .sram h)) h

theorem zeroGranule_wf (g : Nat) {s : State} (h : Memory.wf s.mem = true) : Memory.wf (zeroGranule g s).mem = true :=
  have h' : Memory.wf (setStore .stack (s.mem.stack.zero (g * 2 ^ 24) ((g + 1) * 2 ^ 24)) s).mem = true :=
    setStore_wf .stack (Store.wf_zero _ _ (storeOf_wf .stack h)) h
  h'

theorem zeroFrame_wf (f : Nat) {s : State} (h : Memory.wf s.mem = true) : Memory.wf (zeroFrame f s).mem = true :=
  setStore_wf .stack (Store.wf_zero _ _ (storeOf_wf .stack h)) h

theorem zeroFarFrame_wf (f : Nat) {s : State} (h : Memory.wf s.mem = true) : Memory.wf (zeroFarFrame f s).mem = true :=
  have h' : Memory.wf (setStore .far (s.mem.far.zero (f * 2 ^ 15) ((f + 1) * 2 ^ 15)) s).mem = true :=
    setStore_wf .far (Store.wf_zero _ _ (storeOf_wf .far h)) h
  h'

/-- The pattern of one word replaced, as test mode and write-backs do, keeps the form. -/
theorem setErr_wf (a : Arr) (w : Nat) (e : BitVec 80) {s : State} (h : Memory.wf s.mem = true) :
    Memory.wf (setStore a { storeOf s a with errs := Tab.set 0 (storeOf s a).errs w e } s).mem = true :=
  setStore_wf a (Store.wf_errs (Tab.canonical_set _ _ (Store.errs_of_wf (storeOf_wf a h))) (storeOf_wf a h)) h

theorem reset_memory_wf : Memory.wf State.reset.mem = true := rfl

end Sys2Proof.Machine
end

