-- ==== Sys2Proof/Laws/Regs.lean ====
section
/-! SUPPORT. Laws of registers and of time: reading after writing, and what a write leaves alone. -/

namespace Sys2Proof.Machine

/-- A register reads as it was written. -/
@[simp] theorem regGet_regSet_self (s : State) (a v : Nat) : regGet (regSet s a v) a = v % 2 ^ 64 := by
  unfold regSet
  split
  · rename_i h; rw [h]; simp [regGet]
  · simp [regGet]

/-- Another register keeps its value. -/
theorem regGet_regSet_of_ne (s : State) {a b : Nat} (v : Nat) (h : b ≠ a) : regGet (regSet s a v) b = regGet s b := by
  unfold regSet
  split
  · simp [regGet, Tab.find_del_of_ne _ h]
  · simp [regGet, Tab.find_put_of_ne _ _ h]

/-- A field reads as it was written. -/
theorem rd_wr_self (s : State) (f : Fld) (v : Nat) (h : f.lo + f.w ≤ 64) : rd (wr s f v) f = v % 2 ^ f.w := by
  unfold rd wr
  rw [regGet_regSet_self, bitsOf_mod _ _ _ _ h, bitsOf_putBits]

/-- A field of another register keeps its value. -/
theorem rd_wr_of_addr_ne (s : State) (f g : Fld) (v : Nat) (h : g.addr ≠ f.addr) : rd (wr s f v) g = rd s g := by
  unfold rd wr
  rw [regGet_regSet_of_ne _ _ h]

/-- Another field of the same register keeps its value. -/
theorem rd_wr_of_disjoint (s : State) (f g : Fld) (v : Nat) (ha : g.addr = f.addr) (hg : g.lo + g.w ≤ 64)
    (h : g.lo + g.w ≤ f.lo ∨ f.lo + f.w ≤ g.lo) : rd (wr s f v) g = rd s g := by
  unfold rd wr
  rw [ha, regGet_regSet_self, bitsOf_mod _ _ _ _ hg, bitsOf_putBits_of_disjoint _ _ _ _ _ _ h]

/-- What a register holds depends on the register file alone. -/
theorem regGet_congr {s s' : State} (h : s'.regs = s.regs) (a : Nat) : regGet s' a = regGet s a := by
  simp [regGet, h]

theorem rd_congr {s s' : State} (h : s'.regs = s.regs) (f : Fld) : rd s' f = rd s f := by
  simp [rd, regGet_congr h]

/-- A saturating counter below its limit rises by one. -/
theorem rd_bump_self (s : State) (f : Fld) (h : f.lo + f.w ≤ 64) :
    rd (bump s f) f = min (2 ^ f.w - 1) (rd s f + 1) := by
  unfold bump bumpBy
  rw [rd_wr_self _ _ _ h, Nat.mod_eq_of_lt]
  have := Nat.two_pow_pos f.w
  omega

/-- The register file reads as the Reset columns say until something is written (R14). -/
theorem regGet_reset (a : Nat) : regGet State.reset a = Reg.resetOf a := rfl

/-! ### Time -/

@[simp] theorem now_regs (s : State) (r : Tab (BitVec 64)) : now { s with regs := r } = now s := rfl

/-- The time depends on the clock alone. -/
theorem now_congr {s s' : State} (h : s'.clk = s.clk) : now s' = now s := by simp [now, h]

end Sys2Proof.Machine
end

