-- ==== Sys2Proof/Laws/Reply.lean ====
section
/-! SUPPORT. What a final reply leaves: the journal entry that holds it, and every register but the fault registers. -/

namespace Sys2Proof.Machine

/-! ### Registers -/

theorem rd_fltStatus_ne {a : Nat} (h : a ∉ faultRegs) : a ≠ Reg.FLT_STATUS.base ∧ a ≠ Reg.FLT_STATUS2.base := by
  simp only [faultRegs, List.mem_cons, List.not_mem_nil, or_false, not_or] at h
  exact h

theorem regGet_wr_of_ne (s : State) (f : Fld) (v : Nat) {a : Nat} (h : a ≠ f.addr) : regGet (wr s f v) a = regGet s a :=
  regGet_regSet_of_ne _ _ h

/-- An event moves no register. -/
theorem raiseEvent_regGet (cls tenant len payload : Nat) (s : State) (a : Nat) :
    regGet (raiseEvent cls tenant len payload s) a = regGet s a := regGet_congr (by simp) a

theorem formRecord_regGet (r cls tenant : Nat) (s : State) {a : Nat} (h : a ∉ faultRegs) :
    regGet (formRecord r cls tenant s) a = regGet s a := by
  obtain ⟨h1, -⟩ := rd_fltStatus_ne h
  unfold formRecord
  dsimp only
  split
  · rw [raiseEvent_regGet, regGet_wr_of_ne _ _ _ h1]
  · rw [raiseEvent_regGet, regGet_wr_of_ne _ _ _ h1]
    exact regGet_wr_of_ne s _ _ h1

/-- A fault record moves the fault registers alone. -/
theorem raiseFault_sameRegs (i : FaultInfo) (s : State) : SameRegs faultRegs s (raiseFault i s) := by
  intro a h
  obtain ⟨-, h2⟩ := rd_fltStatus_ne h
  unfold raiseFault
  split
  · split
    · exact regGet_wr_of_ne _ _ _ h2
    · rw [formRecord_regGet _ _ _ _ h]
      rfl
  · exact formRecord_regGet _ _ _ _ h

theorem SameRegs.trans {l : List Nat} {s s' s'' : State} (h : SameRegs l s s') (h' : SameRegs l s' s'') : SameRegs l s s'' :=
  fun a ha => (h' a ha).trans (h a ha)

theorem sameRegs_of_regs {l : List Nat} {s s' : State} (h : s'.regs = s.regs) : SameRegs l s s' := fun a _ => regGet_congr h a

theorem keepReply_sameRegs (h : CmdHdr) (status : Nat) (r : Reply) (src : CmdSource) (s : State) :
    SameRegs faultRegs s (keepReply h status r src s) := by
  unfold keepReply
  dsimp only
  have h1 : SameRegs faultRegs s (recordStatus h status
      (updEntry s h fun e => { e with st := .replied, reply := some r, readyAt := after s 0 })) :=
    sameRegs_of_regs (by simp)
  generalize recordStatus h status
      (updEntry s h fun e => { e with st := .replied, reply := some r, readyAt := after s 0 }) = u at h1 ⊢
  have h2 : SameRegs faultRegs s (if r.late = true then cmdDeadlineMiss h src u else u) := by
    split
    · exact h1.trans (raiseFault_sameRegs _ _)
    · exact h1
  split
  · exact h2.trans (raiseFault_sameRegs _ _)
  · exact h2

theorem sendReply_regs (s : State) (src : CmdSource) (t : Ltc) (r : Reply) : (sendReply s src t r).regs = s.regs := by simp

/-- A final reply moves the fault registers alone. -/
theorem finish_sameRegs (h : CmdHdr) (status : Nat) (payload : List Byte) (s : State) :
    SameRegs faultRegs s (finish h status payload s) := by
  unfold finish
  dsimp only
  split
  · exact sameRegs_of_regs rfl
  · exact (keepReply_sameRegs _ _ _ _ _).trans (sameRegs_of_regs (sendReply_regs _ _ _ _))

/-! ### The journal -/

@[simp] theorem setKlink_journal (s : State) (p : KPort) (k : KLink) : (setKlink s p k).ctl.journal = s.ctl.journal := by
  cases p <;> rfl

theorem kSendNow_event_journal {s s' : State} {p : KPort} {e : EventRec} {rep : Bool} {x : BitVec 32}
    (h : kSendNow s p (.event e rep x) = some s') : s'.ctl.journal = s.ctl.journal := by
  unfold kSendNow at h
  dsimp only at h
  split at h
  · cases h
    simp [markSent, emitAll]
  · cases h

theorem kSend_event_journal (s : State) (p : KPort) (e : EventRec) (rep : Bool) (x : BitVec 32) :
    (kSend s p (.event e rep x)).ctl.journal = s.ctl.journal := by
  unfold kSend
  split
  · split
    · exact kSendNow_event_journal ‹_›
    · simp [emit, kWait]
  · simp [kWait]

/-- A packet in cells leaves the journal. -/
theorem sendMgmt_journal (op : Nat) (dest : BitVec 12) (packet : List Byte) (s : State) :
    (sendMgmt op dest packet s).ctl.journal = s.ctl.journal := by
  unfold sendMgmt
  split <;> rfl

theorem sendEventTo_journal (e : EventRec) (rep overdue : Bool) (s : State) (x : Session) :
    (sendEventTo e rep overdue s x).ctl.journal = s.ctl.journal := by
  unfold sendEventTo
  split
  · split
    · exact kSend_event_journal _ _ _ _ _
    · rfl
  · exact sendMgmt_journal _ _ _ _
  · rfl

theorem foldl_journal {α : Type} (f : State → α → State) (l : List α) (s : State)
    (h : ∀ s x, (f s x).ctl.journal = s.ctl.journal) : (l.foldl f s).ctl.journal = s.ctl.journal := by
  induction l generalizing s with
  | nil => rfl
  | cons x r ih => rw [List.foldl_cons, ih, h]

theorem sendEvent_journal (e : EventRec) (overdue : Bool) (s : State) : (sendEvent e overdue s).ctl.journal = s.ctl.journal := by
  unfold sendEvent
  dsimp only
  split
  · rfl
  · exact foldl_journal _ _ _ (sendEventTo_journal e _ _)

theorem raiseEvent_journal (cls tenant len payload : Nat) (s : State) :
    (raiseEvent cls tenant len payload s).ctl.journal = s.ctl.journal := by
  unfold raiseEvent raiseEventAt
  dsimp only
  split
  · unfold holdEvent
    rw [sendEvent_journal]
    rfl
  · rfl

@[simp] theorem wr_ctl (s : State) (f : Fld) (v : Nat) : (wr s f v).ctl = s.ctl := by simp

theorem formRecord_journal (r cls tenant : Nat) (s : State) : (formRecord r cls tenant s).ctl.journal = s.ctl.journal := by
  unfold formRecord
  dsimp only
  split
  · rw [raiseEvent_journal, wr_ctl]
  · rw [raiseEvent_journal, wr_ctl]
    show (wr s _ _).ctl.journal = _
    rw [wr_ctl]

/-- A fault record leaves the journal. -/
theorem raiseFault_journal (i : FaultInfo) (s : State) : (raiseFault i s).ctl.journal = s.ctl.journal := by
  unfold raiseFault
  split
  · split
    · simp only [bump, bumpBy, wr_ctl]
      rfl
    · rw [formRecord_journal]
  · exact formRecord_journal _ _ _ _

/-- Where an item goes through a function, it or its image is in the list after. -/
theorem mem_updFirst {α : Type} (test : α → Bool) (f : α → α) {l : List α} {x : α} (h : x ∈ l) :
    x ∈ updFirst test f l ∨ f x ∈ updFirst test f l := by
  induction l with
  | nil => cases h
  | cons y r ih =>
    unfold updFirst
    split
    · rcases List.mem_cons.1 h with rfl | h
      · exact .inr List.mem_cons_self
      · exact .inl (List.mem_cons_of_mem _ h)
    · rcases List.mem_cons.1 h with rfl | h
      · exact .inl List.mem_cons_self
      · exact (ih h).imp (List.mem_cons_of_mem _) (List.mem_cons_of_mem _)

/-- The first item that satisfies a test has its image in the list after. -/
theorem image_mem_updFirst {α : Type} (test : α → Bool) (f : α → α) {l : List α} {x : α} (h : l.find? test = some x) :
    f x ∈ updFirst test f l := by
  induction l with
  | nil => cases h
  | cons y r ih =>
    unfold updFirst
    rw [List.find?_cons] at h
    split at h
    · cases h
      simp [*]
    · simp only [*, Bool.false_eq_true, if_false]
      exact List.mem_cons_of_mem _ (ih h)

/-- A change of an entry that keeps headers, stages and replies keeps what commands were answered. -/
theorem hasReply_updJournal {s : State} {h : CmdHdr} {r : Reply} (test : JEntry → Bool) (f : JEntry → JEntry)
    (hf : ∀ e, (f e).h = e.h ∧ (f e).st = e.st ∧ (f e).reply = e.reply) (hr : HasReply s h r) :
    HasReply (updJournal test f s) h r := by
  obtain ⟨e, he, h1, h2, h3⟩ := hr
  obtain ⟨g1, g2, g3⟩ := hf e
  rcases mem_updFirst test f he with hm | hm
  · exact ⟨e, hm, h1, h2, h3⟩
  · exact ⟨f e, hm, g1.trans h1, g2.trans h2, g3.trans h3⟩

theorem hasReply_of_journal {s s' : State} {h : CmdHdr} {r : Reply} (hj : s'.ctl.journal = s.ctl.journal)
    (hr : HasReply s h r) : HasReply s' h r := by
  unfold HasReply at *
  rwa [hj]

theorem hasReply_markSent {s : State} {h : CmdHdr} {r : Reply} (p : KPort) (f : BitVec 16) (k : KPacket)
    (hr : HasReply s h r) : HasReply (markSent p f k s) h r := by
  unfold markSent
  split
  · exact hasReply_updJournal _ _ (fun _ => ⟨rfl, rfl, rfl⟩) hr
  · exact hr

theorem hasReply_kSend {s : State} {h : CmdHdr} {r : Reply} (p : KPort) (k : KPacket) (hr : HasReply s h r) :
    HasReply (kSend s p k) h r := by
  unfold kSend
  split
  · split
    · rename_i s' hs
      unfold kSendNow at hs
      dsimp only at hs
      split at hs
      · cases hs
        exact hasReply_markSent _ _ _ (hasReply_of_journal (by simp [emitAll]) hr)
      · cases hs
    · exact hasReply_of_journal (by simp [emit, kWait]) hr
  · exact hasReply_of_journal (by simp [kWait]) hr

theorem hasReply_markRelayed {s : State} {h : CmdHdr} {r : Reply} (q : Reply) (hr : HasReply s h r) :
    HasReply (markRelayed q s) h r := hasReply_updJournal _ _ (fun _ => ⟨rfl, rfl, rfl⟩) hr

theorem hasReply_sendReply {s : State} {h : CmdHdr} {r : Reply} (src : CmdSource) (t : Ltc) (q : Reply)
    (hr : HasReply s h r) : HasReply (sendReply s src t q) h r := by
  unfold sendReply
  split
  · exact hr
  · split
    · split
      · exact hasReply_kSend _ _ hr
      · exact hr
    · exact hasReply_markRelayed _ (hasReply_of_journal (sendMgmt_journal _ _ _ _) hr)
    · exact hasReply_markRelayed _ (hasReply_of_journal rfl hr)

/-- The entry that a command's completion changes is one of that command, not yet answered. -/
theorem entryOf_spec {s : State} {h : CmdHdr} {e : JEntry} (he : entryOf s h = some e) : e.h = h := by
  have := List.find?_some he
  simp only [JEntry.isOpen, Bool.and_eq_true, decide_eq_true_eq] at this
  exact this.1

/-- A command that waits has an entry for its completion. -/
theorem entryOf_of_waits {s : State} {h : CmdHdr} (hw : Waits s h) : ∃ e, entryOf s h = some e := by
  obtain ⟨e, he, h1, h2⟩ := hw
  cases hx : entryOf s h with
  | some x => exact ⟨x, rfl⟩
  | none =>
    have := List.find?_eq_none.1 hx e he
    simp [JEntry.isOpen, h1, h2] at this

theorem hasReply_keepReply {s : State} {h : CmdHdr} {e : JEntry} (status : Nat) (r : Reply) (src : CmdSource)
    (he : entryOf s h = some e) : HasReply (keepReply h status r src s) h r := by
  unfold keepReply
  dsimp only
  have h0 : HasReply (recordStatus h status
      (updEntry s h fun e => { e with st := .replied, reply := some r, readyAt := after s 0 })) h r :=
    ⟨_, image_mem_updFirst _ _ he, (show e.h = h from entryOf_spec he), rfl, rfl⟩
  generalize recordStatus h status
      (updEntry s h fun e => { e with st := .replied, reply := some r, readyAt := after s 0 }) = u at h0 ⊢
  have h3 : HasReply (if r.late = true then cmdDeadlineMiss h src u else u) h r := by
    split
    · exact hasReply_of_journal (raiseFault_journal _ _) h0
    · exact h0
  split
  · exact hasReply_of_journal (raiseFault_journal _ _) h3
  · exact h3

/-- A command that waits is answered by `finish`, with the fields it echoes (R48). -/
theorem finish_answered {s : State} {h : CmdHdr} (status : Nat) (payload : List Byte) (hs : status < 2 ^ 16) (hw : Waits s h) :
    Answered (finish h status payload s) h status payload := by
  obtain ⟨e, he⟩ := entryOf_of_waits hw
  unfold finish
  simp only [he]
  obtain ⟨x, hx, h1, h2, h3⟩ := hasReply_sendReply e.src (after s 0)
    { mkReply s h status (payloadFor h payload) with late := cmdLate s h, held := e.held, reexec := e.reexec }
    (hasReply_keepReply status
      { mkReply s h status (payloadFor h payload) with late := cmdLate s h, held := e.held, reexec := e.reexec } e.src he)
  exact ⟨x, hx, h1, h2, _, h3, by simpa [mkReply] using hs, rfl, rfl, rfl, rfl, rfl, rfl⟩

/-- A refused command that waits is answered with its status and no payload. -/
theorem refuseCmd_answered {s : State} {h : CmdHdr} (status : Nat) (hs : status < 2 ^ 16) (hw : Waits s h) :
    Answered (refuseCmd h status s) h status [] := finish_answered status [] hs hw

/-- A command that waits and succeeds is answered `OK`. -/
theorem okCmd_answered {s : State} {h : CmdHdr} (payload : List Byte) (hw : Waits s h) :
    Answered (okCmd h payload s) h Status.OK payload := finish_answered _ _ (by decide) hw

/-- A final reply works on the control plane alone. -/
theorem finish_controlOnly (h : CmdHdr) (status : Nat) (payload : List Byte) (s : State) :
    ControlOnly s (finish h status payload s) := by
  refine ⟨?_, ?_, ?_, ?_, ?_, finish_sameRegs h status payload s, ?_, ?_⟩ <;>
    simp [SameMemory, SameEngines, SameFabric, SamePlatform, SameModes]

/-- Waiting is a fact of the journal. -/
theorem waits_of_journal {s s' : State} {h : CmdHdr} (hj : s'.ctl.journal = s.ctl.journal) (hw : Waits s h) : Waits s' h := by
  unfold Waits at *
  rwa [hj]

/-- An opcode whose TENANT and STAGED flag suit it runs its body at its time. -/
theorem opcode_of_suits {t : Ltc} {h : CmdHdr} {sc : Scope} (staged : Bool) (body : State → State) (s : State)
    (hs : Suits h sc) : opcode t h sc staged body s = .next (body (adv t s)) := by
  simp [opcode, hs.1, hs.2]

end Sys2Proof.Machine
end

