-- ==== Sys2Proof/Tests/Slice0.lean ====
section
/-! SUPPORT. Tests: small states that meet the hypotheses of the statements, and single steps against the spec's own examples. -/

set_option Elab.async false
set_option synthInstance.maxSize 1000
set_option synthInstance.maxHeartbeats 200000

namespace Sys2Proof.Tests
open Sys2Proof Sys2Proof.Machine

/-! ### Small states -/

/-- A header of an opcode and tenant, in the second session, SEQ 5. -/
def hdr (opcode : BitVec 16) (tenant : BitVec 12) : CmdHdr := ⟨1, opcode, 7, 0xFFF, tenant, 0, 0, 0, 0, 0, 33, 5⟩
def hP : CmdHdr := hdr 0 0xFFF
def hT : CmdHdr := hdr 0 5
/-- The journal entry of a running command that came over Kaferlink A. -/
def entryFor (h : CmdHdr) : JEntry := { h := h, params := [], src := .kafer .a, accepted := 0, st := .running 0 }
/-- The part after reset with one command running. -/
def waiting (h : CmdHdr) : State := { State.reset with ctl.journal := [entryFor h] }
/-- A reply to a command. -/
def replyTo (h : CmdHdr) (status : BitVec 16) : Reply :=
  { opcode := h.opcode, tag := h.tag, source := 0xFFF, tenant := h.tenant, late := false, relayed := false, held := false,
    reexec := false, anvilB := false, resent := false, doneLtc := 0, appliedGen := 0, status := status, session := h.session,
    seq := h.seq, payload := [] }
/-- The answered entry of a command. -/
def doneEntry (h : CmdHdr) : JEntry := { entryFor h with st := .replied, reply := some (replyTo h 0) }
/-- A data frame numbered 1 without packets, and a frame of the replay buffer. -/
def frame0 : Frame := ⟨1, 1, 0, 0x7FF, 0, 0, [], 0, 0⟩
def goodFrame : Frame := { frame0 with crc := frameSum frame0 }
def txf (n : BitVec 16) : TxFrame := ⟨n, [], .reply (replyTo hP 0), 0⟩
/-- Kaferlink port B up. -/
def upB (s : State) : State := wr s (Fld.KAFER_LINK_STATUS_STATE 1) 2
/-- Kaferlink port A up. -/
def upA (s : State) : State := wr s (Fld.KAFER_LINK_STATUS_STATE 0) 2
/-- A session opened over Kaferlink A. -/
def sess : Session := { id := 33, subscriber := true, node := 0, src := .kafer .a }
/-- Anvil A holds the token, Anvil B stands by. -/
def held (s : State) : State := { s with
  anv := { s.anv with a := { state := 4, healthy := true }, b := { state := 3, healthy := true }, token := some .f0, lease := 1000000 } }
/-- Control-plane part of a state replaced. -/
def withCtl (s : State) (f : Ctl → Ctl) : State := { s with ctl := f s.ctl }
/-- A descriptor of tenant 5. -/
def qd : QDesc := { ring := 1, slot := 0, desc := 0, tenant := 5, age := 0 }
/-- A task of tenant 5. -/
def tk : Task := { q := qd }
/-- One task on engine 0, context 0. -/
def withTask (x : Task) (s : State) : State := { s with eng := { s.eng with tasks := [(0, x)] } }
/-- Granule 0 is the platform's, granule 1 tenant 5's. -/
def ingots (s : State) : State :=
  { s with mem := { s.mem with ingots := [(1, { tenant := 0, kind := 2, base := 0, count := 1 }), (2, { tenant := 5, kind := 0, base := 1, count := 1 })] },
           sec := { s.sec with tenants := [(5, { entry := 5, key := 3 })] } }
/-- Tables of tenant 5 in granule 0: page 0 maps to an entry. -/
def tables (leaf : Nat) (s : State) : State :=
  let st := ((({} : Store).putNum 0x1000 8 0x200001).putNum 0x2000 8 0x300001).putNum 0x3000 8 0x400001
  let s := ingots s
  { wr (wr s (Fld.XLT_ROOT_VALID 5) 1) (Fld.XLT_ROOT_ROOT 5) 1 with
    mem := { s.mem with stack := { st.putNum 0x4000 8 leaf with tags := [(64, 1), (128, 1), (192, 1), (256, 1)] } } }
/-- Six far channels with DIMMs of 1 GiB, ready; tier moves on. -/
def farReady (s : State) : State :=
  wr (wr (wr (wr s Fld.MEM_CONFIG_FAR_CHANNELS 6) Fld.MEM_CONFIG_FAR_DIMM_GIB 1) Fld.MEM_CONFIG_FAR_STATE 2) Fld.MEM_TIER_CTRL_ENABLE 1
/-- Memory part of a state replaced. -/
def withMem (s : State) (f : Mem → Mem) : State := { s with mem := f s.mem }
/-- A sector region of tier 0 at GiB 400. -/
def region (n : Nat) (s : State) : State :=
  wr (wr (wr s (Fld.MEM_SECTOR_REGION_VALID n) 1) (Fld.MEM_SECTOR_REGION_BASE_GIB n) 400) (Fld.MEM_SECTOR_REGION_SIZE_GIB n) 1
/-- A cell with the CHECK that its bits ask for. -/
def checked (c : Cell) : Cell := { c with check := cellCrc c }
/-- A cell of class 0, OP 1, from node 9 to node 0xFFF. -/
def cell0 : Cell :=
  { hops := 0, hopPtr := 31, age := 0, dest := 0xFFF, src := 9, cls := 0, op := 1, repoch := 0, gen := 0, enc := false, owner := 5,
    sseq := 0, addr := 0, lines := 1, plines := 0, meta128 := 0, payload := 0, check := 0 }
/-- A link word with no ACK. -/
def lw : LinkWord := { lseq := 0, lack := 0, sack := 0, kind := 0, retx := false, av := false, cclass := 7, credits := 0 }
/-- A link message. -/
def lm (msg : BitVec 8) : LinkMsg :=
  { msg := msg, reqNum := 1, uid := 77, partId := 9, sink := false, seen := true, pool := 0, reserve := 0, laneMask := 0xFFFF, width := 16 }
/-- A port UP with 16 lanes and this link state. -/
def portUpWith (p : Nat) (x : LPort) (s : State) : State :=
  wr (wr (wr { s with link := s.link.put p x } (Fld.FAB_PORT_STATUS_STATE p) 2) (Fld.FAB_PORT_STATUS_WIDTH p) 16)
    (Fld.FAB_PORT_STATUS_LANE_MASK p) 0xFFFF
/-- A staged form of a header, for generation 1. -/
def hS (h : CmdHdr) : CmdHdr := { h with flags := 4, modeGen := 1 }
/-- Such a cell to the first block of granule 1. -/
def cellE : Cell := checked { cell0 with addr := 0x200000, sseq := 100 }
/-- A part of whose domain node 9 is a member, and that takes its requests: lines 0, 3 and 7 of granule 1 written under tenant 5's key. -/
def serves (e : Stream) : State :=
  let s := ingots State.reset
  { s with
    regs := s.regs.put Reg.COH_MEMBER.base 0x3000000000
    mode := { s.mode with applied := { routes := [(9, 0x400F)] } }
    fab := { s.fab with streams := [(cellStream cellE, e)] }
    mem := { s.mem with stack := { bytes := [(0x400001C0, 9)], tags := [(0x1000000, 4), (0x1000003, 4), (0x1000007, 4)] } } }
/-- A tenant queue at port 15 with one cell. -/
def queued (s : State) : State :=
  { s with tc := { s.tc with ports := [(15, { queues := [(5, { s := 7, f := 9, cells := [{ cell := cell0, num := 3 }] })] })] } }
/-- A ring of tenant 5 with four slots. -/
def rg : Ring := { entry := 0x40002000400000066, tenant := 5 }
/-- A request of this part to node 9 that lacks its reply. -/
def rq (op : BitVec 5) : Request :=
  { dest := 9, enc := false, owner := 5, num := 100, port := 15, tenant := 5, cell := { cellE with op := op, src := 0xFFF, dest := 9 },
    missing := 1, firstSent := 0, lastSent := 0 }
/-- A part with one request outstanding. -/
def asked (r : Request) : State := let s := serves { base := 100 }; { s with fab := { s.fab with reqs := [r] } }
/-- A reply of node 9 to it. -/
def rply (op : BitVec 5) : Cell := checked { cellE with cls := 1, op := op, lines := 0, addr := 0 }
/-- Agents 36 and 37 of node 9 are members; homes hold this. -/
def homes (c : Coh) : State := { State.reset with regs := State.reset.regs.put Reg.COH_MEMBER.base 0x3000000000, coh := c }
/-- A shared entry, and an owned one. -/
def sharedBy (l : List (BitVec 14)) : DirEntry := { owned := false, ptrs := l }
def ownedBy' (a : BitVec 14) : DirEntry := { owned := true, ptrs := [a] }
/-- A transaction of agent 36. -/
def tr0 (op : CohOp) (st : TState) (need : List (BitVec 14)) : Trans := { req := ⟨36, op, 0⟩, st := st, need := need }
/-- Engine `code` runs a task of tenant 5, whose pages 0 and 1 it maps to granules 1 and 2 (KIND 1); the lines listed of each are
written under the tenant's key. -/
def engS (code : Nat) (x : Task) (own shared : List Nat) (bytes : List (Nat × Byte)) : State :=
  let s := ingots State.reset
  { s with
    mem := { s.mem with
      ingots := s.mem.ingots ++ [(3, { tenant := 5, kind := 1, base := 2, count := 1 })]
      stack := { bytes := bytes, tags := own.map (fun i => (0x1000000 + i, 4)) ++ shared.map fun i => (0x2000000 + i, 4) } }
    xlt := { l1 := [(code, [⟨5, 0, 21, 0, 0, 0x40000000, true, true, false⟩, ⟨5, 0x200000, 21, 0, 0, 0x80000000, true, true, false⟩])] }
    eng := { rings := [(1, rg)], tasks := [(32 * code, x)] } }
/-- A task with this descriptor. -/
def tkD (desc : BitVec 1024) : Task := { q := { qd with desc := desc } }
/-- A sequence descriptor: BF16, 64 elements, one head, one layer, four blocks; tables at 0, sketches at 0x80. -/
def seqDesc : Nat := 3 + 3 * 2 ^ 2 + 2 * 2 ^ 8 + 2 ^ 24 + 2 ^ 32 + 2 ^ 40 + 4 * 2 ^ 48 + 128 * 2 ^ 128

/-! ### Conditions as tests that can be evaluated -/

theorem some_iff {α : Type} (o : Option α) (p : α → Prop) [DecidablePred p] :
    (∃ x, o = some x ∧ p x) ↔ o.any (fun x => decide (p x)) = true := by
  cases o <;> simp

theorem all_iff {α : Type} (l : List α) (p : α → Prop) [DecidablePred p] :
    (∀ x ∈ l, p x) ↔ l.all (fun x => decide (p x)) = true := by simp

theorem any_iff {α : Type} (l : List α) (p : α → Prop) [DecidablePred p] :
    (∃ x ∈ l, p x) ↔ l.any (fun x => decide (p x)) = true := by simp

theorem some_all_iff {α : Type} (o : Option α) (p : α → Prop) [DecidablePred p] :
    (∀ x, o = some x → p x) ↔ o.all (fun x => decide (p x)) = true := by
  cases o <;> simp

theorem swap_iff {m n : Nat} {p : Nat → Nat → Prop} :
    (∀ i j, i < m → j < n → p i j) ↔ ∀ i, i < m → ∀ j, j < n → p i j :=
  ⟨fun h i hi j hj => h i j hi hj, fun h i j hi hj => h i hi j hj⟩

theorem from_one_iff {n : Nat} {p : Nat → Prop} : (∀ i, 1 ≤ i → i < n → p i) ↔ ∀ i, i < n → 1 ≤ i → p i :=
  ⟨fun h i a b => h i b a, fun h i a b => h i b a⟩

theorem lines_iff {a b : Nat} {p : Nat → Prop} :
    (∀ l, a ≤ l → 64 * l < b → p l) ↔ ∀ l, l < (b + 63) / 64 → a ≤ l ∧ 64 * l < b → p l :=
  ⟨fun h l _ c => h l c.1 c.2, fun h l c d => h l (by omega) ⟨c, d⟩⟩

theorem blocks_iff {l : List (Nat × Nat)} {p : Nat → Nat → Nat → Prop} :
    (∀ i b va, l[i]? = some (b, va) → p i b va) ↔ ∀ x ∈ l.zipIdx, p x.2 x.1.1 x.1.2 := by
  constructor
  · intro h x hx
    exact h _ _ _ (List.mem_zipIdx_iff_getElem?.1 hx)
  · intro h i b va e
    exact h ((b, va), i) (List.mem_zipIdx_iff_getElem?.2 e)

/-- A line of a read-shared ingot. -/
def isShared (o : Owner) : Bool := match o with | .sharedRead _ => true | _ => false

theorem shared_iff {o : Owner} : (∃ u, o = .sharedRead u) ↔ isShared o = true := by
  cases o <;> simp [isShared]

theorem key_iff (k : KeyRes) (t : Nat) : (∃ n, k = .key n ∧ t = n + 1) ↔ t ≠ 0 ∧ k = .key (t - 1) := by
  constructor
  · rintro ⟨n, rfl, rfl⟩; simp
  · rintro ⟨h, rfl⟩; exact ⟨t - 1, rfl, by omega⟩

theorem find_mem {α : Type} {l : Tab α} {k : Nat} {v : α} (h : l.find k = some v) : (k, v) ∈ l := by
  induction l with
  | nil => simp [Tab.find] at h
  | cons e r ih =>
    rw [show Tab.find (e :: r) k = if k = e.1 then some e.2 else Tab.find r k from rfl] at h
    split at h
    · rename_i hk; cases h; exact hk ▸ List.mem_cons_self ..
    · exact List.mem_cons_of_mem _ (ih h)

/-- Which requesters back off is read off the list. -/
theorem backoff_iff (s : State) :
    (∀ who, backedOff s who = false) ↔ (s.coh.backoffs.all fun e => !backedOff s e.1) = true := by
  refine ⟨fun h => by simp [h], fun h who => ?_⟩
  rw [List.all_eq_true] at h
  cases e : s.coh.backoffs.find who with
  | none => simp [backedOff, e]
  | some b => simpa using h _ (find_mem e)

/-- An address is mapped to some stack address by the entry that is found for it. -/
def touchOk (s : State) (eng : Eng) (t va : Nat) (write : Bool) : Bool :=
  decide (va < 2 ^ 57) &&
    ((s.xlt.l1.get [] eng.toNat ++ s.xlt.l2.get [] eng.cl).all fun e => !e.covers t va || !e.bad) &&
    match (s.xlt.l1.get [] eng.toNat).find? (TlbEntry.hits t va) with
    | some e => (!write || e.w && e.wOk) &&
      match e.target va with | .stack la => la % 64 == va % 64 | _ => false
    | none => false

theorem touchOk_maps {s : State} {eng : Eng} {t va : Nat} {write : Bool} (h : touchOk s eng t va write = true) :
    ∃ la, L1Maps s eng t va la write := by
  unfold touchOk at h
  split at h <;> rename_i f
  · split at h <;> rename_i g
    · simp only [Bool.and_eq_true, decide_eq_true_eq, List.all_eq_true, beq_iff_eq] at h
      refine ⟨_, h.1.1, h.2.2, fun e he hc => ?_, _, f, ?_, g⟩
      · simpa [hc] using h.1.2 e he
      · intro w; simpa [w] using h.2.1
    · simp at h
  · simp at h

theorem touch_iff (s : State) (eng : Eng) (t va n : Nat) (write : Bool) :
    CanTouchSpan s eng t va n write ↔ ∀ i, i < (if n = 0 then 0 else (va + n - 1) / mib2 - va / mib2 + 1) →
      touchOk s eng t (if i = 0 then va else alignDown va mib2 + mib2 * i) write = true := by
  refine forall_congr' fun i => forall_congr' fun _ => ⟨?_, touchOk_maps⟩
  rintro ⟨la, hv, hm, hb, e, he, hw, ht⟩
  simp only [touchOk, he, ht, hm, Bool.and_eq_true, decide_eq_true_eq, List.all_eq_true, beq_self_eq_true, and_true]
  refine ⟨⟨hv, fun x hx => ?_⟩, ?_⟩
  · cases hc : x.covers t (if i = 0 then va else alignDown va mib2 + mib2 * i) with
    | false => rfl
    | true => simp [hb x hx hc]
  · cases write with
    | false => rfl
    | true => simpa using hw rfl
/-! ### Well-formed commands: a term that each check refuses -/

theorem test_wf_rail : (Instr.railInWindow 0 13).wf = true ∧ (Instr.railInWindow 0 14).wf = false := by decide
theorem test_wf_phase : (Instr.phaseLate 0 8 0 0 0).wf = true ∧ (Instr.phaseLate 0 0 0 0 0).wf = false := by decide
theorem test_wf_dimms :
    (Instr.powerOnPhase 0 8 ⟨3, [64, 64], [7, 1]⟩).wf = true ∧ (Instr.powerOnPhase 0 8 ⟨3, [64], [7, 1]⟩).wf = false := by decide
theorem test_wf_tamper : (Instr.tamper 0 4).wf = true ∧ (Instr.tamper 0 5).wf = false := by decide
theorem test_wf_tinning : (Instr.tinning 0 3).wf = true ∧ (Instr.tinning 0 0).wf = false := by decide
theorem test_wf_engine : (Instr.steal 0 0x4FF).wf = true ∧ (Instr.steal 0 0x500).wf = false := by decide
theorem test_wf_group : (Instr.fetchBatch 0 0 0 4 ⟨[], []⟩).wf = true ∧ (Instr.fetchBatch 0 0 0 5 ⟨[], []⟩).wf = false := by decide
theorem test_wf_unit :
    (Instr.selfRefreshEntry 0 (.stack 383)).wf = true ∧ (Instr.selfRefreshEntry 0 (.stack 384)).wf = false ∧
      (Instr.selfRefreshEntry 0 (.ddr 12)).wf = false := by decide
theorem test_wf_params :
    (Instr.csrWrite 0 hP 0 8 (List.replicate 1024 0)).wf = true ∧
      (Instr.csrWrite 0 hP 0 8 (List.replicate 1025 0)).wf = false := by decide +kernel
theorem test_wf_places :
    (Instr.routerSlot 0 .f0 [(1, cell0), (2, cell0)]).wf = true ∧
      (Instr.routerSlot 0 .f0 [(1, cell0), (1, cell0)]).wf = false := by decide +kernel
theorem test_wf_reply :
    (Instr.relayReply 0 (.reply (replyTo hP 0) 0)).wf = true ∧
      (Instr.relayReply 0 (.reply { replyTo hP 0 with payload := List.replicate 16385 0 } 0)).wf = false := by decide +kernel
theorem test_wf_poll :
    (Instr.pmbusPoll 0 .f0 [⟨4, true, 0, 0, 0, 0⟩]).wf = true ∧
      (Instr.pmbusPoll 0 .f0 [⟨15, true, 0, 0, 0, 0⟩]).wf = false := by decide

/-! ### The table's words and the queue -/

/-- The table gives no row any bits. -/
theorem test_no_word_spells_a_command : decodeTableWord 16 0 = none ∧ decodeTableWord 0 0 = none := by decide

/-- A step takes the command at the front. -/
theorem test_step_takes_the_front :
    step { State.reset with pending := [.heartbeat 3, .poresetNLow 4] } =
      exec (.heartbeat 3) { State.reset with pending := [.poresetNLow 4] } := by rfl

/-! ### The spec's own examples -/

/-- R68, R69: the worked example of one local address, grain 4 KiB, LA 0x12_3456_7A80: home C1, DLA 0x9_1A2B_3A80, stack 11,
pseudo-channel 22, PCO 203,613,312. -/
theorem test_r70_place :
    homeOf (wr State.reset Fld.MEM_CONFIG_GRAIN 1) 0x1234567A80 = (1, 0x91A2B3A80) ∧
      placeOf (wr State.reset Fld.MEM_CONFIG_GRAIN 1) 0x1234567A80 = ⟨1, 11, 22, 203613312⟩ := by decide +kernel

/-- R70: in that example bank group 11, bank 1, row 3,106. -/
theorem test_r70_bank : bankOf 203613312 / 4 = 11 ∧ bankOf 203613312 % 4 = 1 ∧ rowOf 203613312 = 3106 := by decide +kernel

/-- The worked example of one translation: grain 2 MiB, LA 0x2D_0C80_0140 has home C0 and DLA 0x16_8640_0140. -/
theorem test_translation_home :
    homeOf (wr State.reset Fld.MEM_CONFIG_GRAIN 3) 0x2D0C800140 = (0, 0x1686400140) := by decide +kernel

/-- R86: the worked example of one BF16 page: a group that spans 8 binades has w = 3 and takes 46 bytes, a unit 2,944. -/
theorem test_r86_unit :
    let xs := (List.range 32).map fun i => 0x3C00 + 0x380 * (i % 2)
    (planishFmt 1).width xs = 3 ∧ 2 + 32 * (planishFmt 1).width xs / 8 + (planishFmt 1).smBytes = 46 ∧
      (planishFmt 1).groups * 46 = 2944 := by decide +kernel

/-- R311: the worked example: L = 576, weight 3 gives a step of 12,582,912, weight 1 one of 37,748,736. -/
theorem test_r311_steps :
    let q := { State.reset with mode := { applied := { traffic := [(5157, 3), (5161, 1), (3 * 65536 + 5, 64)] } } }
    let c := { cell0 with op := 2, lines := 0xFF }
    finishTag q 5 37 0 c = 12582912 ∧ finishTag q 5 41 0 c = 37748736 := by decide +kernel

/-- R380: the worked example of a VCORE dip: rail 0, 661 mV, 3,600 ns below, 13 µs throttled. -/
theorem test_r380_dip :
    supplyPayload (adv 14800 State.reset) 0 ⟨1200, 1200, 661⟩ 661 3600 =
      packBits [(4, 0), (4, 0), (16, 661), (8, 0), (32, 3600), (48, 1200), (16, 13)] := by decide +kernel

/-- R420, R416: the worked example's dump of 16 records of 256 B holds 256 periods in 1 MiB. -/
theorem test_dump_cost : 16 * clusters State.reset * 16 * 256 = 2 ^ 20 := by decide +kernel

/-! ### Numbers and codes, by hand -/

/-- FP32: 1 + 1 = 2, 1.5 × −2 = −3, 2^24 + 1 rounds to even, the largest number doubled is an infinity. -/
theorem test_fp32 :
    f32Add 0x3F800000 0x3F800000 = 0x40000000 ∧ f32Mul 0x3FC00000 0xC0000000 = 0xC0400000 ∧
      f32Add 0x4B800000 0x3F800000 = 0x4B800000 ∧ f32Add 0x7F7FFFFF 0x7F7FFFFF = 0x7F800000 := by decide +kernel

/-- BF16 rounds to nearest even: 1 + 2^-8 goes to 1, 1 + 3 × 2^-8 to 1 + 2^-6. -/
theorem test_bf16 : toBf16 (f32 0x3F808000) = 0x3F80 ∧ toBf16 (f32 0x3F818000) = 0x3F82 := by decide +kernel

/-- E4M3: 0x7E is 448, 0x01 is 2^-9; E2M1: 7 is 6 (the OCP formats of R182). -/
theorem test_ocp :
    toF32 (NumFmt.e4m3.elem 0x7E) = 0x43E00000 ∧ toF32 (NumFmt.e4m3.elem 1) = 0x3B000000 ∧
      toF32 (NumFmt.e2m1.elem 7) = 0x40C00000 := by decide +kernel

/-- R242: two wrong bits of a word are found, and the pattern of poison is poison. -/
theorem test_bch :
    decodeWord 80 (2 ^ 3 + 2 ^ 79) = ⟨.double, [3, 79]⟩ ∧ (decodeWord 80 (patternOf true)).outcome = .poison := by
  decide +kernel

/-- CRC-32 of "123456789" is the check value 0xCBF43926 of the code R85 names. -/
theorem test_crc : crc32 [0x31, 0x32, 0x33, 0x34, 0x35, 0x36, 0x37, 0x38, 0x39] = 0xCBF43926 := by decide +kernel

/-! ### States and operands that meet the hypotheses of the statements

One theorem for each statement, named after it, one clause for each set of hypotheses it has. -/

theorem test_met_StepRunsFrontCommand :
    (∃ (s : State), s.pending = []) ∧
    (∃ (s : State) (c : Instr) (r : List Instr), s.pending = c :: r) := by
  refine ⟨⟨State.reset, ?_⟩,
    ⟨{ waiting hP with pending := [.nop 20 hP, .modeApply 3] }, .nop 20 hP, [.modeApply 3], ?_⟩⟩ <;>
    decide +kernel

theorem test_met_LegalStatesKept :
    ∃ (s : State) (s' : State), LegalStates s ∧ step s = .next s' := by
  refine ⟨{ State.reset with pending := [.heartbeat 3] }, { adv 3 State.reset with pending := [] }, ?_⟩
  simp only [LegalStates, some_all_iff]
  and_intros <;> first | decide +kernel | rfl

def sKaferlinkGoBackN2 : State := setKlink (upA State.reset) .a { lastSent := 2, unacked := [txf 1, txf 2], resends := 6 }

theorem test_met_KaferlinkGoBackN :
    (∃ (p : KPort) (f : Frame) (s : State), portUp s p = true ∧ f.ftype = 1 ∧ f.crc = frameSum f ∧ f.fseq =
      (klink s p).lastGood + 1) ∧
    (∃ (p : KPort) (f : Frame) (good : Bool) (s : State), portUp s p = true ∧ (good = false ∨ f.crc ≠ frameSum f)) ∧
    (∃ (p : KPort) (first : BitVec 16) (ack : BitVec 16) (s : State), portUp s p = true ∧ (klink s p).resends + 1 < 8 ∧
      (∀ f ∈ (klink s p).unacked, coveredBy (klink s p) ack f = false) ∧ (∃ f ∈ (klink s p).unacked, f.fseq = first)) ∧
    (∃ (t : Ltc) (p : KPort) (f : TxFrame) (r : List TxFrame) (s : State), portUp s p = true ∧ (klink s p).resends + 1 < 8
      ∧ (klink s p).unacked = f :: r ∧ (klink s p).ackAt.toNat + 40000 ≤ now (adv t s) ∧
      (∀ x ∈ r, behind (klink s p).lastSent x.fseq ≤ behind (klink s p).lastSent f.fseq)) := by
  refine ⟨⟨.b, goodFrame, upB State.reset, ?_⟩,
    ⟨.b, goodFrame, false, upB State.reset, ?_⟩,
    ⟨.a, 1, 0, sKaferlinkGoBackN2, ?_⟩,
    ⟨40000, .a, txf 1, [txf 2], sKaferlinkGoBackN2, ?_⟩⟩ <;>
    (try simp only [all_iff, any_iff]) <;>
    and_intros <;> decide +kernel

def sCommandTakenAndBegun0 : State :=
  withCtl (upA State.reset) fun c => { c with sessions := [(1, { sess with high := some 1028 })] }
def sCommandTakenAndBegun2 : State :=
  withCtl State.reset fun c => { c with journal := [{ entryFor hP with st := .queued }, doneEntry hT] }

theorem test_met_CommandTakenAndBegun :
    (∃ (p : KPort) (h : CmdHdr) (params : List Byte) (x : Session) (s : State), portServes s (.kafer p) = true ∧ h.version
      = 1 ∧ h.pathRouted = false ∧ h.target = sourceId s ∧ h.session ≠ 0 ∧ s.sec.tampered = false ∧ formatStatus h params =
      0 ∧ sessionOf s h.session = some x ∧ (∀ e ∈ s.ctl.journal, ¬(e.h.session = h.session ∧ e.h.seq = h.seq)) ∧ x.recs.find
      h.seq.toNat = none ∧ (∀ hi, x.high = some hi → (hi - h.seq).toNat < 1024 ∨ 2 ^ 31 ≤ (hi - h.seq).toNat) ∧
      s.ctl.journal.length < 512) ∧
    (∃ (t : Ltc) (p : KPort) (h : CmdHdr) (s : State), portServes s (.kafer p) = true ∧ h.version ≠ 1 ∧ (klink s p).waiting
      = [] ∧ inGap (adv t s) = false ∧ (klink s p).unacked.length < 500) ∧
    (∃ (t : Ltc) (e : JEntry) (r : List JEntry) (s : State), s.ctl.journal = e :: r ∧ s.anv.takeover = none ∧ e.st =
      .queued ∧ e.h.fence = false ∧ (∀ x ∈ r, x.running = false ∧ x.h ≠ e.h) ∧ executable (adv t s) e.h e.params = true ∧
      cmdLate (adv t s) e.h = false) := by
  refine ⟨⟨.a, hP, [], { sess with high := some 1028 }, sCommandTakenAndBegun0, ?_⟩,
    ⟨20, .a, { hP with version := 2 }, upA State.reset, ?_⟩,
    ⟨20, { entryFor hP with st := .queued }, [doneEntry hT], sCommandTakenAndBegun2, ?_⟩⟩ <;>
    (try simp only [all_iff, some_all_iff]) <;>
    and_intros <;> decide +kernel

def ePortsAndInterimReplies0 : JEntry := { entryFor (hdr 0x0201 0xFFF) with st := .running 5, interims := 1 }
def sPortsAndInterimReplies0 : State :=
  withCtl State.reset fun c => { c with journal := [{ entryFor (hdr 0x0201 0xFFF) with st := .running 5, interims := 1 }] }
def sPortsAndInterimReplies3 : State := withCtl (upB State.reset) fun c => { c with journal := [doneEntry hP] }

theorem test_met_PortsAndInterimReplies :
    (∃ (t : Ltc) (e : JEntry) (began : Ltc) (s : State), entryBy s e.h.session e.h.seq = some e ∧ e ∈ s.ctl.journal ∧ e.st
      = .running began ∧ longCmd e.h = true ∧ began.toNat + 1000000 * (e.interims + 1) ≤ now (adv t s)) ∧
    (∃ (p : KPort) (s : State), portUp s p = false ∧ EventRoom s) ∧
    (∃ (p : KPort) (s : State), portUp s p = true ∧ EventRoom s) ∧
    (∃ (t : Ltc) (p : KPort) (e : JEntry) (r : Reply) (s : State), entryBy s e.h.session e.h.seq = some e ∧ e.reply = some
      r ∧ e.sentOn = none ∧ e.sentRelay = false ∧ e.src = .kafer p ∧ portUp s p = false ∧ portUp s p.other = true ∧ inGap
      (adv t s) = false ∧ e.readyAt.toNat + 1000000 ≤ now (adv t s) ∧ (klink s p).waiting = [] ∧ (klink s p.other).waiting =
      [] ∧ (klink s p.other).unacked.length + (KPacket.reply r).frames ≤ 512) := by
  refine ⟨⟨2000005, ePortsAndInterimReplies0, 5, sPortsAndInterimReplies0, ?_⟩,
    ⟨.b, State.reset, ?_⟩,
    ⟨.b, upB State.reset, ?_⟩,
    ⟨1000000, .a, doneEntry hP, replyTo hP 0, sPortsAndInterimReplies3, ?_⟩⟩ <;>
    (try simp only [EventRoom]) <;>
    and_intros <;> decide +kernel

def sRelayedCommands1 : State := withCtl (upA State.reset) fun c => { c with relayed := [⟨hP, .kafer .a, 10⟩] }
def sRelayedCommands4 : State :=
  withCtl State.reset fun c => { c with journal := [{ doneEntry hP with sentRelay := true }, entryFor hT] }

theorem test_met_RelayedCommands :
    (∃ (r : Reply) (s : State), relayOf s r.source r.session r.seq = none) ∧
    (∃ (r : Reply) (x : RelayEntry) (s : State), relayOf s r.source r.session r.seq = some x) ∧
    (∃ (t : Ltc) (target : BitVec 12) (x : RelayEntry) (s : State), relayOf s target x.h.session x.h.seq = some x ∧
      x.due.toNat ≤ now (adv t s)) ∧
    (∃ (t : Ltc) (e : JEntry) (s : State), entryBy s e.h.session e.h.seq = some e ∧ e.st = .replied ∧ e.sentRelay = true ∧
      e.sentAt.toNat + 10000000 ≤ now (adv t s)) := by
  refine ⟨⟨replyTo hP 0, State.reset, ?_⟩,
    ⟨{ replyTo hP 1 with source := hP.target }, ⟨hP, .kafer .a, 10⟩, sRelayedCommands1, ?_⟩,
    ⟨10, hP.target, ⟨hP, .kafer .a, 10⟩, sRelayedCommands1, ?_⟩,
    ⟨10000000, { doneEntry hP with sentRelay := true }, sRelayedCommands4, ?_⟩⟩ <;>
    and_intros <;> decide +kernel

def eEventsRepeatedAndFreed0 : EventRec :=
  { seq := 3, cls := 11, source := 0xFFF, tenant := 0xFFF, ltc := 0, gen := 0, len := 8, payload := 5, sent := true, due := 20 }
def sEventsRepeatedAndFreed0 : State :=
  withCtl (upA State.reset) fun c => { c with events := [{ seq := 3, cls := 11, source := 0xFFF, tenant := 0xFFF, ltc := 0, gen := 0, len := 8, payload := 5, sent := true, due := 20 }], sessions := [(1, sess)] }
def sEventsRepeatedAndFreed1 : State :=
  withCtl (waiting hP) fun c => { c with events := [{ seq := 3, cls := 11, source := 0xFFF, tenant := 0xFFF, ltc := 0, gen := 0, len := 8, payload := 5, sent := true, due := 20 }, { ({ seq := 3, cls := 11, source := 0xFFF, tenant := 0xFFF, ltc := 0, gen := 0, len := 8, payload := 5, sent := true, due := 20 } : EventRec) with seq := 4 }] }
def sEventsRepeatedAndFreed2 : State :=
  { State.reset with mode := { discardStale := 1, discardDue := some 20, discardGen := 3 } }

theorem test_met_EventsRepeatedAndFreed :
    (∃ (t : Ltc) (e : EventRec) (s : State), (s.ctl.events.find? fun x => x.seq = e.seq) = some e ∧ e.sent = true ∧
      e.due.toNat ≤ now (adv t s) ∧ holderLive (adv t s) = true ∧ (∃ x ∈ subscribers s, canSendTo s false x = true)) ∧
    (∃ (t : Ltc) (h : CmdHdr) (s : State), Suits h .platform ∧ Waits s h ∧ s.ctl.lost = [] ∧ cmdLate (adv t s) h = false) ∧
    (∃ (t : Ltc) (d : Ltc) (s : State), s.mode.discardDue = some d ∧ d.toNat ≤ now (adv t s) ∧ EventRoom s ∧
      (s.mode.discardStale ≠ 0 ∨ s.mode.discardAhead ≠ 0)) := by
  refine ⟨⟨20, eEventsRepeatedAndFreed0, sEventsRepeatedAndFreed0, ?_⟩,
    ⟨20, hP, sEventsRepeatedAndFreed1, ?_⟩,
    ⟨20, 20, sEventsRepeatedAndFreed2, ?_⟩⟩ <;>
    (try simp only [Suits, Waits, any_iff, EventRoom]) <;>
    and_intros <;> decide +kernel

def sModeChangesStageArmApplyClose1 : State := wr (wr (waiting hP) Fld.CTRL_MODE_STATUS_ARMED 1) Fld.CTRL_MODE_STATUS_ARMED_GEN 1
def sModeChangesStageArmApplyClose2 : State :=
  { wr (wr (waiting hP) Fld.CTRL_MODE_STATUS_ARMED 1) Fld.CTRL_MODE_STATUS_ARMED_GEN 1 with mode := { commit := some ⟨hP, 1, 20⟩, staged := [⟨3, .epoch 7⟩] } }
def sModeChangesStageArmApplyClose3 : State :=
  wr (wr (waiting hP) Fld.CTRL_MODE_STATUS_WINDOW_OPEN 1) Fld.CTRL_MODE_STATUS_APPLIED_GEN 1

theorem test_met_ModeChangesStageArmApplyClose :
    (∃ (h : CmdHdr) (gen : BitVec 16) (s : State), Suits h .platform ∧ Waits s h ∧ windowOpen s = false ∧ gen.toNat =
      genAfter (appliedGen s) ∧ firstFailing s = none) ∧
    (∃ (h : CmdHdr) (gen : BitVec 16) (s : State), Suits h .platform ∧ Waits s h ∧ isArmed s = true ∧ rd s
      Fld.CTRL_MODE_STATUS_ARMED_GEN = gen.toNat ∧ gen.toNat ≠ appliedGen s) ∧
    (∃ (t : Ltc) (c : Commit) (s : State), s.mode.commit = some c ∧ passed48 (adv t s) c.act.toNat = true ∧ isArmed s =
      true ∧ Waits s c.h) ∧
    (∃ (h : CmdHdr) (gen : BitVec 16) (s : State), Suits h .platform ∧ Waits s h ∧ gen.toNat = appliedGen s ∧ gen ≠ 0) ∧
    (∃ (h : CmdHdr) (gen : BitVec 16) (s : State), Suits h .platform ∧ Waits s h ∧ gen.toNat = genAfter (appliedGen s) ∧
      (isArmed s = true ∨ s.mode.staged ≠ []) ∧ s.mode.commit = none) := by
  refine ⟨⟨hP, 1, waiting hP, ?_⟩,
    ⟨hP, 1, sModeChangesStageArmApplyClose1, ?_⟩,
    ⟨20, ⟨hP, 1, 20⟩, sModeChangesStageArmApplyClose2, ?_⟩,
    ⟨hP, 1, sModeChangesStageArmApplyClose3, ?_⟩,
    ⟨hP, 1, { waiting hP with mode := { staged := [⟨3, .epoch 7⟩] } }, ?_⟩⟩ <;>
    (try simp only [Suits, Waits, any_iff]) <;>
    and_intros <;> decide +kernel

def sIdentityAndSessions3 : State := withCtl (waiting hP) fun c => { c with sessions := [(1, sess)] }

theorem test_met_IdentityAndSessions :
    (∃ (h : CmdHdr) (s : State), Suits h .platform ∧ Waits s h) ∧
    (∃ (h : CmdHdr) (slot : Byte) (subscriber : Byte) (s : State), Suits h .platform ∧ Waits s h ∧ 1 ≤ slot.toNat ∧
      slot.toNat ≤ 8 ∧ subscriber.toNat < 2 ∧ s.fuses.lc ≠ 4 ∧ s.ctl.sessions.find slot.toNat = none) ∧
    (∃ (h : CmdHdr) (id : BitVec 32) (s : State), Suits h .platform ∧ Waits s h ∧ (∃ e ∈ s.ctl.sessions, e.2.id = id)) ∧
    (∃ (h : CmdHdr) (id : BitVec 16) (s : State), Suits h .platform ∧ Waits s h ∧ id.toNat ≤ 0xFFF ∧ s.mem.ingots = []) ∧
    (∃ (h : CmdHdr) (parts : List (BitVec 16)) (s : State), Suits h .platform ∧ Waits s h ∧ parts.length ≤ 63 ∧
      (∀ p ∈ parts, p.toNat ≤ 0xFFF)) := by
  refine ⟨⟨hP, waiting hP, ?_⟩,
    ⟨hP, 8, 1, waiting hP, ?_⟩,
    ⟨hP, 33, sIdentityAndSessions3, ?_⟩,
    ⟨hP, 0xFFE, waiting hP, ?_⟩,
    ⟨hP, [0, 0xFFE], waiting hP, ?_⟩⟩ <;>
    (try simp only [Suits, Waits, any_iff, all_iff]) <;>
    and_intros <;> decide +kernel

def eCsrAccessTouchesRwBits5 : JEntry :=
  { entryFor (hdr 0x0103 0xFFF) with st := .running 0, params := leBytes 4 Reg.FAB_CTRL.base ++ [8] ++ leBytes 8 1 ++ leBytes 8 (1 - regGet State.reset Reg.FAB_CTRL.base % 2) ++ leBytes 2 1 }
def sCsrAccessTouchesRwBits5 : State :=
  withCtl State.reset fun c => { c with journal := [{ entryFor (hdr 0x0103 0xFFF) with st := .running 0, params := leBytes 4 Reg.FAB_CTRL.base ++ [8] ++ leBytes 8 1 ++ leBytes 8 (1 - regGet State.reset Reg.FAB_CTRL.base % 2) ++ leBytes 2 1 }] }

theorem test_met_CsrAccessTouchesRwBits :
    (∃ (h : CmdHdr) (a : BitVec 32) (b : RegBlock) (s : State), Suits h .platform ∧ Waits s h ∧ RegAt s b a.toNat ∧ b ∉
      shownRegs) ∧
    (∃ (h : CmdHdr) (a : BitVec 32) (n : BitVec 16) (s : State), Suits h .platform ∧ Waits s h ∧ a.toNat % 8 = 0 ∧
      csrMapped s a.toNat = false ∧ 1 ≤ n.toNat ∧ n.toNat ≤ 512) ∧
    (∃ (t : Ltc) (h : CmdHdr) (a : BitVec 32) (b : RegBlock) (s : State), Suits h .platform ∧ Waits s h ∧ RegAt s b a.toNat
      ∧ b ∉ actingRegs ∧ cmdLate (adv t s) h = false) ∧
    (∃ (t : Ltc) (h : CmdHdr) (a : BitVec 32) (b : RegBlock) (s : State), Suits h .platform ∧ Waits s h ∧ RegAt s b a.toNat
      ∧ b ∉ actingRegs ∧ b ∉ shownRegs ∧ cmdLate (adv t s) h = false) ∧
    (∃ (h : CmdHdr) (a : BitVec 32) (n : BitVec 16) (b : RegBlock) (s : State), Suits h .platform ∧ Waits s h ∧ RegAt s b
      a.toNat ∧ b ∉ shownRegs ∧ n ≠ 0) ∧
    (∃ (t : Ltc) (began : Ltc) (e : JEntry) (b : RegBlock) (s : State), entryBy s e.h.session e.h.seq = some e ∧ e.st =
      .running began ∧ e.h.opcode = 0x0103 ∧ began.toNat + pollNs e ≤ now (adv t s) ∧ RegAt s b
      (parAt (ownParams e.h e.params) 0 4) ∧ b ∉ shownRegs ∧ parAt (ownParams e.h e.params) 4 1 = 8 ∧ pollHit
      (regGet s (parAt (ownParams e.h e.params) 0 4)) 8 (parAt (ownParams e.h e.params) 5 8)
      (parAt (ownParams e.h e.params) 13 8) = false) ∧
    (∃ (a : BitVec 32) (b : RegBlock) (s : State), RegAt s b a.toNat ∧ b ∉ actingRegs) := by
  refine ⟨⟨hP, (BitVec.ofNat 32 Reg.FAB_CTRL.base), Reg.FAB_CTRL, waiting hP, ?_⟩,
    ⟨hP, 0xFFFFFFF8, 512, waiting hP, ?_⟩,
    ⟨20, hP, (BitVec.ofNat 32 Reg.FAB_CTRL.base), Reg.FAB_CTRL, waiting hP, ?_⟩,
    ⟨20, hP, (BitVec.ofNat 32 Reg.FAB_CTRL.base), Reg.FAB_CTRL, waiting hP, ?_⟩,
    ⟨hP, (BitVec.ofNat 32 Reg.FAB_CTRL.base), 1, Reg.FAB_CTRL, waiting hP, ?_⟩,
    ⟨1000, 0, eCsrAccessTouchesRwBits5, Reg.FAB_CTRL, sCsrAccessTouchesRwBits5, ?_⟩,
    ⟨(BitVec.ofNat 32 Reg.FAB_CTRL.base), Reg.FAB_CTRL, waiting hP, ?_⟩⟩ <;>
    (try simp only [Suits, Waits, any_iff, RegAt]) <;>
    and_intros <;> decide +kernel

theorem test_met_AnvilPairKeepsOneHolder :
    (∃ (d : FDie) (s : State), s.anv.token = some d ∧ (anvil s d).state = 4) ∧
    (∃ (t : Ltc) (d : FDie) (s : State), ((anvil s d).state = 3 ∨ (anvil s d).state = 4) ∧ (anvil s d).lastBeat.toNat +
      25000 ≤ now (adv t s)) ∧
    (∃ (d : FDie) (s : State), (anvil s d).state = 4 ∧ s.anv.token ≠ some d) ∧
    (∃ (d : FDie) (s : State), 2 ≤ (anvil s d).state.toNat) ∧
    (∃ (t : Ltc) (d : FDie) (s : State), standby s = some d ∧ s.anv.token ≠ some d ∧ (anvil s d).healthy = true ∧
      s.anv.lease.toNat ≤ now (adv t s) ∧ s.anv.sideband.toNat + 25000 ≤ now (adv t s)) ∧
    (∃ (d : FDie) (s : State), (anvil s d).state = 3) ∧
    (∃ (d : FDie) (s : State), (anvil s d).state = 2 ∧ s.anv.token = none ∧ (anvil s d).activating = none) ∧
    (∃ (t : Ltc) (e : JEntry) (r : List JEntry) (s : State), s.ctl.journal = e :: r ∧ (loaderAnvil s).isSome = true ∧ e.st
      = .queued ∧ e.h.fence = false ∧ (∀ x ∈ r, x.running = false ∧ x.h ≠ e.h) ∧ executable (adv t s) e.h e.params = true ∧
      cmdLate (adv t s) e.h = false) ∧
    (∃ (h : CmdHdr) (s : State), Suits h .platform ∧ Waits s h) ∧
    (∃ (h : CmdHdr) (d : FDie) (s : State), Suits h .platform ∧ Waits s h ∧ s.anv.token = some d ∧ (anvil s d.other).state
      = 3 ∧ (anvil s d.other).healthy = true) := by
  refine ⟨⟨.f0, held State.reset, ?_⟩,
    ⟨25000, .f1, held State.reset, ?_⟩,
    ⟨.f1, setAnvil .f1 { state := 4 } (held State.reset), ?_⟩,
    ⟨.f1, setAnvil .f1 { state := 2 } (held State.reset), ?_⟩,
    ⟨1025000, .f1, held (waiting hP), ?_⟩,
    ⟨.f1, held State.reset, ?_⟩,
    ⟨.f1, setAnvil .f1 { state := 2 } State.reset, ?_⟩,
    ⟨20, { entryFor hP with st := .queued }, [doneEntry hT], sCommandTakenAndBegun2, ?_⟩,
    ⟨hP, waiting hP, ?_⟩,
    ⟨hP, .f0, held (waiting hP), ?_⟩⟩ <;>
    (try simp only [Suits, Waits, any_iff, all_iff]) <;>
    and_intros <;> decide +kernel

def sFirmwareLoadAndActivate1 : State :=
  { waiting hP with anv := { staging := { opened := true, length := 16, version := 1, bytes := [(0, 9)] } } }
def sFirmwareLoadAndActivate2 : State := { waiting hP with anv := { staging := { opened := true, length := 0, version := 1 } } }
def sFirmwareLoadAndActivate3 : State :=
  { held (waiting hP) with anv := { (held State.reset).anv with staging := { verified := true, version := 3 } } }

theorem test_met_FirmwareLoadAndActivate :
    (∃ (h : CmdHdr) (len : BitVec 32) (version : BitVec 32) (s : State), Suits h .platform ∧ Waits s h ∧ len.toNat % 4096 =
      0 ∧ len.toNat ≤ 2 ^ 23 ∧ s.fuses.minVersion.toNat ≤ version.toNat ∧ s.fuses.lc ≠ 4) ∧
    (∃ (h : CmdHdr) (o : BitVec 32) (data : List Byte) (s : State), Suits h .platform ∧ Waits s h ∧ o.toNat % 8 = 0 ∧
      data.length % 8 = 0 ∧ data.length ≤ 4096 ∧ s.anv.staging.opened = true ∧ o.toNat + data.length ≤
      s.anv.staging.length.toNat ∧ (∀ k ∈ s.anv.staging.bytes.keys, ¬(o.toNat ≤ k ∧ k < o.toNat + data.length))) ∧
    (∃ (h : CmdHdr) (s : State), Suits h .platform ∧ Waits s h ∧ s.anv.staging.opened = true ∧ s.anv.staging.bytes.length =
      s.anv.staging.length.toNat) ∧
    (∃ (h : CmdHdr) (w : Byte) (d : FDie) (s : State), Suits h .platform ∧ Waits s h ∧ w.toNat = d.num ∧ s.anv.token ≠ some
      d ∧ s.anv.staging.verified = true ∧ s.anv.a.activating = none ∧ s.anv.b.activating = none ∧ (anvil s d).state ≠ 0) := by
  refine ⟨⟨hP, 0x800000, 1, waiting hP, ?_⟩,
    ⟨hP, 8, [1, 2, 3, 4, 5, 6, 7, 8], sFirmwareLoadAndActivate1, ?_⟩,
    ⟨hP, sFirmwareLoadAndActivate2, ?_⟩,
    ⟨hP, 1, .f1, sFirmwareLoadAndActivate3, ?_⟩⟩ <;>
    (try simp only [Suits, Waits, any_iff, all_iff]) <;>
    and_intros <;> decide +kernel

def sTinningTamperAndLifeCycle0 : State := { State.reset with mem := { sram := { bytes := [(sramLoc 0 1 1 0 + 3, 9)] } } }
def sTinningTamperAndLifeCycle1 : State := wr (wr (waiting hP) Fld.ECC_TIN_STATUS_STATE 1) Fld.ECC_TIN_STATUS_PENDING 1
def pTinningTamperAndLifeCycle3 : LcPending := { h := hP, target := 4, owner := 0, secret := 0, begun := true }
def sTinningTamperAndLifeCycle3 : State :=
  { wr (wr (waiting hP) Fld.ECC_TIN_STATUS_STATE 1) Fld.ECC_TIN_STATUS_PENDING 1 with sec := { lcPending := some { h := hP, target := 4, owner := 0, secret := 0, begun := true } } }
def sTinningTamperAndLifeCycle4 : State := { State.reset with sec := { tenants := [(5, { entry := 0, key := 3 })] } }
def sTinningTamperAndLifeCycle5 : State := { waiting hP with fuses := { State.reset.fuses with owner := keyDigest 1 } }

theorem test_met_TinningTamperAndLifeCycle :
    (∃ (cause : BitVec 2) (s : State),
      (rd s Fld.ECC_TIN_STATUS_STATE ≠ 1 ∨ rd s Fld.ECC_TIN_STATUS_LAST_CAUSE ≠ cause.toNat)) ∧
    (∃ (s : State), rd s Fld.ECC_TIN_STATUS_STATE = 1 ∧ s.sec.lcPending = none) ∧
    (∃ (s : State), rd s Fld.ECC_TIN_STATUS_STATE = 1 ∧ s.sec.lcPending = none ∧ s.ctl.events.length < 255) ∧
    (∃ (p : LcPending) (s : State), rd s Fld.ECC_TIN_STATUS_STATE = 1 ∧ s.sec.lcPending = some p ∧ p.begun = true ∧ Waits s
      p.h) ∧
    (∃ (s : State), EventRoom s) ∧
    (∃ (h : CmdHdr) (target : Byte) (signer : BitVec 14344) (s : State), Suits h .platform ∧ Waits s h ∧ target.toNat ≤ 4 ∧
      lcAllowed s.fuses.lc.toNat target.toNat = true ∧ signerOk s signer = true ∧ s.sec.tenants = [] ∧ s.sec.jobs = []) ∧
    (∃ (h : CmdHdr) (target : Byte) (signer : BitVec 14344) (sigOk : Bool) (s : State), Suits h .platform ∧ Waits s h ∧
      target.toNat ≤ 4 ∧ (lcAllowed s.fuses.lc.toNat target.toNat = false ∨ sigOk = false ∨ signerOk s signer = false)) := by
  refine ⟨⟨3, sTinningTamperAndLifeCycle0, ?_⟩,
    ⟨sTinningTamperAndLifeCycle1, ?_⟩,
    ⟨sTinningTamperAndLifeCycle1, ?_⟩,
    ⟨pTinningTamperAndLifeCycle3, sTinningTamperAndLifeCycle3, ?_⟩,
    ⟨sTinningTamperAndLifeCycle4, ?_⟩,
    ⟨hP, 3, 1, sTinningTamperAndLifeCycle5, ?_⟩,
    ⟨hP, 1, 1, true, waiting hP, ?_⟩⟩ <;>
    (try simp only [Suits, Waits, any_iff, EventRoom]) <;>
    and_intros <;> first | decide +kernel | exact decide_eq_true rfl

def sTenantsKeysAndConsent1 : State := { waiting hT with sec := { tenants := [(5, { entry := 5, key := 3 })] } }
def sTenantsKeysAndConsent2 : State :=
  { waiting hP with sec := { tenants := [(5, { entry := 5, key := 3 })], jobs := [(3, { binding := 0x70005 })] } }
def sTenantsKeysAndConsent7 : State :=
  { waiting hP with sec := { tenants := [(5, { entry := 5, key := 3 })], jobs := [(3, { binding := 0x70005, dbg := some ⟨3, 7⟩ })] } }

theorem test_met_TenantsKeysAndConsent :
    (∃ (h : CmdHdr) (e : BitVec 512) (s : State), Suits h .tenant ∧ Waits s h ∧ tenantRsvOk e.toNat = true ∧ bitsOf e.toNat
      0 10 = h.tenant.toNat ∧ (s.fuses.lc = 1 ∨ s.fuses.lc = 2) ∧ rd s Fld.ECC_TIN_STATUS_STATE ≠ 1 ∧ s.sec.tenants.find
      h.tenant.toNat = none) ∧
    (∃ (h : CmdHdr) (slot : BitVec 16) (b : BitVec 512) (s : State), Suits h .tenant ∧ Waits s h ∧ slot.toNat < 8192 ∧
      bindRsvOk b.toNat = true ∧ bindTenant b.toNat = h.tenant.toNat ∧ s.sec.tenants.find (bindTenant b.toNat) ≠ none ∧
      s.sec.jobs.find slot.toNat = none ∧ (consentSlots s).length < 512 ∧ rd s Fld.ECC_TIN_STATUS_STATE ≠ 1) ∧
    (∃ (h : CmdHdr) (slot : BitVec 16) (j : JobKey) (s : State), Suits h .either ∧ Waits s h ∧ s.sec.jobs.find slot.toNat =
      some j ∧ ownedBy h (bindTenant j.binding.toNat) = true) ∧
    (∃ (h : CmdHdr) (s : State), Suits h .platform ∧ Waits s h) ∧
    (∃ (h : CmdHdr) (slot : BitVec 16) (scope : BitVec 16) (j : JobKey) (s : State), Suits h .platform ∧ Waits s h ∧
      scope.toNat < 8 ∧ slot.toNat < 8192 ∧ s.sec.jobs.find slot.toNat = some j ∧ j.lost = false ∧ j.dbg = none ∧
      scopeCovered (bindConsent j.binding.toNat) scope.toNat = true) ∧
    (∃ (h : CmdHdr) (slot : BitVec 16) (scope : BitVec 16) (s : State), Suits h .platform ∧ Waits s h ∧ scope.toNat < 8 ∧
      (∀ j, s.sec.jobs.find slot.toNat = some j → j.lost = true ∨ scopeCovered (bindConsent j.binding.toNat) scope.toNat = false)) ∧
    (∃ (h : CmdHdr) (handle : BitVec 32) (j : JobKey) (s : State), Suits h .platform ∧ Waits s h ∧ debugSlot s handle =
      some j) ∧
    (∃ (h : CmdHdr) (handle : BitVec 32) (addr : Word) (j : JobKey) (d : DebugHandle) (s : State), Suits h .platform ∧
      Waits s h ∧ debugSlot s handle = some j ∧ j.lost = false ∧ j.dbg = some d ∧ bitAt d.scope.toNat 0 = true ∧ addr.toNat
      ≤ 2 ^ 57) ∧
    (∃ (h : CmdHdr) (slot : BitVec 16) (s : State), Suits h .platform ∧ Waits s h ∧ scanConsented s slot.toNat = true) ∧
    (∃ (t : Ltc) (x : Scan) (s : State), s.sec.scan = some x ∧ x.ends.toNat ≤ now (adv t s)) := by
  refine ⟨⟨hT, 5, waiting hT, ?_⟩,
    ⟨hT, 8191, 0x70005, sTenantsKeysAndConsent1, ?_⟩,
    ⟨hP, 3, { binding := 0x70005 }, sTenantsKeysAndConsent2, ?_⟩,
    ⟨hP, waiting hP, ?_⟩,
    ⟨hP, 3, 7, { binding := 0x70005 }, sTenantsKeysAndConsent2, ?_⟩,
    ⟨hP, 4, 7, sTenantsKeysAndConsent2, ?_⟩,
    ⟨hP, 3, { binding := 0x70005, dbg := some ⟨3, 7⟩ }, sTenantsKeysAndConsent7, ?_⟩,
    ⟨hP, 3, 2 ^ 57, { binding := 0x70005, dbg := some ⟨3, 7⟩ }, ⟨3, 7⟩, sTenantsKeysAndConsent7, ?_⟩,
    ⟨hP, 3, sTenantsKeysAndConsent2, ?_⟩,
    ⟨20, ⟨3, 20⟩, { State.reset with sec := { scan := some ⟨3, 20⟩ } }, ?_⟩⟩ <;>
    (try simp only [Suits, Waits, any_iff, some_all_iff]) <;>
    and_intros <;> decide +kernel

def iIngotsAndInvalidation3 : Ingot := { tenant := 5, kind := 0, base := 1, count := 1, releasing := some hT }
def sIngotsAndInvalidation3 : State :=
  { waiting hT with mem := { ingots := [(2, { tenant := 5, kind := 0, base := 1, count := 1, releasing := some hT })] } }
def sIngotsAndInvalidation5 : State :=
  { ingots (waiting hT) with xlt := { l1 := [(0, [⟨5, 0x200000, 21, 0, 0, 0x40000000, true, true, false⟩])] } }
def vIngotsAndInvalidation6 : Inval := ⟨hT, 5, 0, 8, { began := 3, reqs := [(outKey (rq 4).cell, 100)], pend := [5] }⟩
def sIngotsAndInvalidation6 : State :=
  { waiting hT with xlt := { invals := [⟨hT, 5, 0, 8, { began := 3, reqs := [(outKey (rq 4).cell, 100)], pend := [5] }⟩] } }
def sIngotsAndInvalidation7 : State :=
  { waiting hT with xlt := { invals := [⟨hT, 5, 0, 8, { began := 3, reqs := [(outKey (rq 4).cell, 100)], pend := [5] }⟩] }, fab := { reqs := [{ rq 4 with num := 100 }] } }

theorem test_met_IngotsAndInvalidation :
    (∃ (h : CmdHdr) (e : BitVec 128) (s : State), Suits h .either ∧ Waits s h ∧ ingotRsvOk e.toNat = true ∧
      ((bitsOf e.toNat 26 2 = 2 ∧ h.tenant = 0xFFF ∧ bitsOf e.toNat 16 10 = 0) ∨ (bitsOf e.toNat 26 2 ≠ 2 ∧ h.tenant.toNat = bitsOf e.toNat 16 10))
      ∧ 1 ≤ bitsOf e.toNat 48 10 ∧ bitsOf e.toNat 32 10 + bitsOf e.toNat 48 10 ≤ granules s ∧ s.mem.ingots.find
      (bitsOf e.toNat 0 16) = none ∧ s.mem.ingots.length < 1024 ∧
      (∀ i, i < bitsOf e.toNat 48 10 → granuleTaken s (bitsOf e.toNat 32 10 + i) = false)) ∧
    (∃ (h : CmdHdr) (n : BitVec 16) (i : Ingot) (s : State), Suits h .either ∧ Waits s h ∧ namedIngot s h n.toNat = some i) ∧
    (∃ (h : CmdHdr) (n : BitVec 16) (i : Ingot) (s : State), Suits h .either ∧ Waits s h ∧ namedIngot s h n.toNat = some i
      ∧ i.releasing = none) ∧
    (∃ (n : BitVec 16) (i : Ingot) (h : CmdHdr) (s : State), s.mem.ingots.find n.toNat = some i ∧ i.releasing = some h ∧
      epochOver s (s.xlt.releaseAt.get {} n.toNat) = true ∧ ingotQuiet s i = true ∧ Waits s h) ∧
    (∃ (h : CmdHdr) (g : Byte) (s : State), Suits h .platform ∧ Waits s h ∧ 1 ≤ g.toNat ∧ g.toNat ≤ 4 ∧ s.mem.ingots = []) ∧
    (∃ (h : CmdHdr) (s : State), Suits h .tenant ∧ Waits s h ∧ s.sec.tenants.find h.tenant.toNat ≠ none) ∧
    (∃ (te : BitVec 10) (v : Inval) (s : State), s.xlt.invals.find? (·.tenant = te) = some v ∧ epochOver s v.epoch = true ∧
      Waits s v.h) ∧
    (∃ (te : BitVec 10) (v : Inval) (s : State), s.xlt.invals.find? (·.tenant = te) = some v ∧ epochOver s v.epoch = false) := by
  refine ⟨⟨hT, (3 + 5 * 2 ^ 16 + 759 * 2 ^ 32 + 2 ^ 48), waiting hT, ?_⟩,
    ⟨hT, 2, { tenant := 5, kind := 0, base := 1, count := 1 }, ingots (waiting hT), ?_⟩,
    ⟨hT, 2, { tenant := 5, kind := 0, base := 1, count := 1 }, ingots (waiting hT), ?_⟩,
    ⟨2, iIngotsAndInvalidation3, hT, sIngotsAndInvalidation3, ?_⟩,
    ⟨hP, 1, waiting hP, ?_⟩,
    ⟨hT, sIngotsAndInvalidation5, ?_⟩,
    ⟨5, vIngotsAndInvalidation6, sIngotsAndInvalidation6, ?_⟩,
    ⟨5, vIngotsAndInvalidation6, sIngotsAndInvalidation7, ?_⟩⟩ <;>
    (try simp only [Suits, Waits, any_iff]) <;>
    and_intros <;> decide +kernel

def sTranslationAndFaults2 : State :=
  { wr (ingots State.reset) Fld.XLT_PTW_PAGE_PAGE 4 with mem := { (ingots State.reset).mem with moves := [⟨5, 0, 0x4FF8, 0, 1, .demoteWait {}, false, 0⟩] } }
def sTranslationAndFaults4 : State := setFq 1 { count := 2, slots := [(0, 1), (1, 2)], tail := 2 } State.reset
def wTranslationAndFaults9 : Walk :=
  { tenant := 5, page := 0, start := some (4, 0x1000), marks := [(0, mib2)], waiters := [⟨0, 0, true⟩] }
def sTranslationAndFaults9 : State :=
  let s := withTask ({ tk with st := .walking 0 true }) (tables 0x4000000007 State.reset)
  { s with xlt := { s.xlt with walkers := [(0, { tenant := 5, page := 0, start := some (4, 0x1000), marks := [(0, mib2)], waiters := [⟨0, 0, true⟩] })] } }
def s1TranslationAndFaults9 : State :=
  countEv (8 * ((0 : Nat) / 64) + (0 : Nat) % 64 / 8) 0x022 wTranslationAndFaults9.tenant.toNat 1 (adv (20 : Ltc) sTranslationAndFaults9)
def wTranslationAndFaults10 : Walk :=
  { tenant := 5, page := 0, start := some (4, 0x1000), marks := [], waiters := [⟨0, 0, true⟩] }
def sTranslationAndFaults10 : State :=
  let s := withTask ({ tk with st := .walking 0 true }) (tables 0x4000000007 State.reset)
  { s with xlt := { s.xlt with walkers := [(0, { tenant := 5, page := 0, start := some (4, 0x1000), marks := [], waiters := [⟨0, 0, true⟩] })] } }
def s1TranslationAndFaults10 : State :=
  countEv (8 * ((0 : Nat) / 64) + (0 : Nat) % 64 / 8) 0x022 wTranslationAndFaults10.tenant.toNat 1 (adv (20 : Ltc) sTranslationAndFaults10)
def wTranslationAndFaults11 : Walk := { tenant := 5, page := 0, start := none, marks := [], waiters := [⟨0, 0, true⟩] }
def sTranslationAndFaults11 : State :=
  let s := withTask ({ tk with st := .walking 0 true }) (tables 0x4000000007 State.reset)
  { s with xlt := { s.xlt with walkers := [(0, { tenant := 5, page := 0, start := none, marks := [], waiters := [⟨0, 0, true⟩] })] } }

theorem test_met_TranslationAndFaults :
    (∃ (i : BitVec 9) (s : State), inPlatform s (ptwAddr s i.toNat) = false) ∧
    (∃ (i : BitVec 9) (s : State), inPlatform s (ptwAddr s i.toNat) = true ∧ (∃ m ∈ s.mem.moves, m.pte = ptwAddr s i.toNat)) ∧
    (∃ (i : BitVec 9) (g : Ingot) (s : State), inPlatform s (ptwAddr s i.toNat) = true ∧
      (∀ m ∈ s.mem.moves, m.pte ≠ ptwAddr s i.toNat) ∧ ingotAt s (ptwAddr s i.toNat / gib) = some g ∧ g.kind = 2 ∧
      s.sec.tampered = false ∧ s.coh.dir.find (ptwAddr s i.toNat / 64) = none ∧ NoGrants s (ptwAddr s i.toNat / 64)) ∧
    (∃ (die : BitVec 1) (s : State), die.toNat < dies s ∧ (fqOf s die.toNat).waiting = []) ∧
    (∃ (eng : BitVec 16) (task : BitVec 5) (fseq : BitVec 32) (key : Nat) (x : Task) (s : State), parkedWith s eng task
      fseq = some (key, x)) ∧
    (∃ (eng : BitVec 16) (task : BitVec 5) (fseq : BitVec 32) (key : Nat) (x : Task) (s : State), parkedWith s eng task
      fseq = some (key, x) ∧ x.chunk = none) ∧
    (∃ (eng : BitVec 16) (task : BitVec 5) (fseq : BitVec 32) (s : State), parkedWith s eng task fseq = none) ∧
    (∃ (t : Ltc) (eng : Eng) (task : BitVec 5) (va : Word) (x : Task) (s : State), taskOf s (taskKey eng.toNat task.toNat)
      = some x ∧ x.st = .ready ∧ (tlbLookup eng.toNat eng.cl x.q.tenant.toNat va.toNat (adv t s)).1 = none) ∧
    (∃ (t : Ltc) (eng : Eng) (task : BitVec 5) (k : Nat) (w : Walk) (y : WalkWait) (rest : List WalkWait) (s : State)
      (s1 : State), s.xlt.walkers.find? (fun e => e.2.waiters.any fun w => w.key = taskKey eng.toNat task.toNat) = some
      (k, w) ∧ w.waiters = y :: rest ∧ y.va < 2 ^ 57 ∧ s1 = countEv (8 * (k / 64) + k % 64 / 8) 0x022 w.tenant.toNat 1
      (adv t s) ∧ w.discarded y.va (walk w.tenant.toNat (k / 64) y.va w.start (!w.stale) s1).1 = true) ∧
    (∃ (t : Ltc) (eng : Eng) (task : BitVec 5) (k : Nat) (va : Nat) (w : Walk) (write : Bool) (x : Task) (s : State)
      (s1 : State) (p : Pte) (raw : Nat) (a : Nat), s.xlt.walkers.find?
      (fun e => e.2.waiters.any fun w => w.key = taskKey eng.toNat task.toNat) = some (k, w) ∧ w.waiters =
      [⟨taskKey eng.toNat task.toNat, va, write⟩] ∧ w.marks = [] ∧ w.tenant = x.q.tenant ∧ taskOf s
      (taskKey eng.toNat task.toNat) = some x ∧ x.st = .walking va write ∧ va < 2 ^ 57 ∧ s1 = countEv
      (8 * (k / 64) + k % 64 / 8) 0x022 w.tenant.toNat 1 (adv t s) ∧
      (walk w.tenant.toNat (k / 64) va w.start (!w.stale) s1).1 = .leaf p raw a 21 ∧ p.tier = 0 ∧
      (write = true → p.w = true) ∧ demoting s x.q.tenant.toNat (va / mib2) = false ∧ accessAllowed s x.q.tenant.toNat
      p.addr write = true) ∧
    (∃ (eng : Eng) (task : BitVec 5) (k : Nat) (va : Nat) (w : Walk) (write : Bool) (x : Task) (s : State),
      s.xlt.walkers.find? (fun e => e.2.waiters.any fun w => w.key = taskKey eng.toNat task.toNat) = some (k, w) ∧ w.waiters
      = [⟨taskKey eng.toNat task.toNat, va, write⟩] ∧ w.marks = [] ∧ w.start = none ∧ taskOf s
      (taskKey eng.toNat task.toNat) = some x ∧ x.st = .walking va write ∧ va < 2 ^ 57) := by
  refine ⟨⟨511, wr (ingots State.reset) Fld.XLT_PTW_PAGE_PAGE 0x40000, ?_⟩,
    ⟨511, sTranslationAndFaults2, ?_⟩,
    ⟨511, { tenant := 0, kind := 2, base := 0, count := 1 }, wr (ingots State.reset) Fld.XLT_PTW_PAGE_PAGE 0x3FFFF, ?_⟩,
    ⟨1, sTranslationAndFaults4, ?_⟩,
    ⟨0, 0, 0, 0, { tk with st := .fault 0 false }, withTask ({ tk with st := .fault 0 false }) State.reset, ?_⟩,
    ⟨0, 0, 0, 0, { tk with st := .fault 0 false }, withTask ({ tk with st := .fault 0 false }) State.reset, ?_⟩,
    ⟨2048, 0, 0, State.reset, ?_⟩,
    ⟨20, 0, 0, 0, tk, withTask tk (tables 0x4000000007 State.reset), ?_⟩,
    ⟨20, 0, 0, 0, wTranslationAndFaults9, ⟨0, 0, true⟩, [], sTranslationAndFaults9, s1TranslationAndFaults9, ?_⟩,
    ⟨20, 0, 0, 0, 0, wTranslationAndFaults10, true, { tk with st := .walking 0 true }, sTranslationAndFaults10,
     s1TranslationAndFaults10, pteOf 0x4000000007, 0x4000000007, 0x4000, ?_⟩,
    ⟨0, 0, 0, 0, wTranslationAndFaults11, true, { tk with st := .walking 0 true }, sTranslationAndFaults11, ?_⟩⟩ <;>
    (try simp only [NoGrants, all_iff, any_iff]) <;>
    and_intros <;> first | decide +kernel | rfl

def sTierMoves1 : State := withMem (region 7 State.reset) fun m => { m with runs := [(400 * 2 ^ 21, 3)] }
def sTierMoves3 : State :=
  withMem (farReady (tables 0x17 State.reset)) fun m => { m with waitPromote := [(5, 0)], landing := [1536, 1537] }
def sTierMoves4 : State :=
  withTask { tk with st := .promo 0 } (withMem (farReady (tables 0x17 State.reset)) fun m => { m with moves := [⟨5, 0, 0x4000, 0x17, 0, .promote 1536, false, 0⟩], farUsed := [(0, (5, 0))] })
def sTierMoves5 : State :=
  withMem (farReady (tables 0x4000000007 State.reset)) fun m => { m with moves := [⟨5, 0, 0x4000, 0x4000000007, 1, .demoteWait {}, false, 0⟩], farUsed := [(0, (5, 9))] }
def mTierMoves6 : PageMove := ⟨5, 0, 0x4000, 0x4000000007, 1, .demoteWait { pend := [5] }, false, 0⟩
def sTierMoves6 : State :=
  withMem (farReady { tables 0x4000000007 State.reset with coh := { pend := [(5, { op := .rdShared })] } }) fun m => { m with moves := [⟨5, 0, 0x4000, 0x4000000007, 1, .demoteWait { pend := [5] }, false, 0⟩] }
def mTierMoves7 : PageMove := ⟨5, 0, 0x4000, (1536 * 512 * 2 ^ 20 + 7), 1, .demoteCopy 1 0, false, 0⟩
def sTierMoves7 : State :=
  withMem (farReady (tables 0x60000007 State.reset)) fun m => { m with moves := [⟨5, 0, 0x4000, (1536 * 512 * 2 ^ 20 + 7), 1, .demoteCopy 1 0, false, 0⟩], farUsed := [(0, (5, 0))], promoted := [(1536, 5)], landing := [] }
def cTierMoves9 : TierCmd :=
  ⟨hT, BitVec.ofNat 10 hT.tenant.toNat, (0 : Word).toNat / mib2, (1 : BitVec 32).toNat, (1 : Byte).toNat, 0, []⟩
def s1TierMoves9 : State := adv (20 : Ltc) (latestTier hT (farReady (tables 0x4000000007 (waiting hT)) : State))

theorem test_met_TierMoves :
    (∃ (n : BitVec 3) (v : Word) (s : State), bitsOf v.toNat 0 1 = 0 ∧ regionHolds s n.toNat = true) ∧
    (∃ (n : BitVec 3) (v : Word) (s : State), (bitsOf v.toNat 0 1 = 1 ∨ regionHolds s n.toNat = false)) ∧
    (∃ (t : Ltc) (te : BitVec 10) (va : Word) (f : BitVec 19) (r : List (BitVec 19)) (p : Pte) (raw : Nat) (a : Nat)
      (size : Nat) (s : State), (te, va.toNat / mib2) ∈ s.mem.waitPromote ∧ rdb s Fld.MEM_TIER_CTRL_ENABLE = true ∧
      s.mem.landing = f :: r ∧ s.mem.moves.length < 64 ∧ moveOf s te.toNat (va.toNat / mib2) = none ∧
      (walkPlain te.toNat (va.toNat / mib2 * mib2) (adv t s)).1 = .leaf p raw a size ∧ 1 ≤ p.tier ∧ p.tier ≤ 3) ∧
    (∃ (te : BitVec 10) (va : Word) (f : Nat) (m : PageMove) (s : State), moveOf s te.toNat (va.toNat / mib2) = some m ∧
      m.kind = .promote f ∧ s.mem.tierCmds = [] ∧ (∀ e ∈ s.coh.pend, e.2.grant = none)) ∧
    (∃ (te : BitVec 10) (page : BitVec 36) (g : Nat) (e : Epoch) (m : PageMove) (s : State), moveOf s te.toNat page.toNat =
      some m ∧ m.kind = .demoteWait e ∧ epochOver s e = true ∧ m.dest = 1 ∧ freeFar s = some g ∧
      (∀ e ∈ s.coh.pend, e.2.grant = none)) ∧
    (∃ (te : BitVec 10) (page : BitVec 36) (e : Epoch) (m : PageMove) (s : State), moveOf s te.toNat page.toNat = some m ∧
      m.kind = .demoteWait e ∧ epochOver s e = false) ∧
    (∃ (te : BitVec 10) (va : Word) (tier : Nat) (addr : Nat) (u : BitVec 10) (m : PageMove) (s : State), moveOf s te.toNat
      (va.toNat / mib2) = some m ∧ m.kind = .demoteCopy tier addr ∧ s.mem.tierCmds = [] ∧ s.mem.promoted.find
      ((pteOf m.old).addr / mib2) = some u ∧ s.mem.landing.length < 4096 ∧ (∀ e ∈ s.coh.pend, e.2.grant = none)) ∧
    (∃ (h : CmdHdr) (va : Word) (dest : Byte) (s : State), Suits h .tenant ∧ Waits s h ∧ dest.toNat ≤ 5 ∧ va.toNat % mib2 =
      0 ∧ (dest.toNat = 1 → farChannels s ≠ 0) ∧ rdb s Fld.MEM_TIER_CTRL_ENABLE = true ∧ s.sec.tenants.find h.tenant.toNat ≠
      none) ∧
    (∃ (t : Ltc) (h : CmdHdr) (va : Word) (pages : BitVec 32) (dest : Byte) (p : Pte) (raw : Nat) (a : Nat) (c : TierCmd)
      (s : State) (s1 : State), Suits h .tenant ∧ Waits s h ∧ 1 ≤ dest.toNat ∧ dest.toNat ≤ 5 ∧ va.toNat % mib2 = 0 ∧
      (dest.toNat = 1 → farChannels s ≠ 0) ∧ 1 ≤ pages.toNat ∧ rdb s Fld.MEM_TIER_CTRL_ENABLE = true ∧ s.sec.tenants.find
      h.tenant.toNat ≠ none ∧ s.mem.moves.length < 64 ∧ moveOf s h.tenant.toNat (va.toNat / mib2) = none ∧ s1 = adv t
      (latestTier h s) ∧ holdsBigPage s1 h.tenant.toNat (va.toNat / mib2) pages.toNat = false ∧ c = ⟨h, BitVec.ofNat 10
      h.tenant.toNat, va.toNat / mib2, pages.toNat, dest.toNat, 0, []⟩ ∧
      (walkPlain h.tenant.toNat (va.toNat / mib2 * mib2) { beginLong h s1 with mem := { s1.mem with tierCmds := s1.mem.tierCmds ++ [c] } }).1
      = .leaf p raw a 21 ∧ p.tier = 0) ∧
    (∃ (t : Ltc) (h : CmdHdr) (va : Word) (pages : BitVec 32) (dest : Byte) (s : State), Suits h .tenant ∧ Waits s h ∧
      dest.toNat ≤ 5 ∧ va.toNat % mib2 = 0 ∧ (dest.toNat = 1 → farChannels s ≠ 0) ∧ holdsBigPage (adv t (latestTier h s))
      h.tenant.toNat (va.toNat / mib2) pages.toNat = false ∧ rdb s Fld.MEM_TIER_CTRL_ENABLE = false) := by
  refine ⟨⟨7, 0, sTierMoves1, ?_⟩,
    ⟨7, 1 + 2 ^ 32 + 400 * 2 ^ 16, region 3 State.reset, ?_⟩,
    ⟨20, 5, 0x1FFFFF, 1536, [1537], pteOf 0x17, 0x17, 0x4000, 21, sTierMoves3, ?_⟩,
    ⟨5, 0, 1536, ⟨5, 0, 0x4000, 0x17, 0, .promote 1536, false, 0⟩, sTierMoves4, ?_⟩,
    ⟨5, 0, 1, {}, ⟨5, 0, 0x4000, 0x4000000007, 1, .demoteWait {}, false, 0⟩, sTierMoves5, ?_⟩,
    ⟨5, 0, { pend := [5] }, mTierMoves6, sTierMoves6, ?_⟩,
    ⟨5, 0, 1, 0, 5, mTierMoves7, sTierMoves7, ?_⟩,
    ⟨hT, 0x200000, 1, farReady (ingots (waiting hT)), ?_⟩,
    ⟨20, hT, 0, 1, 1, pteOf 0x4000000007, 0x4000000007, 0x4000, cTierMoves9, farReady (tables 0x4000000007 (waiting hT)),
     s1TierMoves9, ?_⟩,
    ⟨20, hT, 0, 1, 5, tables 0x4000000007 (waiting hT), ?_⟩⟩ <;>
    (try simp only [Suits, Waits, any_iff, all_iff]) <;>
    and_intros <;> first | decide +kernel | rfl

def xTenantKeysAndPartitions1 : Tenant :=
  { entry := 5, key := 4, keyGen := 2, sweep := some { gen := 1, key := 3, ptrs := [(512, 32767)], fresh := [(512, 1024)] } }
def wTenantKeysAndPartitions1 : Sweep := { gen := 1, key := 3, ptrs := [(512, 32767)], fresh := [(512, 1024)] }
def sTenantKeysAndPartitions1 : State :=
  { ingots State.reset with sec := { tenants := [(5, { entry := 5, key := 4, keyGen := 2, sweep := some { gen := 1, key := 3, ptrs := [(512, 32767)], fresh := [(512, 1024)] } })] } }
def xTenantKeysAndPartitions2 : Tenant :=
  { entry := 5, key := 4, keyGen := 2, sweep := some { gen := 1, key := 3, ptrs := [(512, 32766)] } }
def sTenantKeysAndPartitions2 : State :=
  { ingots State.reset with sec := { tenants := [(5, { entry := 5, key := 4, keyGen := 2, sweep := some { gen := 1, key := 3, ptrs := [(512, 32766)] } })], sweepAt := 9 } }
def sTenantKeysAndPartitions3 : State :=
  { waiting hT with sec := { tenants := [(5, { entry := 5, key := 3 })], jobs := [(3, { binding := 0x70005 })] } }
def eTenantKeysAndPartitions4 : BitVec 512 := 5 + 2 ^ 10 + 2 ^ 84 + 1024 * 2 ^ 88 + 8 * 2 ^ 104 + 32 * 2 ^ 108 + 2048 * 2 ^ 116

theorem test_met_TenantKeysAndPartitions :
    (∃ (h : CmdHdr) (x : Tenant) (s : State), Suits h .tenant ∧ Waits s h ∧ s.sec.tenants.find h.tenant.toNat = some x ∧
      x.sweep = none ∧ rd s Fld.ECC_TIN_STATUS_STATE ≠ 1) ∧
    (∃ (te : BitVec 10) (x : Tenant) (w : Sweep) (s : State), s.sec.tenants.find te.toNat = some x ∧ x.sweep = some w ∧
      (tenantItems s te.toNat).filter w.isOld = [] ∧ EventRoom s) ∧
    (∃ (t : Ltc) (te : BitVec 10) (x : Tenant) (w : Sweep) (s : State), s.sec.tenants.find te.toNat = some x ∧ x.sweep =
      some w ∧ sweepItems s te.toNat w ≠ [] ∧
      (∀ i ∈ sweepItems s te.toNat w, i < 2 ^ 40 ∧ w.ptrs.get 0 i + 1 < 2 ^ 15 ∧ (i < 2 ^ 24 → lineBusy s (i * 2 ^ 15 + w.ptrs.get 0 i) = false))
      ∧ (s.sec.sweepAt ≠ now (adv t s) / 4 ∨ s.sec.sweepLines < sweepRate s)) ∧
    (∃ (h : CmdHdr) (s : State), Suits h .tenant ∧ Waits s h ∧ s.sec.tenants.find h.tenant.toNat ≠ none ∧ tenantHolds s
      h.tenant.toNat = false ∧ (∀ m ∈ s.mem.moves, m.tenant.toNat ≠ h.tenant.toNat) ∧ s.mem.tierCmds = []) ∧
    (∃ (h : CmdHdr) (e : BitVec 512) (s : State), h.scopeOk .tenant = true ∧ h.staged = false ∧ Waits s h ∧ partRsv e.toNat
      = false ∧ bitsOf e.toNat 0 10 = h.tenant.toNat ∧ partInj e.toNat ≤ 1024 ∧ partElc e.toNat ≤ 8 ∧ partHtt e.toNat ≤ 32 ∧
      partStreams e.toNat ≤ 2048 ∧
      (bitAt e.toNat 10 = true → partitionsOk (clusters s) (s.mode.applied.setPartition h.tenant.toNat e.toNat) = true)) := by
  refine ⟨⟨hT, { entry := 5, key := 3 }, ingots (waiting hT), ?_⟩,
    ⟨5, xTenantKeysAndPartitions1, wTenantKeysAndPartitions1, sTenantKeysAndPartitions1, ?_⟩,
    ⟨20, 5, xTenantKeysAndPartitions2, { gen := 1, key := 3, ptrs := [(512, 32766)] }, sTenantKeysAndPartitions2, ?_⟩,
    ⟨hT, sTenantKeysAndPartitions3, ?_⟩,
    ⟨hT, eTenantKeysAndPartitions4, ingots (waiting hT), ?_⟩⟩ <;>
    (try simp only [Suits, Waits, any_iff, EventRoom, all_iff]) <;>
    and_intros <;> decide +kernel

def rMemoryControllers0 : MemReq := { line := 0, write := true, mask := 0xFF, val := ⟨5, 3, 0⟩, val2 := ⟨5, 3, 0⟩ }
def rMemoryControllers1 : MemReq := { line := 0, write := false, mask := 0xFF, val := ⟨5, 3, 0⟩, val2 := ⟨5, 3, 0⟩ }
def sMemoryControllers6 : State := withMem (wr State.reset Fld.MEM_HOT_CTRL_ENABLE 1) fun m => { m with hot := [(3, 7)] }

theorem test_met_MemoryControllers :
    (∃ (u : MemUnit) (r : MemReq) (s : State), unitExists s u = true ∧ lineAtUnit s u r.line.toNat = true ∧ r.write = true
      ∧ r.mask = 0xFF ∧ ((∃ n, u = .stack n) ∨ r.line.toNat % 2 = 0) ∧ keyOf s (unitArr u) r.line.toNat ≠ .lost) ∧
    (∃ (u : MemUnit) (r : MemReq) (s : State), unitExists s u = true ∧ lineAtUnit s u r.line.toNat = true ∧ r.write = false
      ∧ keyOf s (unitArr u) r.line.toNat = .raw ∧ (storeOf s (unitArr u)).tagOf r.line.toNat = 0 ∧ (unitOf s (unitNum u)).sr
      = none ∧ (∀ i, i < 8 → errHeld s (unitArr u) r.line.toNat i = 0)) ∧
    (∃ (t : Ltc) (u : MemUnit) (bank : BitVec 6) (s : State), unitExists s u = true ∧ (unitOf s (unitNum u)).sr = none ∧
      refreshDue (adv t s) (unitNum u) bank.toNat = true) ∧
    (∃ (t : Ltc) (u : MemUnit) (bank : BitVec 6) (s : State),
      (unitExists s u = false ∨ (unitOf s (unitNum u)).sr ≠ none ∨ refreshDue (adv t s) (unitNum u) bank.toNat = false)) ∧
    (∃ (t : Ltc) (u : MemUnit) (s : State), unitExists s u = true ∧ (unitOf s (unitNum u)).sr = none ∧ srDue (adv t s)
      (unitNum u) = true) ∧
    (∃ (t : Ltc) (s : State), s.mem.reports ≠ [] ∧ s.mem.firstReport.toNat + us 100 ≤ now (adv t s) ∧ EventRoom s) ∧
    (∃ (t : Ltc) (s : State), rdb s Fld.MEM_HOT_CTRL_ENABLE = true ∧ s.mem.hotAt.toNat + epochNs s ≤ now (adv t s)) := by
  refine ⟨⟨.stack 0, rMemoryControllers0, ingots State.reset, ?_⟩,
    ⟨.ddr 0, rMemoryControllers1, farReady State.reset, ?_⟩,
    ⟨4000, .stack 383, 63, State.reset, ?_⟩,
    ⟨3000, .stack 383, 63, State.reset, ?_⟩,
    ⟨1000000000, .stack 383, wr State.reset Fld.MEM_REFRESH_CTRL_SR_IDLE_US 1, ?_⟩,
    ⟨100000, withMem State.reset fun m => { m with reports := [7] }, ?_⟩,
    ⟨1024000, sMemoryControllers6, ?_⟩⟩ <;>
    (try simp only [EventRoom]) <;>
    and_intros <;> decide +kernel

def sRepairAndTestMode0 : State :=
  wr (wr (wr State.reset Fld.ECC_TEST_CTRL_ENABLE 1) Fld.ECC_TEST_CTRL_ADDR 0xFF8) Fld.ECC_TEST_DATA_DATA 9
def sRepairAndTestMode4 : State := wr (wr State.reset (Fld.ECC_REGION_LEVEL 287) 1) (Fld.ECC_REGION_SINGLE 287) 1
def xRepairAndTestMode6 : ScrubAt := scrubAt (wr State.reset (Fld.ECC_SCRUB_LAP_ENABLED 0) 1 : State) (.sram 0 : ScrubUnit)
def sRepairAndTestMode8 : State := { wr State.reset Fld.ECC_ANNEAL_CTRL_ENABLE 1 with ecc := { annealAt := [(273, 1023)] } }
def sRepairAndTestMode10 : State := { setAnvil .f1 { state := 0 } State.reset with ecc := { wakes := [(273, 20)] } }

theorem test_met_RepairAndTestMode :
    (∃ (a : Arr) (addr : Nat) (s : State), testTarget s (testTileIdle s) = some (a, addr)) ∧
    (∃ (s : State), testTarget s (testTileIdle s) = none) ∧
    (∃ (t : Ltc) (s : State), s.ecc.leakAt.toNat + leakNs s ≤ now (adv t s)) ∧
    (∃ (t : Ltc) (s : State), now (adv t s) < s.ecc.leakAt.toNat + leakNs s) ∧
    (∃ (t : Ltc) (u : ScrubUnit) (x : ScrubAt) (s : State), x = scrubAt s u ∧ scrubExists s u = true ∧ scrubRuns s x = true
      ∧ scrubSkips s x = false ∧ scrubIdle (adv t s) x = true ∧ (scrubWords x (adv t s)).1 = []) ∧
    (∃ (h : CmdHdr) (enable : Byte) (mask : BitVec 32) (s : State), Suits h .platform ∧ Waits s h ∧ mask.toNat < 128 ∧
      enable.toNat < 2) ∧
    (∃ (t : Ltc) (g : BitVec 9) (rows : BitVec 8) (cols : BitVec 8) (r : Nat) (s : State), annealRuns (adv t s) g.toNat =
      true ∧ r = s.ecc.annealAt.get 0 g.toNat ∧ (sparesUsed s (64 * g.toNat + r / 64)).1 + rows.toNat ≤ 16 ∧
      (sparesUsed s (64 * g.toNat + r / 64)).2 + cols.toNat ≤ 4 ∧ Tab.wf s.mem.sram.errs = true ∧
      (∀ e ∈ s.mem.sram.errs, (decodeWord 78 e.2.toNat).outcome ≠ .uncorrectable)) ∧
    (∃ (i : Island) (s : State), s.ecc.wakes.find (islandNum i) = none) ∧
    (∃ (t : Ltc) (i : Island) (s : State), wakeDue (adv t s) i = true) := by
  refine ⟨⟨.sram, sramLoc (0x6C0000 + 0xFF8) 1 0 0, sRepairAndTestMode0, ?_⟩,
    ⟨State.reset, ?_⟩,
    ⟨10000000000, sRepairAndTestMode4, ?_⟩,
    ⟨0, State.reset, ?_⟩,
    ⟨20, .sram 0, xRepairAndTestMode6, wr State.reset (Fld.ECC_SCRUB_LAP_ENABLED 0) 1, ?_⟩,
    ⟨hP, 1, 127, waiting hP, ?_⟩,
    ⟨20, 273, 16, 4, 1023, sRepairAndTestMode8, ?_⟩,
    ⟨.tile 1 127, State.reset, ?_⟩,
    ⟨20, .anvil .f1, sRepairAndTestMode10, ?_⟩⟩ <;>
    (try simp only [Suits, Waits, any_iff, all_iff]) <;>
    and_intros <;> decide +kernel

def xPortTrainingAndControl2 : LPort :=
  { signal := 0xFFFF, seenPeer := true, sentSeen := true, peerSeen := true, peerLanes := 0xFFFF, next := 4 }
def sPortTrainingAndControl2 : State :=
  { wr State.reset (Fld.FAB_PORT_STATUS_STATE 15) 1 with link := [(15, { signal := 0xFFFF, seenPeer := true, sentSeen := true, peerSeen := true, peerLanes := 0xFFFF, next := 4 })] }
def sPortTrainingAndControl5 : State :=
  portUpWith 15 { good := 0xFFFF, signal := 0xFFFF, replay := [⟨7, cell0, 0, 0, none⟩] } State.reset
def sPortTrainingAndControl6 : State := portUpWith 15 { replay := [⟨7, cell0, 0, 0, none⟩] } (waiting hP)

theorem test_met_PortTrainingAndControl :
    (∃ (port : BitVec 4) (lanes : BitVec 16) (s : State), portState s port.toNat = 0 ∧ alignedSignal lanes.toNat = true ∧
      EventRoom s) ∧
    (∃ (port : BitVec 4) (lanes : BitVec 16) (s : State), portState s port.toNat = 1 ∧ alignedSignal lanes.toNat = false) ∧
    (∃ (port : BitVec 4) (lanes : BitVec 16) (w : Nat) (m : Nat) (x : LPort) (s : State), portState s port.toNat = 1 ∧ x =
      lport s port.toNat ∧ x.change = none ∧ x.seenPeer = true ∧ x.sentSeen = true ∧ x.peerSeen = true ∧ alignedSignal
      lanes.toNat = true ∧ widestIn (lanes.toNat &&& x.peerLanes.toNat) = some (w, m) ∧ sinkOk s port.toNat = true) ∧
    (∃ (port : BitVec 4) (c : Cell) (m : LinkMsg) (s : State), readMsgOf 1 c = some m ∧
      (portState s port.toNat = 2 ∨ (portState s port.toNat = 1 ∧ (lport s port.toNat).lanes = none))) ∧
    (∃ (t : Ltc) (port : BitVec 4) (s : State), portState s port.toNat = 1 ∧ (lport s port.toNat).lanes = none ∧
      (lport s port.toNat).helloAt ≤ slotNo (adv t s)) ∧
    (∃ (port : BitVec 4) (s : State), portState s port.toNat = 2 ∧ EventRoom s) ∧
    (∃ (h : CmdHdr) (port : Byte) (s : State), Suits h .platform ∧ Waits s h ∧ port.toNat < 16) ∧
    (∃ (h : CmdHdr) (port : Byte) (s : State), Suits h .platform ∧ Waits s h ∧ port.toNat < 16 ∧ portState s port.toNat = 2
      ∧ retrainAsked s port.toNat = false) ∧
    (∃ (h : CmdHdr) (port : Byte) (width : Byte) (m : Nat) (s : State), Suits h .platform ∧ Waits s h ∧ port.toNat < 16 ∧
      portState s port.toNat = 2 ∧ lanesOfWidth (lport s port.toNat).good.toNat width.toNat = some m) ∧
    (∃ (h : CmdHdr) (s : State), Suits h .platform ∧ Waits s h) := by
  refine ⟨⟨15, 0xF000, State.reset, ?_⟩,
    ⟨15, 0x7777, wr State.reset (Fld.FAB_PORT_STATUS_STATE 15) 1, ?_⟩,
    ⟨15, 0xFF0F, 8, 0xFF00, xPortTrainingAndControl2, sPortTrainingAndControl2, ?_⟩,
    ⟨15, msgCell (lm 1), lm 1, wr State.reset (Fld.FAB_PORT_STATUS_STATE 15) 1, ?_⟩,
    ⟨20, 15, wr State.reset (Fld.FAB_PORT_STATUS_STATE 15) 1, ?_⟩,
    ⟨15, sPortTrainingAndControl5, ?_⟩,
    ⟨hP, 15, sPortTrainingAndControl6, ?_⟩,
    ⟨hP, 15, portUpWith 15 { good := 0xFFFF } (waiting hP), ?_⟩,
    ⟨hP, 15, 4, 0xF, portUpWith 15 { good := 0xFFFF } (waiting hP), ?_⟩,
    ⟨hP, waiting hP, ?_⟩⟩ <;>
    (try simp only [Suits, Waits, any_iff, EventRoom]) <;>
    and_intros <;> decide +kernel

def sLinkReplayAndRequests3 : State :=
  portUpWith 15 { replay := [⟨7, cell0, 0, 0, none⟩, ⟨8, cell0, 0, 0, none⟩], next := 9 } State.reset
def sLinkReplayAndRequests5 : State :=
  { portUpWith 15 { req := some ⟨1, 0, 0, false⟩, replay := [⟨7, cell0, 0, 0, none⟩], next := 8 } State.reset with fuses := { uid := 76 } }
def sLinkReplayAndRequests6 : State :=
  { portUpWith 15 { req := some ⟨1, 0, 0, false⟩, replay := [⟨7, cell0, 0, 0, none⟩], next := 8 } State.reset with fuses := { uid := 78 } }
def sLinkReplayAndRequests8 : State :=
  { portUpWith 15 { req := some ⟨1, 0, 0, false⟩, replay := [⟨7, cell0, 0, 0, none⟩], next := 8 } State.reset with fuses := { uid := 77 } }
def sLinkReplayAndRequests9 : State :=
  portUpWith 15 { req := some ⟨1, 0, 0, false⟩, replay := [⟨7, cell0, 0, 0, none⟩], next := 8 } State.reset
def sLinkReplayAndRequests10 : State :=
  portUpWith 15 { req := some ⟨1, 0, 0, false⟩, replay := [⟨7, cell0, 0, 0, none⟩], next := 8, reqAt := 500 } State.reset
def sLinkReplayAndRequests12 : State :=
  wr (portUpWith 15 { change := some ⟨1, 8, 0xFF, true⟩, replay := [⟨7, cell0, 0, 0, none⟩] } State.reset) (Fld.FAB_PORT_STATUS_STATE 15) 1
def sLinkReplayAndRequests13 : State := portUpWith 15 { replay := [⟨7, cell0, 0, 0, none⟩] } State.reset
def sLinkReplayAndRequests14 : State := wr (portUpWith 15 { good := 0xFFFF } State.reset) Fld.FAB_LINK_CTRL_AUTO_WIDTH 1
def sLinkReplayAndRequests15 : State :=
  wr (portUpWith 15 { good := 0xFFFF, unc := [(3, 2)] } State.reset) Fld.FAB_LINK_CTRL_UNCORR_LIMIT 1

theorem test_met_LinkReplayAndRequests :
    (∃ (port : BitVec 4) (f : Fec) (s : State), portState s port.toNat = 2 ∧ f.uncorrectable ≠ 0) ∧
    (∃ (port : BitVec 4) (f : Fec) (w : LinkWord) (x : LPort) (s : State), portState s port.toNat = 2 ∧ f.uncorrectable = 0
      ∧ f.overlaps = false ∧ w.kind = 0 ∧ w.av = false ∧ w.cclass = 7 ∧ x = lport s port.toNat ∧ (w.lseq - x.lack - 1).toNat
      < 512 ∧ x.win.getLsbD (w.lseq - x.lack - 1).toNat = false) ∧
    (∃ (port : BitVec 4) (f : Fec) (w : LinkWord) (x : LPort) (s : State), portState s port.toNat = 2 ∧ f.uncorrectable = 0
      ∧ f.overlaps = false ∧ w.kind = 0 ∧ w.av = false ∧ w.cclass = 7 ∧ x = lport s port.toNat ∧
      (512 ≤ (w.lseq - x.lack - 1).toNat ∨ x.win.getLsbD (w.lseq - x.lack - 1).toNat = true)) ∧
    (∃ (port : BitVec 4) (f : Fec) (w : LinkWord) (s : State), portState s port.toNat = 2 ∧ f.uncorrectable = 0 ∧
      f.overlaps = false ∧ w.kind ≠ 0 ∧ w.kind ≠ 3 ∧ w.av = true) ∧
    (∃ (t : Ltc) (port : BitVec 4) (c : HeldCell) (r : List HeldCell) (s : State), portState s port.toNat = 2 ∧
      (lport s port.toNat).replay = c :: r ∧ c.latest.toNat + us 2 ≤ now (adv t s)) ∧
    (∃ (port : BitVec 4) (c : Cell) (m : LinkMsg) (s : State), portState s port.toNat = 2 ∧ readMsgOf 2 c = some m ∧
      ownWins s port.toNat m = false) ∧
    (∃ (port : BitVec 4) (c : Cell) (m : LinkMsg) (s : State), ownWins s port.toNat m = true ∧ readMsgOf 2 c = some m) ∧
    (∃ (port : BitVec 4) (c : Cell) (m : LinkMsg) (s : State), ownWins s port.toNat m = true ∧ readMsgOf 3 c = some m) ∧
    (∃ (port : BitVec 4) (c : Cell) (m : LinkMsg) (s : State), portState s port.toNat = 2 ∧ readMsgOf 3 c = some m ∧
      ownWins s port.toNat m = false ∧ lanesOfWidth m.laneMask.toNat m.width.toNat = some m.laneMask.toNat) ∧
    (∃ (port : BitVec 4) (c : Cell) (m : LinkMsg) (r : LinkReq) (s : State), portState s port.toNat = 2 ∧ readMsgOf 4 c =
      some m ∧ (lport s port.toNat).req = some r ∧ r.num = m.reqNum) ∧
    (∃ (t : Ltc) (port : BitVec 4) (r : LinkReq) (s : State), (lport s port.toNat).req = some r ∧ slotNo (adv t s) <
      (lport s port.toNat).reqAt) ∧
    (∃ (t : Ltc) (port : BitVec 4) (r : LinkReq) (s : State), (lport s port.toNat).req = some r ∧
      (lport s port.toNat).reqAt ≤ slotNo (adv t s)) ∧
    (∃ (port : BitVec 4) (r : LinkReq) (s : State), portState s port.toNat = 1 ∧ (lport s port.toNat).change = some r) ∧
    (∃ (t : Ltc) (port : BitVec 4) (s : State), portState s port.toNat = 2 ∧ (lport s port.toNat).change = none ∧
      retrainAsked s port.toNat = false ∧ (∃ c ∈ (lport s port.toNat).replay, c.first.toNat + us 16 ≤ now (adv t s))) ∧
    (∃ (port : BitVec 4) (lane : BitVec 4) (w : Nat) (m : Nat) (s : State), portState s port.toNat = 2 ∧ rdb s
      Fld.FAB_LINK_CTRL_AUTO_WIDTH = true ∧ bitAt (rd s (Fld.FAB_PORT_STATUS_LANE_MASK port.toNat)) lane.toNat = true ∧
      widestIn ((lport s port.toNat).good.toNat &&& (0xFFFF - putBit (lport s port.toNat).failed.toNat lane.toNat true)) =
      some (w, m)) ∧
    (∃ (t : Ltc) (port : BitVec 4) (s : State), portState s port.toNat = 2 ∧ rd s Fld.FAB_LINK_CTRL_UNCORR_LIMIT ≠ 0 ∧
      retrainAsked s port.toNat = false ∧ rd s Fld.FAB_LINK_CTRL_UNCORR_LIMIT <
      ((((lport s port.toNat).unc.filter fun e => decide (now (adv t s) < e.1.toNat + us 1000)).map Prod.snd).foldl (· + ·) 0)) := by
  refine ⟨⟨15, ⟨1, 3, false⟩, portUpWith 15 { good := 0xFFFF } State.reset, ?_⟩,
    ⟨15, ⟨1, 0, false⟩, { lw with lseq := 511 }, { good := 0xFFFF }, portUpWith 15 { good := 0xFFFF } State.reset, ?_⟩,
    ⟨15, ⟨1, 0, false⟩, { lw with lseq := 512 }, { good := 0xFFFF }, portUpWith 15 { good := 0xFFFF } State.reset, ?_⟩,
    ⟨15, ⟨1, 0, false⟩, { lw with kind := 1, av := true, lack := 7 }, sLinkReplayAndRequests3, ?_⟩,
    ⟨2000, 15, ⟨7, cell0, 0, 0, none⟩, [⟨8, cell0, 0, 0, none⟩], sLinkReplayAndRequests3, ?_⟩,
    ⟨15, msgCell (lm 2), lm 2, sLinkReplayAndRequests5, ?_⟩,
    ⟨15, msgCell (lm 2), lm 2, sLinkReplayAndRequests6, ?_⟩,
    ⟨15, msgCell (lm 3), lm 3, sLinkReplayAndRequests6, ?_⟩,
    ⟨15, msgCell (lm 3), lm 3, sLinkReplayAndRequests8, ?_⟩,
    ⟨15, msgCell (lm 4), lm 4, ⟨1, 0, 0, false⟩, sLinkReplayAndRequests9, ?_⟩,
    ⟨20, 15, ⟨1, 0, 0, false⟩, sLinkReplayAndRequests10, ?_⟩,
    ⟨20, 15, ⟨1, 0, 0, false⟩, sLinkReplayAndRequests9, ?_⟩,
    ⟨15, ⟨1, 8, 0xFF, true⟩, sLinkReplayAndRequests12, ?_⟩,
    ⟨16000, 15, sLinkReplayAndRequests13, ?_⟩,
    ⟨15, 15, 8, 0xFF, sLinkReplayAndRequests14, ?_⟩,
    ⟨10, 15, sLinkReplayAndRequests15, ?_⟩⟩ <;>
    (try simp only [any_iff]) <;>
    and_intros <;> decide +kernel

def sRoutesAndRouterSlots2 : State :=
  { wr (waiting hP) Fld.FAB_ROUTE_STATUS_DRAIN_MASK 0xFFFF with fab := { drains := [⟨hP, 0xFFFF, []⟩] } }
def sRoutesAndRouterSlots3 : State := { waiting (hS hP) with mode := { staged := [⟨3, .epoch 1⟩] } }
def sRoutesAndRouterSlots5 : State := { State.reset with fab := { cong := [(15, { busy := 3 })] } }
def sRoutesAndRouterSlots10 : State :=
  { portUpWith 15 { good := 0xFFFF } State.reset with mode := { applied := { routes := [(0xFFF, 0x400F)] } } }

theorem test_met_RoutesAndRouterSlots :
    (∃ (h : CmdHdr) (mask : BitVec 16) (s : State), Suits h .platform ∧ Waits s h ∧ mask ≠ 0) ∧
    (∃ (h : CmdHdr) (s : State), Suits h .platform ∧ Waits s h) ∧
    (∃ (d : Drain) (s : State), d ∈ s.fab.drains ∧ d.over s = true ∧ Waits s d.h) ∧
    (∃ (h : CmdHdr) (epoch : BitVec 16) (first : BitVec 16) (es : List (BitVec 32)) (s : State), h.scopeOk .platform = true
      ∧ h.staged = true ∧ Waits s h ∧ (∀ e ∈ es, bitsOf e.toNat 16 16 = 0) ∧ 1 ≤ es.length ∧ es.length ≤ 1024 ∧ first.toNat
      + es.length ≤ 4096 ∧ stagedEpoch s = some epoch ∧ h.modeGen.toNat = genAfter (appliedGen s) ∧ windowOpen s = false ∧
      isArmed s = false) ∧
    (∃ (h : CmdHdr) (epoch : BitVec 16) (s : State), h.scopeOk .platform = true ∧ h.staged = true ∧ Waits s h ∧ rdb s
      Fld.FAB_ROUTE_STATUS_DRAINED = true ∧ epoch.toNat % 16 ≠ s.mode.applied.epoch.toNat % 16 ∧ h.modeGen.toNat = genAfter
      (appliedGen s) ∧ windowOpen s = false ∧ isArmed s = false) ∧
    (∃ (t : Ltc) (s : State), s.fab.congAt + windowSlots s ≤ slotNo (adv t s)) ∧
    (∃ (t : Ltc) (s : State), slotNo (adv t s) < s.fab.congAt + windowSlots s) ∧
    (∃ (t : Ltc) (d : FDie) (port : BitVec 4) (c : Cell) (st : Settings) (s : State), c.cls ≠ 6 ∧ onDie d port.toNat = true
      ∧ crossedOver (adv t s) d = [] ∧ settingsFor s c.gen.toNat = some st ∧ c.repoch.toNat = st.epoch.toNat % 16 ∧
      s.ctl.partId = some c.dest ∧ encodingOk c = true ∧ (c.enc = true ∨ c.check = cellCrc c)) ∧
    (∃ (t : Ltc) (d : FDie) (port : BitVec 4) (c : Cell) (st : Settings) (s : State), c.cls ≠ 6 ∧ onDie d port.toNat = true
      ∧ crossedOver (adv t s) d = [] ∧ settingsFor s c.gen.toNat = some st ∧ c.repoch.toNat = st.epoch.toNat % 16 ∧
      s.ctl.partId = some c.dest ∧ c.enc = false ∧ c.check ≠ cellCrc c) ∧
    (∃ (t : Ltc) (d : FDie) (port : BitVec 4) (c : Cell) (st : Settings) (p : Nat) (s : State), c.cls ≠ 6 ∧ onDie d
      port.toNat = true ∧ crossedOver (adv t s) d = [] ∧ settingsFor s c.gen.toNat = some st ∧ c.repoch.toNat =
      st.epoch.toNat % 16 ∧ s.ctl.partId ≠ some c.dest ∧ c.hopPtr = 31 ∧ c.age ≠ 63 ∧ rtV (st.route c.dest.toNat) = true ∧ p
      = rtA (st.route c.dest.toNat) ∧ onDie d p = true ∧ canTake (adv t s) p c.cls.toNat = true) ∧
    (∃ (t : Ltc) (d : FDie) (port : BitVec 4) (c : Cell) (st : Settings) (s : State), c.cls ≠ 6 ∧ onDie d port.toNat = true
      ∧ crossedOver (adv t s) d = [] ∧ settingsFor s c.gen.toNat = some st ∧ c.repoch.toNat = st.epoch.toNat % 16 ∧
      s.ctl.partId ≠ some c.dest ∧ c.hopPtr = 31 ∧ rtV (st.route c.dest.toNat) = false) ∧
    (∃ (t : Ltc) (d : FDie) (port : BitVec 4) (c : Cell) (st : Settings) (s : State), onDie d port.toNat = true ∧
      crossedOver (adv t s) d = [] ∧ settingsFor s c.gen.toNat = some st ∧ c.repoch.toNat ≠ st.epoch.toNat % 16) := by
  refine ⟨⟨hP, 0x8000, waiting hP, ?_⟩,
    ⟨hP, waiting hP, ?_⟩,
    ⟨⟨hP, 0xFFFF, []⟩, sRoutesAndRouterSlots2, ?_⟩,
    ⟨hS hP, 1, 4095, [0xFFFF], sRoutesAndRouterSlots3, ?_⟩,
    ⟨hS hP, 1, wr (waiting (hS hP)) Fld.FAB_ROUTE_STATUS_DRAINED 1, ?_⟩,
    ⟨1000000000, sRoutesAndRouterSlots5, ?_⟩,
    ⟨0, sRoutesAndRouterSlots5, ?_⟩,
    ⟨20, .f1, 15, checked { cell0 with dest := 9 }, {}, withCtl State.reset fun c => { c with partId := some 9 }, ?_⟩,
    ⟨20, .f1, 15, { cell0 with dest := 9 }, {}, withCtl State.reset fun c => { c with partId := some 9 }, ?_⟩,
    ⟨20, .f1, 14, { cell0 with age := 62 }, { routes := [(0xFFF, 0x400F)] }, 15, sRoutesAndRouterSlots10, ?_⟩,
    ⟨20, .f1, 14, cell0, {}, State.reset, ?_⟩,
    ⟨20, .f1, 8, { cell0 with repoch := 1 }, {}, State.reset, ?_⟩⟩ <;>
    (try simp only [Suits, Waits, any_iff, all_iff]) <;>
    and_intros <;> decide +kernel

def dTrafficControl0 : Cell :=
  (outgoing (serves { base := 100 } : State) (5 : BitVec 10).toNat ({ cell0 with dest := 9, src := 0 } : Cell)).getD ({ cell0 with dest := 9, src := 0 } : Cell)
def sTrafficControl2 : State := { portUpWith 15 { good := 0xFFFF } State.reset with ready := [(15, [cell0])] }
def qTrafficControl3 : TQueue :=
  ((pickQueue (adv (20 : Ltc) (queued (portUpWith 15 { good := 0xFFFF } State.reset) : State)) 15).map fun x => x.2.1).getD {}
def sTrafficControl6 : State :=
  { State.reset with tc := { ports := [(15, { armed := some (20 * 2 ^ 32 + 100 * 2 ^ 80) })] } }

theorem test_met_TrafficControl :
    (∃ (te : BitVec 10) (c : Cell) (d : Cell) (p : Nat) (path : Option (BitVec 120)) (s : State), (c.cls = 0 ∨ c.cls = 5) ∧
      outgoing s te.toNat c = some d ∧ requestPort s d.dest.toNat = some (p, path) ∧ (tqueue s p te.toNat).cells.length <
      qMax s p te.toNat ∧ bufferRoom s p te.toNat = true ∧ withinLimits s d (s.fab.nextNum.get 0 (outKey d)).toNat = true) ∧
    (∃ (te : BitVec 10) (c : Cell) (s : State), (c.cls = 0 ∨ c.cls = 5) ∧ outgoing s te.toNat c = none) ∧
    (∃ (t : Ltc) (port : BitVec 4) (c : Cell) (r : List Cell) (s : State), readyAt s port.toNat = c :: r ∧ canTake
      (adv t s) port.toNat c.cls.toNat = true ∧ portWidth s port.toNat ≤ 16) ∧
    (∃ (t : Ltc) (port : BitVec 4) (te : Nat) (q : TQueue) (x : QCell) (r : List QCell) (s : State), readyAt s port.toNat =
      [] ∧ pickQueue (adv t s) port.toNat = some (te, q, .nothing) ∧ q.cells = x :: r ∧ x.resend = false ∧ canTake (adv t s)
      port.toNat x.cell.cls.toNat = true ∧ portWidth s port.toNat ≤ 16) ∧
    (∃ (t : Ltc) (port : BitVec 4) (s : State), readyAt s port.toNat = [] ∧ pickQueue (adv t s) port.toNat = none ∧
      (portState s port.toNat ≠ 2 ∨ slotFree (adv t s) port.toNat = false)) ∧
    (∃ (t : Ltc) (port : BitVec 4) (s : State), readyAt s port.toNat = [] ∧ pickQueue (adv t s) port.toNat = none ∧
      portState s port.toNat = 2 ∧ slotFree (adv t s) port.toNat = true) ∧
    (∃ (t : Ltc) (port : BitVec 4) (e : BitVec 128) (s : State), (tportOf s port.toNat).armed = some e ∧
      (tportOf s port.toNat).swapAt.toNat ≤ now (adv t s)) ∧
    (∃ (h : CmdHdr) (tb : Byte) (first : BitVec 16) (es : List (BitVec 128)) (s : State), h.scopeOk .platform = true ∧
      h.staged = false ∧ Waits s h ∧ tb.toNat ≤ 3 ∧ 1 ≤ es.length ∧ first.toNat + es.length ≤ trafficCount tb.toNat ∧
      (∀ e ∈ es, trafficRsv tb.toNat e.toNat = false ∧ trafficRange tb.toNat e.toNat = true) ∧
      (tb.toNat = 2 → ∀ e ∈ es, meterOk e.toNat = true) ∧ (tb.toNat = 0 → givesPartitionClass s first.toNat es = false)) ∧
    (∃ (h : CmdHdr) (tb : Byte) (first : BitVec 16) (es : List (BitVec 128)) (s : State), h.scopeOk .platform = true ∧
      h.staged = true ∧ Waits s h ∧ tb.toNat ≤ 3 ∧ 1 ≤ es.length ∧ first.toNat + es.length ≤ trafficCount tb.toNat ∧
      (∀ e ∈ es, trafficRsv tb.toNat e.toNat = false ∧ trafficRange tb.toNat e.toNat = true) ∧ h.modeGen.toNat = genAfter
      (appliedGen s) ∧ windowOpen s = false ∧ isArmed s = false) := by
  refine ⟨⟨5, { cell0 with dest := 9, src := 0 }, dTrafficControl0, 15, none, serves { base := 100 }, ?_⟩,
    ⟨5, { cell0 with dest := 9 }, State.reset, ?_⟩,
    ⟨20, 15, cell0, [], sTrafficControl2, ?_⟩,
    ⟨20, 15, 5, qTrafficControl3, { cell := cell0, num := 3 }, [], queued (portUpWith 15 { good := 0xFFFF } State.reset),
     ?_⟩,
    ⟨20, 15, State.reset, ?_⟩,
    ⟨20, 15, portUpWith 15 { good := 0xFFFF } State.reset, ?_⟩,
    ⟨20, 15, (20 * 2 ^ 32 + 100 * 2 ^ 80), sTrafficControl6, ?_⟩,
    ⟨hP, 2, 1023, [0], waiting hP, ?_⟩,
    ⟨hS hP, 3, 15, [0], waiting (hS hP), ?_⟩⟩ <;>
    (try simp only [Waits, any_iff, all_iff]) <;>
    and_intros <;> decide +kernel

def pFabricMemoryRequests0 : Cell :=
  plain (adv (20 : Ltc) (serves { base := 100 } : State)) (requestNonce (adv (20 : Ltc) (serves { base := 100 } : State)) (checked { cellE with lines := 0x89, sseq := 1123 } : Cell)) (checked { cellE with lines := 0x89, sseq := 1123 } : Cell)
def pFabricMemoryRequests1 : Cell :=
  plain (adv (20 : Ltc) (serves { base := 100 } : State)) (requestNonce (adv (20 : Ltc) (serves { base := 100 } : State)) (checked { cellE with op := 2, lines := 0x81, payload := 77 } : Cell)) (checked { cellE with op := 2, lines := 0x81, payload := 77 } : Cell)
def cFabricMemoryRequests2 : Cell := checked { cellE with op := 3, lines := 0x80, payload := 77 + 2 ^ 512 }
def pFabricMemoryRequests2 : Cell :=
  plain (adv (20 : Ltc) (serves { base := 100 } : State)) (requestNonce (adv (20 : Ltc) (serves { base := 100 } : State)) cFabricMemoryRequests2) cFabricMemoryRequests2
def cFabricMemoryRequests3 : Cell :=
  checked { cellE with op := 3, lines := 1, payload := 4 + 0xFF * 2 ^ 512, addr := 0x400000008 }
def sFabricMemoryRequests3 : State := { serves { base := 100 } with eng := { rings := [(1, rg)] } }
def pFabricMemoryRequests3 : Cell :=
  plain (adv (20 : Ltc) sFabricMemoryRequests3) (requestNonce (adv (20 : Ltc) sFabricMemoryRequests3) cFabricMemoryRequests3) cFabricMemoryRequests3
def cFabricMemoryRequests4 : Cell := checked { cellE with op := 4, lines := 0x41, payload := 0x400000F8 * 2 ^ 3584 }
def pFabricMemoryRequests4 : Cell :=
  plain (adv (20 : Ltc) (serves { base := 100 } : State)) (requestNonce (adv (20 : Ltc) (serves { base := 100 } : State)) cFabricMemoryRequests4) cFabricMemoryRequests4
def cFabricMemoryRequests5 : Cell := checked { cellE with op := 5, lines := 0x80, payload := 5 + 8 * 2 ^ 136 + 56 * 2 ^ 144 }
def pFabricMemoryRequests5 : Cell :=
  plain (adv (20 : Ltc) (serves { base := 100 } : State)) (requestNonce (adv (20 : Ltc) (serves { base := 100 } : State)) cFabricMemoryRequests5) cFabricMemoryRequests5
def pFabricMemoryRequests6 : Cell :=
  plain (adv (20 : Ltc) (serves { base := 100, bits := 1 } : State)) (requestNonce (adv (20 : Ltc) (serves { base := 100, bits := 1 } : State)) (checked { cellE with op := 2, lines := 0x81, payload := 77 } : Cell)) (checked { cellE with op := 2, lines := 0x81, payload := 77 } : Cell)

theorem test_met_FabricMemoryRequests :
    (∃ (t : Ltc) (port : BitVec 4) (c : Cell) (p : Cell) (e : Stream) (n : Nat) (q : Nat) (s : State), NewRequest t port c
      p 0 1 e n s ∧ cellBytes p 0 8 % 64 = 0 ∧ doorbellOf (cellBlock p) = none ∧ tablePort s p.src.toNat = some q ∧
      linesStatus s p false (blockLines (cellBlock p) p.lines.toNat) = 0 ∧
      (∀ ln ∈ blockLines (cellBlock p) p.lines.toNat, Plain s ln ∧ HomeOpen s ln) ∧ NotCounting s) ∧
    (∃ (t : Ltc) (port : BitVec 4) (c : Cell) (p : Cell) (e : Stream) (n : Nat) (s : State), NewRequest t port c p 0 2 e n
      s ∧ doorbellOf (cellBlock p) = none ∧ linesStatus s p true (blockLines (cellBlock p) p.lines.toNat) = 0 ∧
      (∀ ln ∈ blockLines (cellBlock p) p.lines.toNat, Writable s ln ∧ HomeOpen s ln) ∧ NotCounting s) ∧
    (∃ (t : Ltc) (port : BitVec 4) (c : Cell) (p : Cell) (e : Stream) (n : Nat) (s : State), NewRequest t port c p 0 3 e n
      s ∧ doorbellOf (cellBlock p) = none ∧ linesStatus s p true [oneLineOf p] = 0 ∧ Plain s (oneLineOf p) ∧ HomeOpen s
      (oneLineOf p) ∧ NotCounting s) ∧
    (∃ (t : Ltc) (port : BitVec 4) (c : Cell) (p : Cell) (e : Stream) (n : Nat) (ring : Nat) (r : Ring) (v : BitVec 32)
      (s : State), NewRequest t port c p 0 3 e n s ∧ doorbellOf (cellBlock p) = some (ring, 0) ∧ p.lines = 1 ∧ cellBytes p
      64 8 = 0xFF ∧ doorbellRing s ring (cellTenant s p) = some r ∧ r.state ≠ 2 ∧ v = BitVec.ofNat 32 (cellBytes p 0 4) ∧
      (v - r.tail).toNat < 2 ^ 31 ∧ (v - r.head).toNat ≤ r.slots) ∧
    (∃ (t : Ltc) (port : BitVec 4) (c : Cell) (p : Cell) (e : Stream) (n : Nat) (lns : List Nat) (s : State), NewRequest t
      port c p 0 4 e n s ∧ doorbellOf (cellBlock p) = none ∧ counterOf p % 8 = 0 ∧ inDoorbells (counterOf p) = false ∧ lns =
      blockLines (cellBlock p) p.lines.toNat ∧ linesStatus s p true (lns ++ [counterOf p / 64]) = 0 ∧
      (∀ ln ∈ lns, Writable s ln ∧ HomeOpen s ln) ∧ counterOf p / 64 ∉ lns ∧ Plain s (counterOf p / 64) ∧ HomeOpen s
      (counterOf p / 64) ∧ NotCounting s) ∧
    (∃ (t : Ltc) (port : BitVec 4) (c : Cell) (p : Cell) (e : Stream) (n : Nat) (q : Nat) (w : Nat) (a : Nat) (s : State),
      NewRequest t port c p 0 5 e n s ∧ doorbellOf (cellBlock p) = none ∧ w = 8 * cellBytes p 17 1 ∧ cellBytes p 18 1 %
      cellBytes p 17 1 = 0 ∧ a = 64 * oneLineOf p + cellBytes p 18 1 ∧ linesStatus s p true [oneLineOf p] = 0 ∧ Plain s
      (oneLineOf p) ∧ HomeOpen s (oneLineOf p) ∧ NotCounting s ∧ tablePort s p.src.toNat = some q) ∧
    (∃ (t : Ltc) (port : BitVec 4) (c : Cell) (p : Cell) (e : Stream) (n : Nat) (s : State), Admitted t port c p 0 2 e n s
      ∧ e.has n = true) := by
  refine ⟨⟨20, 15, checked { cellE with lines := 0x89, sseq := 1123 }, pFabricMemoryRequests0, { base := 100 }, 1123, 15, serves
     { base := 100 }, ?_⟩,
    ⟨20, 15, checked { cellE with op := 2, lines := 0x81, payload := 77 }, pFabricMemoryRequests1, { base := 100 }, 100,
     serves { base := 100 }, ?_⟩,
    ⟨20, 15, cFabricMemoryRequests2, pFabricMemoryRequests2, { base := 100 }, 100, serves { base := 100 }, ?_⟩,
    ⟨20, 15, cFabricMemoryRequests3, pFabricMemoryRequests3, { base := 100 }, 100, 1, rg, 4, sFabricMemoryRequests3, ?_⟩,
    ⟨20, 15, cFabricMemoryRequests4, pFabricMemoryRequests4, { base := 100 }, 100, [0x1000000, 0x1000006], serves
     { base := 100 }, ?_⟩,
    ⟨20, 15, cFabricMemoryRequests5, pFabricMemoryRequests5, { base := 100 }, 100, 15, 64, 0x400001F8, serves
     { base := 100 }, ?_⟩,
    ⟨20, 15, checked { cellE with op := 2, lines := 0x81, payload := 77 }, pFabricMemoryRequests6,
     { base := 100, bits := 1 }, 100, serves { base := 100, bits := 1 }, ?_⟩⟩ <;>
    (try simp only [NewRequest, Admitted, Plain, Readable, key_iff, NoGrants, HomeOpen, NotCounting, Writable, some_all_iff,
      all_iff]) <;>
    and_intros <;> decide +kernel

def pStreamsAndFences0 : Cell :=
  plain (adv (20 : Ltc) (serves { base := 100 } : State)) (requestNonce (adv (20 : Ltc) (serves { base := 100 } : State)) (checked { cellE with op := 6, lines := 0 } : Cell)) (checked { cellE with op := 6, lines := 0 } : Cell)
def pStreamsAndFences1 : Cell :=
  plain (adv (20 : Ltc) (serves { base := 100 } : State)) (requestNonce (adv (20 : Ltc) (serves { base := 100 } : State)) (checked { cellE with op := 6, lines := 0, sseq := 1123 } : Cell)) (checked { cellE with op := 6, lines := 0, sseq := 1123 } : Cell)
def eStreamsAndFences2 : Stream := { base := 100, fence := some ⟨101, 0, { cellE with op := 6 }⟩ }
def sStreamsAndFences2 : State := serves { base := 100, fence := some ⟨101, 0, { cellE with op := 6 }⟩ }
def sStreamsAndFences5 : State :=
  { serves { base := 100 } with sec := { (serves { base := 100 }).sec with tampered := true } }
def pStreamsAndFences5 : Cell :=
  plain (adv (20 : Ltc) sStreamsAndFences5) (requestNonce (adv (20 : Ltc) sStreamsAndFences5) (checked { cellE with op := 2, lines := 0x81, payload := 77 } : Cell)) (checked { cellE with op := 2, lines := 0x81, payload := 77 } : Cell)
def pStreamsAndFences6 : Cell :=
  plain (adv (20 : Ltc) ({ serves { base := 100 } with regs := State.reset.regs } : State)) (requestNonce (adv (20 : Ltc) ({ serves { base := 100 } with regs := State.reset.regs } : State)) (checked { cellE with op := 2, lines := 0x81, payload := 77 } : Cell)) (checked { cellE with op := 2, lines := 0x81, payload := 77 } : Cell)
def pStreamsAndFences7 : Cell :=
  plain (adv (20 : Ltc) (serves { base := 100 } : State)) (requestNonce (adv (20 : Ltc) (serves { base := 100 } : State)) (checked { cellE with op := 2, lines := 0x81, sseq := 1124 } : Cell)) (checked { cellE with op := 2, lines := 0x81, sseq := 1124 } : Cell)

theorem test_met_StreamsAndFences :
    (∃ (t : Ltc) (port : BitVec 4) (c : Cell) (p : Cell) (e : Stream) (n : Nat) (q : Nat) (s : State), NewRequest t port c
      p 0 6 e n s ∧ n = e.base.toNat ∧ tablePort s p.src.toNat = some q) ∧
    (∃ (t : Ltc) (port : BitVec 4) (c : Cell) (p : Cell) (e : Stream) (n : Nat) (s : State), NewRequest t port c p 0 6 e n
      s ∧ e.base.toNat < n) ∧
    (∃ (t : Ltc) (src : BitVec 12) (enc : Bool) (owner : BitVec 13) (e : Stream) (f : PendingFence) (q : Nat) (s : State),
      streamOf s (streamKey src enc owner) = some e ∧ e.fence = some f ∧ cellStream f.cell = streamKey src enc owner ∧
      f.at_.toNat + completionNs s ≤ now (adv t s) ∧ tablePort s f.cell.src.toNat = some q) ∧
    (∃ (t : Ltc) (src : BitVec 12) (enc : Bool) (owner : BitVec 13) (e : Stream) (lo : Nat) (q : Nat) (s : State), streamOf
      s (streamKey src enc owner) = some e ∧ (∃ a ∈ e.acks, a.toNat = lo) ∧
      (∀ a ∈ e.acks, lo ≤ a.toNat ∧ a.toNat < lo + 1024) ∧ e.ackAt.toNat ≤ now (adv t s) ∧ tablePort s src.toNat = some q) ∧
    (∃ (t : Ltc) (src : BitVec 12) (enc : Bool) (owner : BitVec 13) (e : Stream) (s : State), streamOf s
      (streamKey src enc owner) = some e ∧ e.bits = 0 ∧ e.fence = none ∧ e.acks = [] ∧
      (∀ w ∈ s.fab.waiting, cellStream w.cell ≠ streamKey src enc owner) ∧ e.last.toNat + us
      (rd s Fld.FAB_CTRL_STREAM_HOLD_US) ≤ now (adv t s)) ∧
    (∃ (t : Ltc) (c : Cell) (p : Cell) (e : Stream) (n : Nat) (q : Nat) (s : State), c.cls = 0 ∧ c.op = 2 ∧ p = plain
      (adv t s) (requestNonce (adv t s) c) c ∧ cellOk (adv t s) (requestNonce (adv t s) c) c = true ∧ s.sec.tampered = true
      ∧ streamOf s (cellStream p) = some e ∧ n = extendSeq e.base.toNat c.sseq.toNat ∧ e.base.toNat + 1024 < 2 ^ 48 ∧
      tablePort s p.src.toNat = some q) ∧
    (∃ (t : Ltc) (port : BitVec 4) (c : Cell) (p : Cell) (e : Stream) (n : Nat) (q : Nat) (s : State), Admitted t port c p
      0 2 e n s ∧ e.has n = false ∧ e.fence = none ∧ encMissing s p = true ∧ tablePort s p.src.toNat = some q) ∧
    (∃ (t : Ltc) (port : BitVec 4) (c : Cell) (p : Cell) (e : Stream) (q : Nat) (s : State), c.cls = 0 ∧ c.op = 2 ∧ p =
      plain (adv t s) (requestNonce (adv t s) c) c ∧ cellOk (adv t s) (requestNonce (adv t s) c) c = true ∧ s.sec.tampered =
      false ∧ peerFull s p = false ∧ streamOf s (cellStream p) = some e ∧
      (meterCell ((settingsFor s c.gen.toNat).getD s.mode.applied) port.toNat (cellTenant s p) p (adv t s)).1 = false ∧
      e.base.toNat + 1024 ≤ extendSeq e.base.toNat c.sseq.toNat ∧ tablePort s p.src.toNat = some q) := by
  refine ⟨⟨20, 15, checked { cellE with op := 6, lines := 0 }, pStreamsAndFences0, { base := 100 }, 100, 15, serves
     { base := 100 }, ?_⟩,
    ⟨20, 15, checked { cellE with op := 6, lines := 0, sseq := 1123 }, pStreamsAndFences1, { base := 100 }, 1123, serves
     { base := 100 }, ?_⟩,
    ⟨1000000000, 9, false, 5, eStreamsAndFences2, ⟨101, 0, { cellE with op := 6 }⟩, 15, sStreamsAndFences2, ?_⟩,
    ⟨20, 9, false, 5, { base := 100, acks := [100, 1123] }, 100, 15, serves { base := 100, acks := [100, 1123] }, ?_⟩,
    ⟨1000000000, 9, false, 5, { base := 100 }, serves { base := 100 }, ?_⟩,
    ⟨20, checked { cellE with op := 2, lines := 0x81, payload := 77 }, pStreamsAndFences5, { base := 100 }, 100, 15,
     sStreamsAndFences5, ?_⟩,
    ⟨20, 15, checked { cellE with op := 2, lines := 0x81, payload := 77 }, pStreamsAndFences6, { base := 100 }, 100, 15,
     { serves { base := 100 } with regs := State.reset.regs }, ?_⟩,
    ⟨20, 15, checked { cellE with op := 2, lines := 0x81, sseq := 1124 }, pStreamsAndFences7, { base := 100 }, 15, serves
     { base := 100 }, ?_⟩⟩ <;>
    (try simp only [NewRequest, Admitted, all_iff, any_iff]) <;>
    and_intros <;> decide +kernel

def pOwnRequests0 : Cell :=
  plain (adv (20 : Ltc) (asked (rq 1) : State)) (replyNonce (adv (20 : Ltc) (asked (rq 1) : State)) (rply 1 : Cell)) (rply 1 : Cell)
def pOwnRequests1 : Cell :=
  plain (adv (20 : Ltc) (asked (rq 1) : State)) (replyNonce (adv (20 : Ltc) (asked (rq 1) : State)) (checked { rply 1 with sseq := 101 } : Cell)) (checked { rply 1 with sseq := 101 } : Cell)
def pOwnRequests2 : Cell :=
  plain (adv (20 : Ltc) (asked (rq 2) : State)) (replyNonce (adv (20 : Ltc) (asked (rq 2) : State)) (checked { rply 2 with sseq := 99, payload := 2 } : Cell)) (checked { rply 2 with sseq := 99, payload := 2 } : Cell)
def pOwnRequests3 : Cell :=
  plain (adv (20 : Ltc) (asked (rq 2) : State)) (replyNonce (adv (20 : Ltc) (asked (rq 2) : State)) (checked { rply 2 with payload := 6 } : Cell)) (checked { rply 2 with payload := 6 } : Cell)
def pOwnRequests4 : Cell :=
  plain (adv (20 : Ltc) (asked (rq 2) : State)) (replyNonce (adv (20 : Ltc) (asked (rq 2) : State)) (checked { rply 4 with addr := 1 } : Cell)) (checked { rply 4 with addr := 1 } : Cell)
def pOwnRequests5 : Cell :=
  plain (adv (20 : Ltc) (asked (rq 6) : State)) (replyNonce (adv (20 : Ltc) (asked (rq 6) : State)) (rply 5 : Cell)) (rply 5 : Cell)
def sOwnRequests8 : State := asked ({ rq 2 with backoff := true, nacks := 7, nackAt := 0 })

theorem test_met_OwnRequests :
    (∃ (t : Ltc) (c : Cell) (p : Cell) (r : Request) (j : Nat) (s : State), ReplyTaken t c p 1 s ∧ j = bitsOf p.addr.toNat
      8 6 ∧ (s.fab.reqs.find? fun r => r.answeredBy p p.sseq.toNat && r.cell.cls = 0 && r.cell.op = 1) = some r ∧ bitAt
      r.missing.toNat j = true) ∧
    (∃ (t : Ltc) (c : Cell) (p : Cell) (s : State), ReplyTaken t c p 1 s ∧
      (s.fab.reqs.find? fun r => r.answeredBy p p.sseq.toNat && r.cell.cls = 0 && r.cell.op = 1) = none) ∧
    (∃ (t : Ltc) (c : Cell) (p : Cell) (r : Request) (i : Nat) (s : State), ReplyTaken t c p 2 s ∧ i < 1024 ∧
      p.payload.toNat % 2 ^ 1024 = 2 ^ i ∧
      (s.fab.reqs.find? fun r => r.answeredBy p ((p.sseq.toNat + i) % 65536) && r.ackable) = some r) ∧
    (∃ (t : Ltc) (c : Cell) (p : Cell) (s : State), ReplyTaken t c p 2 s) ∧
    (∃ (t : Ltc) (c : Cell) (p : Cell) (r : Request) (s : State), ReplyTaken t c p 4 s ∧
      (s.fab.reqs.find? fun r => r.answeredBy p p.sseq.toNat) = some r) ∧
    (∃ (t : Ltc) (c : Cell) (p : Cell) (r : Request) (s : State), ReplyTaken t c p 5 s ∧
      (s.fab.reqs.find? fun r => r.answeredBy p p.sseq.toNat && r.cell.cls = 0 && r.cell.op = 6) = some r) ∧
    (∃ (t : Ltc) (d : BitVec 12) (e : Bool) (o : BitVec 13) (n : BitVec 48) (r : Request) (s : State), requestOf s d e o n
      = some r ∧ r.waiting = false ∧ r.backoff = false ∧ r.sends ≤ rd s Fld.FAB_CTRL_RETRIES ∧ r.lastSent.toNat + us
      (retryUs s) ≤ now (adv t s)) ∧
    (∃ (t : Ltc) (d : BitVec 12) (e : Bool) (o : BitVec 13) (n : BitVec 48) (r : Request) (s : State), requestOf s d e o n
      = some r ∧ now (adv t s) < r.lastSent.toNat + us (retryUs s)) ∧
    (∃ (t : Ltc) (d : BitVec 12) (e : Bool) (o : BitVec 13) (n : BitVec 48) (r : Request) (s : State), requestOf s d e o n
      = some r ∧ r.waiting = false ∧ r.backoff = true ∧ r.nackAt.toNat + us (2 ^ min (r.nacks - 1) 6) ≤ now (adv t s)) ∧
    (∃ (t : Ltc) (d : BitVec 12) (e : Bool) (o : BitVec 13) (n : BitVec 48) (r : Request) (s : State), requestOf s d e o n
      = some r ∧ r.firstSent.toNat + completionNs s ≤ now (adv t s)) ∧
    (∃ (t : Ltc) (d : BitVec 12) (e : Bool) (o : BitVec 13) (n : BitVec 48) (r : Request) (s : State), requestOf s d e o n
      = some r ∧ now (adv t s) < r.firstSent.toNat + completionNs s) := by
  refine ⟨⟨20, rply 1, pOwnRequests0, rq 1, 0, asked (rq 1), ?_⟩,
    ⟨20, checked { rply 1 with sseq := 101 }, pOwnRequests1, asked (rq 1), ?_⟩,
    ⟨20, checked { rply 2 with sseq := 99, payload := 2 }, pOwnRequests2, rq 2, 1, asked (rq 2), ?_⟩,
    ⟨20, checked { rply 2 with payload := 6 }, pOwnRequests3, asked (rq 2), ?_⟩,
    ⟨20, checked { rply 4 with addr := 1 }, pOwnRequests4, rq 2, asked (rq 2), ?_⟩,
    ⟨20, rply 5, pOwnRequests5, rq 6, asked (rq 6), ?_⟩,
    ⟨1000000000, 9, false, 5, 100, rq 2, asked (rq 2), ?_⟩,
    ⟨0, 9, false, 5, 100, rq 2, asked (rq 2), ?_⟩,
    ⟨64000, 9, false, 5, 100, { rq 2 with backoff := true, nacks := 7, nackAt := 0 }, sOwnRequests8, ?_⟩,
    ⟨1000000000, 9, false, 5, 100, rq 2, asked (rq 2), ?_⟩,
    ⟨0, 9, false, 5, 100, rq 2, asked (rq 2), ?_⟩⟩ <;>
    (try simp only [ReplyTaken]) <;>
    and_intros <;> decide +kernel

def sHomeRequests6 : State := homes { htt := [(3, tr0 (.atomic 10 false 60 0x3F800000 0) .hAtomic [])] }
def rHomeRequests10 : CohReq :=
  { aid := (36 : BitVec 14), op := .rdShared, at_ := after (adv (20 : Ltc) (homes { htt := [(3, tr0 .rdShared .hRd [])] } : State)) 0 }
def sHomeRequests11 : State := homes { htt := (List.range 1024).map fun i => (64 * i + 64 * 16, tr0 .rdShared .hRd []) }

theorem test_met_HomeRequests :
    (∃ (aid : BitVec 14) (ln : BitVec 34) (s : State), HomeFree aid ln.toNat s ∧ s.coh.dir.find ln.toNat = none) ∧
    (∃ (aid : BitVec 14) (ln : BitVec 34) (e : DirEntry) (targets : List (BitVec 14)) (s : State), HomeFree aid ln.toNat s
      ∧ s.coh.dir.find ln.toNat = some e ∧ e.owned = false ∧ targets = ((holders s e).filter (· ≠ aid)).filter
      (fun a => !isDead s a) ∧ targets ≠ []) ∧
    (∃ (aid : BitVec 14) (o : BitVec 14) (ln : BitVec 34) (s : State), HomeFree aid ln.toNat s ∧ dirOwner s ln.toNat = some
      o ∧ isDead s o = false) ∧
    (∃ (aid : BitVec 14) (ln : BitVec 34) (e : DirEntry) (s : State), HomeFree aid ln.toNat s ∧ s.coh.dir.find ln.toNat =
      some e ∧ e.owned = false ∧ e.coarse = false ∧ e.ptrs = [aid]) ∧
    (∃ (aid : BitVec 14) (ln : BitVec 34) (s : State), HomeFree aid ln.toNat s ∧ Plain s ln.toNat) ∧
    (∃ (aid : BitVec 14) (ln : BitVec 34) (code : BitVec 4) (size8 : Bool) (off : BitVec 6) (s : State), HomeFree aid
      ln.toNat s ∧ s.coh.dir.find ln.toNat = none ∧ atomicAssigned code.toNat size8 = true ∧ off.toNat %
      (if size8 then 8 else 4) = 0) ∧
    (∃ (ln : BitVec 34) (tr : Trans) (code : BitVec 4) (size8 : Bool) (off : BitVec 6) (operand : Word) (cmp : Word)
      (w : Nat) (a : Nat) (s : State), s.coh.htt.find ln.toNat = some tr ∧ tr.st = .hAtomic ∧ tr.req.op = .atomic code size8
      off operand cmp ∧ waitsOf s ln.toNat = [] ∧ (∀ e ∈ s.coh.htt, e.2.blocked ≠ some ln.toNat) ∧ NoneWaiting s ∧ Plain s
      ln.toNat ∧ w = (if size8 then 64 else 32) ∧ off.toNat % (w / 8) = 0 ∧ a = 64 * ln.toNat + off.toNat) ∧
    (∃ (ln : BitVec 34) (tr : Trans) (d : Line) (s : State), s.coh.htt.find ln.toNat = some tr ∧ tr.st = .hRd ∧ waitsOf s
      ln.toNat = [] ∧ (∀ e ∈ s.coh.htt, e.2.blocked ≠ some ln.toNat) ∧ NoneWaiting s ∧ Plain s ln.toNat ∧ d = lineOfBits
      (s.mem.stack.lineBits ln.toNat) 0) ∧
    (∃ (ln : BitVec 34) (s : State), NoneWaiting s ∧ stackBytes s ≤ 64 * ln.toNat) ∧
    (∃ (aid : BitVec 14) (ln : BitVec 34) (s : State), NoneWaiting s ∧ 64 * ln.toNat < stackBytes s ∧ isDead s aid = false
      ∧ s.sec.tampered = false ∧ isMember s aid = false) ∧
    (∃ (t : Ltc) (aid : BitVec 14) (ln : BitVec 34) (r : CohReq) (s : State), NoneWaiting s ∧ 64 * ln.toNat < stackBytes s
      ∧ isDead s aid = false ∧ s.sec.tampered = false ∧ isMember s aid = true ∧ lineBusy s ln.toNat = true ∧ r =
      { aid := aid, op := .rdShared, at_ := after (adv t s) 0 }) ∧
    (∃ (aid : BitVec 14) (ln : BitVec 34) (s : State), NoneWaiting s ∧ 64 * ln.toNat < stackBytes s ∧ isDead s aid = false
      ∧ s.sec.tampered = false ∧ isMember s aid = true ∧ lineBusy s ln.toNat = false ∧ homeFull s ln.toNat = true) := by
  refine ⟨⟨37, 12884901887, homes {}, ?_⟩,
    ⟨36, 3, sharedBy [36, 37], [37], homes { dir := [(3, sharedBy [36, 37])] }, ?_⟩,
    ⟨36, 37, 3, homes { dir := [(3, ownedBy' 37)] }, ?_⟩,
    ⟨36, 3, sharedBy [36], homes { dir := [(3, sharedBy [36])] }, ?_⟩,
    ⟨36, 3, homes {}, ?_⟩,
    ⟨36, 3, 10, false, 60, homes {}, ?_⟩,
    ⟨3, tr0 (.atomic 10 false 60 0x3F800000 0) .hAtomic [], 10, false, 60, 0x3F800000, 0, 32, 252, sHomeRequests6, ?_⟩,
    ⟨3, tr0 .rdShared .hRd [], lineOfBits 0 0, homes { htt := [(3, tr0 .rdShared .hRd [])] }, ?_⟩,
    ⟨12884901888, homes {}, ?_⟩,
    ⟨38, 3, homes {}, ?_⟩,
    ⟨20, 36, 3, rHomeRequests10, homes { htt := [(3, tr0 .rdShared .hRd [])] }, ?_⟩,
    ⟨36, 3, sHomeRequests11, ?_⟩⟩ <;>
    (try simp only [HomeFree, LineIdle, all_iff, NoneWaiting, Plain, Readable, key_iff, NoGrants]) <;>
    and_intros <;> decide +kernel

def sHomeReleasesAndResponses5 : State := homes { htt := [(3, tr0 .rdOwn .hInv [37])], dir := [(3, sharedBy [37])] }
def sHomeReleasesAndResponses6 : State := homes { htt := [(3, tr0 .rdCur .hRecall [37])], dir := [(3, ownedBy' 37)] }
def sHomeReleasesAndResponses7 : State := homes { htt := [(3, tr0 .rdOwn .hRecall [37])], dir := [(3, ownedBy' 37)] }
def sHomeReleasesAndResponses8 : State := homes { htt := [(3, tr0 .rdShared .hRecall [37])], dir := [(3, ownedBy' 37)] }
def sHomeReleasesAndResponses12 : State := homes { htt := [(3, { tr0 .rdOwn .hInv [37] with reported := [37] })] }

theorem test_met_HomeReleasesAndResponses :
    (∃ (aid : BitVec 14) (ln : BitVec 34) (s : State), 64 * ln.toNat < stackBytes s ∧ isDead s aid = false ∧ LineIdle s
      ln.toNat ∧ dirOwner s ln.toNat = some aid ∧ keyOf s .stack ln.toNat ≠ .lost ∧ (ln.toNat, aid) ∉ s.coh.expect ∧
      NoneWaiting s) ∧
    (∃ (aid : BitVec 14) (ln : BitVec 34) (s : State), 64 * ln.toNat < stackBytes s ∧ isDead s aid = false ∧ LineIdle s
      ln.toNat ∧ dirOwner s ln.toNat = some aid ∧ (ln.toNat, aid) ∉ s.coh.expect ∧ NoneWaiting s) ∧
    (∃ (aid : BitVec 14) (ln : BitVec 34) (s : State), 64 * ln.toNat < stackBytes s ∧ isDead s aid = false ∧
      (ln.toNat, aid) ∈ s.coh.expect ∧ NoneWaiting s) ∧
    (∃ (aid : BitVec 14) (ln : BitVec 34) (s : State), 64 * ln.toNat < stackBytes s ∧ isDead s aid = false ∧ s.coh.htt.find
      ln.toNat = none ∧ dirOwner s ln.toNat ≠ some aid ∧ (ln.toNat, aid) ∉ s.coh.expect ∧ NoneWaiting s) ∧
    (∃ (aid : BitVec 14) (ln : BitVec 34) (tr : Trans) (s : State), Awaits aid ln.toNat tr s ∧ tr.need.erase aid ≠ []) ∧
    (∃ (aid : BitVec 14) (ln : BitVec 34) (tr : Trans) (s : State), AwaitsLast aid ln.toNat tr s ∧ tr.req.op = .rdOwn ∧
      tr.data = none ∧ tr.st = .hInv ∧ dirOwner s ln.toNat ≠ some aid) ∧
    (∃ (aid : BitVec 14) (ln : BitVec 34) (tr : Trans) (s : State), AwaitsLast aid ln.toNat tr s ∧ tr.req.op = .rdCur ∧
      tr.data = none ∧ tr.st = .hRecall) ∧
    (∃ (aid : BitVec 14) (ln : BitVec 34) (tr : Trans) (s : State), AwaitsLast aid ln.toNat tr s ∧ tr.req.op = .rdOwn ∧
      tr.written = false ∧ tr.st = .hRecall ∧ dirOwner s ln.toNat = some aid ∧ keyOf s .stack ln.toNat ≠ .lost) ∧
    (∃ (aid : BitVec 14) (ln : BitVec 34) (tr : Trans) (e : DirEntry) (s : State), AwaitsLast aid ln.toNat tr s ∧ tr.req.op
      = .rdShared ∧ tr.written = false ∧ tr.st = .hRecall ∧ tr.req.aid ≠ aid ∧ s.coh.dir.find ln.toNat = some e ∧ e.owned =
      true ∧ e.ptrs = [aid] ∧ keyOf s .stack ln.toNat ≠ .lost) ∧
    (∃ (aid : BitVec 14) (ln : BitVec 34) (tr : Trans) (s : State), Awaits aid ln.toNat tr s ∧ aid ∉ tr.early) ∧
    (∃ (aid : BitVec 14) (ln : BitVec 34) (tr : Trans) (s : State), Awaits aid ln.toNat tr s ∧ aid ∉ tr.early ∧
      tr.need.erase aid ≠ []) ∧
    (∃ (t : Ltc) (aid : BitVec 14) (ln : BitVec 34) (tr : Trans) (s : State), s.coh.htt.find ln.toNat = some tr ∧ aid ∈
      tr.need ∧ aid ∉ tr.reported ∧ tr.since.toNat + us (snoopLimit s) ≤ now (adv t s)) ∧
    (∃ (aid : BitVec 14) (ln : BitVec 34) (tr : Trans) (s : State), s.coh.htt.find ln.toNat = some tr ∧ aid ∈ tr.reported) := by
  refine ⟨⟨36, 3, homes { dir := [(3, ownedBy' 36)] }, ?_⟩,
    ⟨36, 3, homes { dir := [(3, ownedBy' 36)] }, ?_⟩,
    ⟨36, 3, homes { expect := [(3, 36)] }, ?_⟩,
    ⟨36, 3, homes { dir := [(3, ownedBy' 37)] }, ?_⟩,
    ⟨37, 3, tr0 .rdOwn .hInv [37, 38], homes { htt := [(3, tr0 .rdOwn .hInv [37, 38])] }, ?_⟩,
    ⟨37, 3, tr0 .rdOwn .hInv [37], sHomeReleasesAndResponses5, ?_⟩,
    ⟨37, 3, tr0 .rdCur .hRecall [37], sHomeReleasesAndResponses6, ?_⟩,
    ⟨37, 3, tr0 .rdOwn .hRecall [37], sHomeReleasesAndResponses7, ?_⟩,
    ⟨37, 3, tr0 .rdShared .hRecall [37], ownedBy' 37, sHomeReleasesAndResponses8, ?_⟩,
    ⟨37, 3, tr0 .rdOwn .hRecall [37], sHomeReleasesAndResponses7, ?_⟩,
    ⟨37, 3, tr0 .rdOwn .hInv [37, 38], homes { htt := [(3, tr0 .rdOwn .hInv [37, 38])] }, ?_⟩,
    ⟨1000000000, 37, 3, tr0 .rdOwn .hInv [37], homes { htt := [(3, tr0 .rdOwn .hInv [37])] }, ?_⟩,
    ⟨37, 3, { tr0 .rdOwn .hInv [37] with reported := [37] }, sHomeReleasesAndResponses12, ?_⟩⟩ <;>
    (try simp only [LineIdle, all_iff, Awaits, NoneWaiting, AwaitsLast]) <;>
    and_intros <;> decide +kernel

def sEngineLineCaches1 : State := homes { elc := [(elcKey 1 3, { st := .m, line := ⟨5, 0, 0⟩ })] }
def sEngineLineCaches6 : State :=
  homes { pend := [(elcKey 1 3, { op := .rdOwn, upg := true })], elc := [(elcKey 1 3, { st := .m, line := ⟨5, 0, 0⟩ })] }
def sEngineLineCaches9 : State :=
  homes { pend := [(elcKey 1 3, { op := .rdOwn, upg := true })], elc := [(elcKey 1 3, { st := .s, line := ⟨5, 0, 0⟩ })] }
def sEngineLineCaches10 : State :=
  withTask { tk with st := .wait } (homes { pend := [(elcKey 1 3, { op := .atomic 10 false 60 0x3F800000 0, task := some 0 })] })
def sEngineLineCaches11 : State :=
  withTask { tk with st := .wait } (homes { pend := [(elcKey 1 3, { op := .rdCur, task := some 0 })] })
def sEngineLineCaches14 : State := homes { evicting := [(elcKey 1 3, none), (elcKey 1 4, none)] }
def sEngineLineCaches15 : State := homes { pend := [(elcKey 1 3, { op := .rdCur, nacks := 6 })] }
def sEngineLineCaches16 : State :=
  { homes { pend := [(elcKey 1 3, { op := .rdOwn, retryAt := some 5, nacks := 1 })] } with regs := State.reset.regs.put (Reg.COH_MEMBER.base + 8 * 255) 0x3000000000000000 }

theorem test_met_EngineLineCaches :
    (∃ (die : BitVec 1) (ln : BitVec 34) (k : Nat) (s : State), k = elcKey die.toNat ln.toNat ∧ s.coh.evicting.find k =
      none ∧ s.coh.pend.find k = none ∧ s.coh.elc.find k = none) ∧
    (∃ (die : BitVec 1) (ln : BitVec 34) (k : Nat) (x : ElcLine) (s : State), k = elcKey die.toNat ln.toNat ∧
      s.coh.evicting.find k = none ∧ s.coh.pend.find k = none ∧ s.coh.elc.find k = some x) ∧
    (∃ (die : BitVec 1) (ln : BitVec 34) (l : Option Line) (s : State), s.coh.evicting.find (elcKey die.toNat ln.toNat) =
      some l) ∧
    (∃ (die : BitVec 1) (ln : BitVec 34) (k : Nat) (p : ElcPend) (s : State), k = elcKey die.toNat ln.toNat ∧
      s.coh.evicting.find k = none ∧ s.coh.pend.find k = some p) ∧
    (∃ (die : BitVec 1) (ln : BitVec 34) (k : Nat) (p : ElcPend) (x : ElcLine) (s : State), k = elcKey die.toNat ln.toNat ∧
      s.coh.evicting.find k = none ∧ s.coh.pend.find k = some p ∧ p.upg = true ∧ p.grant = none ∧ s.coh.elc.find k = some x) ∧
    (∃ (die : BitVec 1) (ln : BitVec 34) (k : Nat) (p : ElcPend) (s : State), k = elcKey die.toNat ln.toNat ∧
      s.coh.pend.find k = some p ∧ p.task = none ∧ p.held = none ∧ ElcRoom s die.toNat ln.toNat) ∧
    (∃ (die : BitVec 1) (ln : BitVec 34) (k : Nat) (p : ElcPend) (s : State) (x : _), k = elcKey die.toNat ln.toNat ∧
      s.coh.pend.find k = some p ∧ p.task = none ∧ p.held = none ∧ ElcRoom s die.toNat ln.toNat ∧ s.coh.elc.find k = some x) ∧
    (∃ (die : BitVec 1) (ln : BitVec 34) (k : Nat) (key : Nat) (p : ElcPend) (x : Task) (code : BitVec 4) (size8 : Bool)
      (off : BitVec 6) (operand : Word) (cmp : Word) (l : Line) (s : State), k = elcKey die.toNat ln.toNat ∧ s.coh.pend.find
      k = some p ∧ p.op = .atomic code size8 off operand cmp ∧ p.task = some key ∧ s.eng.tasks.find key = some x ∧ p.held =
      none ∧ l.poison = 0 ∧ ElcRoom s die.toNat ln.toNat) ∧
    (∃ (die : BitVec 1) (ln : BitVec 34) (k : Nat) (key : Nat) (p : ElcPend) (x : Task) (s : State), k = elcKey die.toNat
      ln.toNat ∧ s.coh.pend.find k = some p ∧ p.task = some key ∧ s.eng.tasks.find key = some x) ∧
    (∃ (die : BitVec 1) (ln : BitVec 34) (k : Nat), k = elcKey die.toNat ln.toNat) ∧
    (∃ (die : BitVec 1) (ln : BitVec 34) (k : Nat) (s : State), k = elcKey die.toNat ln.toNat ∧ s.coh.pend.find k = none) ∧
    (∃ (die : BitVec 1) (ln : BitVec 34) (k : Nat) (p : ElcPend) (s : State), k = elcKey die.toNat ln.toNat ∧
      s.coh.pend.find k = some p) ∧
    (∃ (t : Ltc) (enc : Bool) (owner : BitVec 13) (num : BitVec 48) (die : BitVec 1) (ln : BitVec 34) (p : ElcPend)
      (rt : BitVec 64) (s : State), num.toNat = elcKey die.toNat ln.toNat ∧ requestOf s (sourceId s) enc owner num = none ∧
      s.coh.pend.find num.toNat = some p ∧ p.op = .rdOwn ∧ p.retryAt = some rt ∧ rt.toNat ≤ now (adv t s) ∧ HomeFree
      (ownAid s die.toNat) ln.toNat s ∧ s.coh.dir.find ln.toNat = none) := by
  refine ⟨⟨1, 3, elcKey 1 3, State.reset, ?_⟩,
    ⟨1, 3, elcKey 1 3, { st := .m, line := ⟨5, 0, 0⟩ }, sEngineLineCaches1, ?_⟩,
    ⟨1, 3, some ⟨5, 0, 0⟩, homes { evicting := [(elcKey 1 3, some ⟨5, 0, 0⟩)] }, ?_⟩,
    ⟨1, 3, elcKey 1 3, { op := .rdShared }, homes { pend := [(elcKey 1 3, { op := .rdShared })] }, ?_⟩,
    ⟨1, 3, elcKey 1 3, { op := .rdOwn, upg := true }, { st := .m, line := ⟨5, 0, 0⟩ }, sEngineLineCaches6, ?_⟩,
    ⟨1, 3, elcKey 1 3, { op := .rdShared }, homes { pend := [(elcKey 1 3, { op := .rdShared })] }, ?_⟩,
    ⟨1, 3, elcKey 1 3, { op := .rdOwn, upg := true }, sEngineLineCaches9, { st := .s, line := ⟨5, 0, 0⟩ }, ?_⟩,
    ⟨1, 3, elcKey 1 3, 0, { op := .atomic 10 false 60 0x3F800000 0, task := some 0 }, { tk with st := .wait }, 10, false,
     60, 0x3F800000, 0, ⟨5, 0, 0⟩, sEngineLineCaches10, ?_⟩,
    ⟨1, 3, elcKey 1 3, 0, { op := .rdCur, task := some 0 }, { tk with st := .wait }, sEngineLineCaches11, ?_⟩,
    ⟨1, 3, elcKey 1 3, ?_⟩,
    ⟨1, 3, elcKey 1 3, sEngineLineCaches14, ?_⟩,
    ⟨1, 3, elcKey 1 3, { op := .rdCur, nacks := 6 }, sEngineLineCaches15, ?_⟩,
    ⟨10, false, 0, BitVec.ofNat 48 (elcKey 1 3), 1, 3, { op := .rdOwn, retryAt := some 5, nacks := 1 }, 5,
     sEngineLineCaches16, ?_⟩⟩ <;>
    (try simp only [HomeFree, LineIdle, all_iff, NoneWaiting, ElcRoom]) <;>
    and_intros <;> decide +kernel

def sReclaimOfDeadAgents4 : State :=
  homes { walks := [36, 37], dead := [36, 37], dir := [(2, ownedBy' 37), (3, ownedBy' 36), (5, sharedBy [36, 37])] }

theorem test_met_ReclaimOfDeadAgents :
    (∃ (aid : BitVec 14) (s : State), aid ∉ s.coh.walks ∧ (∀ e ∈ s.coh.htt, aid ∉ e.2.need ∧ aid ∉ e.2.wb) ∧ NoneWaiting s) ∧
    (∃ (aid : BitVec 14) (s : State), aid ∈ s.coh.walks ∧ NoneWaiting s) ∧
    (∃ (aid : BitVec 14) (s : State), aid ∉ s.coh.walks ∧ s.coh.dead.Nodup) ∧
    (∃ (a : BitVec 14) (rest : List (BitVec 14)) (s : State), s.coh.walks = a :: rest ∧ s.coh.dir.wf = true ∧ NoneWaiting s) := by
  refine ⟨⟨36, homes { dead := [37] }, ?_⟩,
    ⟨36, homes { walks := [36] }, ?_⟩,
    ⟨36, homes { dead := [36, 37] }, ?_⟩,
    ⟨36, [37], sReclaimOfDeadAgents4, ?_⟩⟩ <;>
    (try simp only [NoneWaiting, all_iff]) <;>
    and_intros <;> decide +kernel

def rRingsAndSlots0 : Ring := { entry := 0x40002000400000066, tenant := BitVec.ofNat 10 hT.tenant.toNat }
def sRingsAndSlots3 : State := { waiting hT with eng := { rings := [(3, { rg with inflight := 1 })] } }
def sRingsAndSlots5 : State := { State.reset with eng := { rings := [(3, { rg with written := 2 })] } }
def sRingsAndSlots14 : State :=
  { waiting hT with red := { slots := [(3, 5)], runs := [(3, ⟨1, 2, 0, 0, true, 1, 0, 0, 0, [], [], []⟩)] } }

theorem test_met_RingsAndSlots :
    (∃ (h : CmdHdr) (e : BitVec 512) (r : Ring) (n : Nat) (s : State), Suits h .tenant ∧ Waits s h ∧ r =
      { entry := e, tenant := BitVec.ofNat 10 h.tenant.toNat } ∧ bitsOf e.toNat 44 4 = 0 ∧ bitsOf e.toNat 76 436 = 0 ∧
      r.group ≠ 3 ∧ r.group < 5 ∧ freeRing s = some n ∧ ringEntryOk s h.tenant.toNat r = true) ∧
    (∃ (h : CmdHdr) (e : BitVec 512) (r : Ring) (n : Nat) (s : State), Suits h .tenant ∧ Waits s h ∧ r =
      { entry := e, tenant := BitVec.ofNat 10 h.tenant.toNat } ∧ bitsOf e.toNat 44 4 = 0 ∧ bitsOf e.toNat 76 436 = 0 ∧
      r.group ≠ 3 ∧ r.group < 5 ∧ freeRing s = some n ∧ ringEntryOk s h.tenant.toNat r = false) ∧
    (∃ (h : CmdHdr) (n : BitVec 16) (r : Ring) (s : State), Suits h .either ∧ Waits s h ∧ ringOf s n.toNat = some r ∧
      r.state ≠ 3 ∧ (h.tenant = 0xFFF ∨ h.tenant.toNat = r.tenant.toNat) ∧ r.held = [] ∧ queuedOf s n.toNat = [] ∧ tasksOf s
      n.toNat = [] ∧ r.inflight = 0) ∧
    (∃ (h : CmdHdr) (n : BitVec 16) (r : Ring) (s : State), Suits h .either ∧ Waits s h ∧ ringOf s n.toNat = some r ∧
      r.state ≠ 3 ∧ (h.tenant = 0xFFF ∨ h.tenant.toNat = r.tenant.toNat) ∧ r.held = [] ∧ queuedOf s n.toNat = [] ∧ tasksOf s
      n.toNat = [] ∧ r.inflight ≠ 0) ∧
    (∃ (ring : BitVec 12) (te : BitVec 10) (v : BitVec 32) (r : Ring) (s : State), doorbellRing s ring.toNat te.toNat =
      some r ∧ r.state = 1 ∧ (v - r.tail).toNat < 2 ^ 31 ∧ (v - r.head).toNat ≤ r.slots) ∧
    (∃ (ring : BitVec 12) (te : BitVec 10) (v : BitVec 32) (r : Ring) (s : State), doorbellRing s ring.toNat te.toNat =
      some r ∧ r.state = 1 ∧ (v - r.cqHead).toNat < 2 ^ 31 ∧ (v - r.cqHead).toNat ≤ r.unread) ∧
    (∃ (ring : BitVec 12) (te : BitVec 10) (v : BitVec 32) (r : Ring) (s : State), doorbellRing s ring.toNat te.toNat =
      some r ∧ r.state = 1 ∧ 2 ^ 31 ≤ (v - r.tail).toNat) ∧
    (∃ (ring : BitVec 12) (te : BitVec 10) (v : BitVec 32) (r : Ring) (s : State), doorbellRing s ring.toNat te.toNat =
      some r ∧ r.state = 1 ∧ (v - r.tail).toNat < 2 ^ 31 ∧ r.slots < (v - r.head).toNat) ∧
    (∃ (ring : BitVec 12) (te : BitVec 10) (v : BitVec 32) (r : Ring) (s : State), doorbellRing s ring.toNat te.toNat =
      some r ∧ r.state = 1 ∧ (v - r.cqHead).toNat < 2 ^ 31 ∧ r.unread < (v - r.cqHead).toNat) ∧
    (∃ (ring : BitVec 12) (te : BitVec 10) (s : State), doorbellRing s ring.toNat te.toNat = none) ∧
    (∃ (h : CmdHdr) (b : BitVec 512) (s : State), Suits h .platform ∧ Waits s h ∧ (dies s = 1 → b.toNat / 2 ^ 256 = 0) ∧
      (rd s Fld.PWR_STATUS_STATE = 2 → b.toNat ||| enableBits s = enableBits s) ∧ (∀ e ∈ s.eng.rings, e.2.held = [])) ∧
    (∃ (h : CmdHdr) (count : BitVec 32) (n : Nat) (s : State), Suits h .tenant ∧ Waits s h ∧ 1 ≤ count.toNat ∧ count.toNat
      ≤ 2048 ∧ s.red.slots.wf = true ∧ reserveRun s count.toNat = some n) ∧
    (∃ (h : CmdHdr) (s : State), Suits h .tenant ∧ Waits s h ∧ holdsArmed s h.tenant.toNat = false) ∧
    (∃ (h : CmdHdr) (s : State), Suits h .tenant ∧ Waits s h ∧ holdsArmed s h.tenant.toNat = true) := by
  refine ⟨⟨hT, 0x40002000400000066, rRingsAndSlots0, 0, ingots (waiting hT), ?_⟩,
    ⟨hT, 0x40002000400000066, rRingsAndSlots0, 0, waiting hT, ?_⟩,
    ⟨hT, 3, rg, { waiting hT with eng := { rings := [(3, rg)] } }, ?_⟩,
    ⟨hT, 3, { rg with inflight := 1 }, sRingsAndSlots3, ?_⟩,
    ⟨3, 5, 64, rg, { State.reset with eng := { rings := [(3, rg)] } }, ?_⟩,
    ⟨3, 5, 2, { rg with written := 2 }, sRingsAndSlots5, ?_⟩,
    ⟨3, 5, 0x80000000, rg, { State.reset with eng := { rings := [(3, rg)] } }, ?_⟩,
    ⟨3, 5, 65, rg, { State.reset with eng := { rings := [(3, rg)] } }, ?_⟩,
    ⟨3, 5, 3, { rg with written := 2 }, sRingsAndSlots5, ?_⟩,
    ⟨3, 6, { State.reset with eng := { rings := [(3, rg)] } }, ?_⟩,
    ⟨hP, 2 ^ 511, waiting hP, ?_⟩,
    ⟨hT, 2048, 0, waiting hT, ?_⟩,
    ⟨hT, { waiting hT with red := { slots := [(3, 5), (4, 6)] } }, ?_⟩,
    ⟨hT, sRingsAndSlots14, ?_⟩⟩ <;>
    (try simp only [Suits, Waits, any_iff, all_iff]) <;>
    and_intros <;> decide +kernel

def sDescriptorLife0 : State :=
  let s := engS 0 tk (List.range 16) [] [(0x40000000, 1)]
  { s with eng := { rings := [(3, { rg with tail := 9 })] } }
def rDescriptorLife1 : Ring := { rg with batches := [(0, [(1, 0)])], inflight := 1, head := 1, tail := 1 }
def sDescriptorLife1 : State :=
  let s := engS 0 tk [0, 1] [] [(0x40000000, 1)]
  { s with eng := { rings := [(1, { rg with batches := [(0, [(1, 0)])], inflight := 1, head := 1, tail := 1 })] } }
def sDescriptorLife2 : State :=
  { ingots State.reset with eng := { rings := [(1, { rg with entry := 0x40002000400000266, inflight := 1 })], runq := [(512, [{ qd with desc := 0x201 }])] } }
def sDescriptorLife3 : State :=
  { ingots State.reset with eng := { rings := [(1, { rg with entry := 0x40002000400000266, inflight := 1 })], runq := [(512, [{ qd with desc := 0x201, age := 3 }, { qd with desc := 0x201 }])] } }
def sDescriptorLife4 : State :=
  let s := engS 512 ({ tkD 0x201 with st := .done 0 7 }) [128] [] []
  { s with eng := { s.eng with rings := [(1, { rg with entry := 0x40002000400000266, inflight := 1 })] } }
def sDescriptorLife5 : State :=
  { ingots State.reset with eng := { rings := [(1, { rg with entry := 0x40002000400000266, inflight := 1 })], runq := [(512, [{ qd with desc := 0x10000000000000201 }])] } }
def sDescriptorLife6 : State :=
  { ingots State.reset with eng := { rings := [(1, { rg with entry := 0x40002000400000266, inflight := 1 })], runq := [(512, [{ qd with desc := 0x10000000000000201, reported := true }])] } }

theorem test_met_DescriptorLife :
    (∃ (die : BitVec 1) (cl : BitVec 3) (group : BitVec 3) (can : List (Nat × Ring)) (n : Nat) (k : Nat) (r : Ring)
      (s : State), rd s Fld.PWR_STATUS_STATE ≠ 2 ∧ can = s.eng.rings.filter
      (fun e => e.2.readyFor die.toNat cl.toNat group.toNat && ((placeCluster s e.2).bind fun c => pickEngine s die.toNat c group.toNat).isSome)
      ∧
      ((s.eng.served.find (fetchUnit die.toNat cl.toNat group.toNat) = none ∧ can.head? = some (n, r)) ∨ ∃ l, s.eng.served.find (fetchUnit die.toNat cl.toNat group.toNat) = some l ∧ (can.find? (fun e => decide (l < e.1)) = some (n, r) ∨ ((∀ e ∈ can, e.1 ≤ l) ∧ can.head? = some (n, r))))
      ∧ k = min 8 (min r.waiting r.room) ∧
      (∀ j, j < k → accessAllowed s r.tenant.toNat (r.slotAddr (r.head.toNat + j)) false = true) ∧
      (∀ j, j < k → ∀ i, i < 2 → HomeTakes s (r.slotAddr (r.head.toNat + j) / 64 + i) ∧ Plain s (r.slotAddr (r.head.toNat + j) / 64 + i))) ∧
    (∃ (t : Ltc) (ring : BitVec 12) (i : BitVec 32) (d : BitVec 1024)
      (rest : List (BitVec 32 × List (BitVec 1024 × BitVec 16))) (r : Ring) (q : QDesc) (s : State), ringOf s ring.toNat =
      some r ∧ r.state = 1 ∧ r.batches = (i, [(d, 0)]) :: rest ∧ q =
      { ring := ring, slot := i, desc := d, tenant := r.tenant, age := s.eng.age, fetchedAt := after (adv t s) 0 } ∧
      fetchCheck r q 0 = none ∧ descLate (adv t s) q = false) ∧
    (∃ (eng : Eng) (ctx : Nat) (q : QDesc) (r : Ring) (s : State), oldestOf (runqOf s eng.toNat) = some q ∧ ringOf s
      q.ring.toNat = some r ∧ r.state ≠ 3 ∧ engPresent s eng = true ∧ engEnabled s eng.die eng.cluster eng.group eng.unit =
      true ∧ couldBegin s eng.toNat eng.group q = true ∧ freeCtx s eng.toNat = some ctx ∧ eng.group ≠ 0) ∧
    (∃ (eng : Eng) (v : Nat) (q : QDesc) (s : State), engPresent s eng = true ∧ engEnabled s eng.die eng.cluster eng.group
      eng.unit = true ∧ runqOf s eng.toNat = [] ∧ stealFrom s eng = some (v, q)) ∧
    (∃ (eng : Eng) (ctx : BitVec 5) (k : Task) (r : Ring) (c : BitVec 8) (v : Word) (s : State), eng.group ≠ 0 ∧ taskOf s
      (taskKey eng.toNat ctx.toNat) = some k ∧ k.st = .done c v ∧ k.recorded = none ∧ k.chunk = none ∧ k.q.counter = false ∧
      k.q.tagged = false ∧ runOfTask s (taskKey eng.toNat ctx.toNat) = none ∧ ringOf s k.q.ring.toNat = some r ∧ r.state = 1
      ∧ HomeTakes s r.recordLine ∧ accessAllowed s r.tenant.toNat (r.recordAddr r.written.toNat) true = true ∧ Plain s
      (r.recordAddr r.written.toNat / 64)) ∧
    (∃ (t : Ltc) (ring : BitVec 12) (slot : BitVec 32) (q : QDesc) (stage : Nat) (s : State), findDesc s ring.toNat slot =
      some (q, stage) ∧ q.reported = false ∧ descLate (adv t s) q = true ∧ EventRoom s) ∧
    (∃ (t : Ltc) (ring : BitVec 12) (slot : BitVec 32) (q : QDesc) (stage : Nat) (s : State), findDesc s ring.toNat slot =
      some (q, stage) ∧ (q.reported = true ∨ descLate (adv t s) q = false)) := by
  refine ⟨⟨0, 0, 0, [(3, { rg with tail := 9 })], 3, 8, { rg with tail := 9 }, sDescriptorLife0, ?_⟩,
    ⟨20, 1, 0, 1, [], rDescriptorLife1, { qd with desc := 1, fetchedAt := 20 }, sDescriptorLife1, ?_⟩,
    ⟨512, 0, { qd with desc := 0x201 }, { rg with entry := 0x40002000400000266, inflight := 1 }, sDescriptorLife2, ?_⟩,
    ⟨528, 512, { qd with desc := 0x201 }, sDescriptorLife3, ?_⟩,
    ⟨512, 0, { tkD 0x201 with st := .done 0 7 }, { rg with entry := 0x40002000400000266, inflight := 1 }, 0, 7,
     sDescriptorLife4, ?_⟩,
    ⟨20, 1, 0, { qd with desc := 0x10000000000000201 }, 1, sDescriptorLife5, ?_⟩,
    ⟨20, 1, 0, { qd with desc := 0x10000000000000201, reported := true }, 1, sDescriptorLife6, ?_⟩⟩ <;>
    (try simp only [EventRoom, Plain, Readable, key_iff, NoGrants, HomeTakes, backoff_iff, all_iff, some_iff]) <;>
    and_intros <;> decide +kernel

def sDataMovers0 : State := engS 512 (tkD (0x201 + 128 * 2 ^ 384 + 128 * 2 ^ 448 + 7 * 2 ^ 512)) [] [] []
def sDataMovers1 : State :=
  engS 512 (tkD (0x202 + 128 * 2 ^ 320 + 128 * 2 ^ 384 + 128 * 2 ^ 448)) [0, 1] [] [(0x40000000, 1), (0x40000048, 5)]
def sDataMovers2 : State :=
  engS 512 (tkD (0x203 + 128 * 2 ^ 320 + 128 * 2 ^ 384 + 128 * 2 ^ 448)) [0, 1, 2, 3] [] [(0x40000000, 1), (0x40000048, 5), (0x40000080, 1)]
def kDataMovers3 : Task := tkD (0x204 + 2 ^ 651 + 2 ^ 649 + 128 * 2 ^ 320 + 128 * 2 ^ 384 + 128 * 2 ^ 448)
def sDataMovers3 : State :=
  engS 512 (tkD (0x204 + 2 ^ 651 + 2 ^ 649 + 128 * 2 ^ 320 + 128 * 2 ^ 384 + 128 * 2 ^ 448)) [0, 1, 2, 3] [] [(0x40000000, 1), (0x40000048, 5)]
def sDataMovers4 : State :=
  let s := engS 512 (tkD (0x205 + 64 * 2 ^ 256 + 5 * 2 ^ 512 + 2 ^ 644)) [] [] []
  { s with coh := { elc := [(elcKey 0 0x1000001, { st := .e, line := ⟨9, 0, 0⟩ })] } }
def sDataMovers5 : State := engS 512 (tkD (0x205 + 64 * 2 ^ 256 + 5 * 2 ^ 512 + 2 ^ 644)) [1] [] [(0x40000040, 3)]
def kDataMovers6 : Task := tkD (0x202 + 1 * 2 ^ 256 + 128 * 2 ^ 320 + 128 * 2 ^ 384 + 128 * 2 ^ 448)
def sDataMovers6 : State :=
  engS 512 (tkD (0x202 + 1 * 2 ^ 256 + 128 * 2 ^ 320 + 128 * 2 ^ 384 + 128 * 2 ^ 448)) [] [] []
def sDataMovers7 : State := engS 512 (tkD (0x202 + 128 * 2 ^ 320 + 128 * 2 ^ 384 + 192 * 2 ^ 448)) [] [] []

theorem test_met_DataMovers :
    (∃ (eng : Eng) (ctx : BitVec 5) (k : Task) (key : Nat) (n : Nat) (vb : Nat) (lb : Nat → Nat) (s : State), key = taskKey
      eng.toNat ctx.toNat ∧ readyTask s eng ctx.toNat 2 1 = some k ∧ turnOf s eng.toNat = some key ∧ k.prog = 0 ∧ k.sideA =
      none ∧ moverA k.q = ⟨0, false, 0⟩ ∧ moverB k.q = ⟨vb, false, 64 * n⟩ ∧ vb % 64 = 0 ∧ NoExactSamples s k.q.tenant.toNat
      ∧ NoLookAhead s eng k.q.tenant.toNat vb n ∧ (∀ i, i < n → CanWrite s eng k.q.tenant.toNat (vb + 64 * i) (lb i))) ∧
    (∃ (eng : Eng) (ctx : BitVec 5) (k : Task) (key : Nat) (n : Nat) (va : Nat) (vb : Nat) (la : Nat → Nat)
      (lb : Nat → Nat) (s : State), key = taskKey eng.toNat ctx.toNat ∧ readyTask s eng ctx.toNat 2 2 = some k ∧ turnOf s
      eng.toNat = some key ∧ k.prog = 0 ∧ k.sideA = none ∧ moverA k.q = ⟨va, false, 64 * n⟩ ∧ moverB k.q = ⟨vb, false, 64 *
      n⟩ ∧ va % 64 = 0 ∧ vb % 64 = 0 ∧ NoExactSamples s k.q.tenant.toNat ∧ NoLookAhead s eng k.q.tenant.toNat va n ∧
      NoLookAhead s eng k.q.tenant.toNat vb n ∧ (∀ i, i < n → CanRead s eng k.q.tenant.toNat (va + 64 * i) (la i)) ∧
      (∀ i, i < n → CanWrite s eng k.q.tenant.toNat (vb + 64 * i) (lb i)) ∧
      (∀ i j, i < n → j < n → la i / 64 ≠ lb j / 64 ∧ (i ≠ j → lb i / 64 ≠ lb j / 64))) ∧
    (∃ (eng : Eng) (ctx : BitVec 5) (k : Task) (key : Nat) (n : Nat) (va : Nat) (vb : Nat) (la : Nat → Nat)
      (lb : Nat → Nat) (s : State), key = taskKey eng.toNat ctx.toNat ∧ readyTask s eng ctx.toNat 2 3 = some k ∧ turnOf s
      eng.toNat = some key ∧ k.prog = 0 ∧ k.sideA = none ∧ moverA k.q = ⟨va, false, 64 * n⟩ ∧ moverB k.q = ⟨vb, false, 64 *
      n⟩ ∧ va % 64 = 0 ∧ vb % 64 = 0 ∧ NoExactSamples s k.q.tenant.toNat ∧ NoLookAhead s eng k.q.tenant.toNat va n ∧
      NoLookAhead s eng k.q.tenant.toNat vb n ∧ (∀ i, i < n → CanRead s eng k.q.tenant.toNat (va + 64 * i) (la i)) ∧
      (∀ i, i < n → CanRead s eng k.q.tenant.toNat (vb + 64 * i) (lb i))) ∧
    (∃ (eng : Eng) (ctx : BitVec 5) (k : Task) (key : Nat) (n : Nat) (va : Nat) (vb : Nat) (w : Nat) (la : Nat → Nat)
      (lb : Nat → Nat) (s : State), key = taskKey eng.toNat ctx.toNat ∧ readyTask s eng ctx.toNat 2 4 = some k ∧ turnOf s
      eng.toNat = some key ∧ k.prog = 0 ∧ k.sideA = none ∧ moverA k.q = ⟨va, false, 64 * n⟩ ∧ moverB k.q = ⟨vb, false, 64 *
      n⟩ ∧ va % 64 = 0 ∧ vb % 64 = 0 ∧ NoExactSamples s k.q.tenant.toNat ∧ NoLookAhead s eng k.q.tenant.toNat va n ∧
      NoLookAhead s eng k.q.tenant.toNat vb n ∧ (∀ i, i < n → CanRead s eng k.q.tenant.toNat (va + 64 * i) (la i)) ∧
      (∀ i, i < n → CanRead s eng k.q.tenant.toNat (vb + 64 * i) (lb i) ∧ CanWrite s eng k.q.tenant.toNat (vb + 64 * i) (lb i))
      ∧ (∀ i j, i < n → j < n → la i / 64 ≠ lb j / 64 ∧ (i ≠ j → lb i / 64 ≠ lb j / 64)) ∧ w = 512 / redWidth (mvRfmt k.q)) ∧
    (∃ (eng : Eng) (ctx : BitVec 5) (k : Task) (key : Nat) (va : Nat) (la : Nat) (w : Nat) (e : Nat) (s : State) (c : _),
      key = taskKey eng.toNat ctx.toNat ∧ readyTask s eng ctx.toNat 2 5 = some k ∧ turnOf s eng.toNat = some key ∧ va =
      (moverA k.q).addr ∧ w = (if mvAsize k.q then 64 else 32) ∧ va % (w / 8) = 0 ∧ L1Maps s eng k.q.tenant.toNat va la true
      ∧ NoExactSamples s k.q.tenant.toNat ∧ e = elcKey eng.die (la / 64) ∧ s.coh.elc.find e = some c ∧ c.st ≠ .s ∧ bitAt
      c.line.poison.toNat (la % 64 / 8) = false) ∧
    (∃ (eng : Eng) (ctx : BitVec 5) (k : Task) (key : Nat) (va : Nat) (la : Nat) (w : Nat) (e : Nat) (s : State), key =
      taskKey eng.toNat ctx.toNat ∧ readyTask s eng ctx.toNat 2 5 = some k ∧ turnOf s eng.toNat = some key ∧ va =
      (moverA k.q).addr ∧ w = (if mvAsize k.q then 64 else 32) ∧ va % (w / 8) = 0 ∧ L1Maps s eng k.q.tenant.toNat va la true
      ∧ NoExactSamples s k.q.tenant.toNat ∧ e = elcKey eng.die (la / 64) ∧ s.coh.elc.find e = none ∧ s.coh.pend.find e =
      none ∧ s.coh.evicting.find e = none ∧ lineBusy s (la / 64) = false ∧ homeFull s (la / 64) = false ∧ Plain s (la / 64)
      ∧ ElcRoom s eng.die (la / 64) ∧ (setMates s (la / 64)).length < 16) ∧
    (∃ (eng : Eng) (ctx : BitVec 5) (k : Task) (key : Nat) (va : Nat) (vb : Nat) (la : Nat) (lb : Nat) (s : State), key =
      taskKey eng.toNat ctx.toNat ∧ readyTask s eng ctx.toNat 2 2 = some k ∧ turnOf s eng.toNat = some key ∧ k.sideA = none
      ∧ moverA k.q = ⟨va, false, la⟩ ∧ moverB k.q = ⟨vb, false, lb⟩ ∧
      (va % 64 ≠ 0 ∨ la % 64 ≠ 0 ∨ vb % 64 ≠ 0 ∨ lb % 64 ≠ 0)) ∧
    (∃ (eng : Eng) (ctx : BitVec 5) (k : Task) (key : Nat) (va : Nat) (vb : Nat) (la : Nat) (lb : Nat) (s : State), key =
      taskKey eng.toNat ctx.toNat ∧ readyTask s eng ctx.toNat 2 2 = some k ∧ turnOf s eng.toNat = some key ∧ k.sideA = none
      ∧ moverA k.q = ⟨va, false, la⟩ ∧ moverB k.q = ⟨vb, false, lb⟩ ∧ va % 64 = 0 ∧ la % 64 = 0 ∧ vb % 64 = 0 ∧ lb % 64 = 0
      ∧ la ≠ lb) := by
  refine ⟨⟨512, 0, tkD (0x201 + 128 * 2 ^ 384 + 128 * 2 ^ 448 + 7 * 2 ^ 512), 16384, 2, 128, (fun i => 0x40000080 + 64 * i),
     sDataMovers0, ?_⟩,
    ⟨512, 0, tkD (0x202 + 128 * 2 ^ 320 + 128 * 2 ^ 384 + 128 * 2 ^ 448), 16384, 2, 0, 128, (fun i => 0x40000000 + 64 * i),
     (fun i => 0x40000080 + 64 * i), sDataMovers1, ?_⟩,
    ⟨512, 0, tkD (0x203 + 128 * 2 ^ 320 + 128 * 2 ^ 384 + 128 * 2 ^ 448), 16384, 2, 0, 128, (fun i => 0x40000000 + 64 * i),
     (fun i => 0x40000080 + 64 * i), sDataMovers2, ?_⟩,
    ⟨512, 0, kDataMovers3, 16384, 2, 0, 128, 16, (fun i => 0x40000000 + 64 * i), (fun i => 0x40000080 + 64 * i),
     sDataMovers3, ?_⟩,
    ⟨512, 0, tkD (0x205 + 64 * 2 ^ 256 + 5 * 2 ^ 512 + 2 ^ 644), 16384, 64, 0x40000040, 64, elcKey 0 0x1000001,
     sDataMovers4, { st := .e, line := ⟨9, 0, 0⟩ }, ?_⟩,
    ⟨512, 0, tkD (0x205 + 64 * 2 ^ 256 + 5 * 2 ^ 512 + 2 ^ 644), 16384, 64, 0x40000040, 64, elcKey 0 0x1000001,
     sDataMovers5, ?_⟩,
    ⟨512, 0, kDataMovers6, 16384, 1, 128, 128, 128, sDataMovers6, ?_⟩,
    ⟨512, 0, tkD (0x202 + 128 * 2 ^ 320 + 128 * 2 ^ 384 + 192 * 2 ^ 448), 16384, 0, 128, 128, 192, sDataMovers7, ?_⟩⟩ <;>
    (try simp only [NoExactSamples, Plain, Readable, key_iff, NoGrants, ElcRoom, NoLookAhead, some_all_iff, CanRead, L1Maps,
      some_iff, all_iff, HomeTakes, backoff_iff, CanWrite, swap_iff]) <;>
    and_intros <;> decide +kernel

def kGatherEngines0 : Task :=
  tkD (0x101 + 0x200000 * 2 ^ 256 + 128 * 2 ^ 448 + 2 ^ 576 + 2 ^ 584 + 4 * 2 ^ 608 + 2 ^ 640)
def sGatherEngines0 : State :=
  engS 256 (tkD (0x101 + 0x200000 * 2 ^ 256 + 128 * 2 ^ 448 + 2 ^ 576 + 2 ^ 584 + 4 * 2 ^ 608 + 2 ^ 640)) [0] [3] [(0x40000000, 3), (0x800000C0, 9)]
def sGatherEngines1 : State :=
  engS 256 (tkD (0x101 + 0x200000 * 2 ^ 256 + 128 * 2 ^ 448 + 2 ^ 576 + 2 ^ 584 + 4 * 2 ^ 608 + 2 ^ 640)) [0] [3] [(0x40000000, 4)]
def kGatherEngines2 : Task :=
  tkD (0x102 + 0x200000 * 2 ^ 256 + 64 * 2 ^ 320 + 128 * 2 ^ 448 + 2 ^ 576 + 2 ^ 584 + 4 * 2 ^ 608 + 2 ^ 640)
def sGatherEngines2 : State :=
  engS 256 (tkD (0x102 + 0x200000 * 2 ^ 256 + 64 * 2 ^ 320 + 128 * 2 ^ 448 + 2 ^ 576 + 2 ^ 584 + 4 * 2 ^ 608 + 2 ^ 640)) [0] [] [(0x40000000, 1)]
def sGatherEngines3 : State :=
  engS 256 (tkD (0x102 + 0x200000 * 2 ^ 256 + 64 * 2 ^ 320 + 128 * 2 ^ 448 + 2 ^ 576 + 2 ^ 584 + 4 * 2 ^ 608 + 2 ^ 640)) [0] [] [(0x40000004, 1), (0x40000005, 16)]
def kGatherEngines4 : Task :=
  { tkD (0x102 + 0x200000 * 2 ^ 256 + 64 * 2 ^ 320 + 128 * 2 ^ 448 + 2 ^ 576 + 2 ^ 584 + 4 * 2 ^ 608 + 2 ^ 640) with sideA := some [⟨0, 2⟩] }
def sGatherEngines4 : State :=
  engS 256 ({ tkD (0x102 + 0x200000 * 2 ^ 256 + 64 * 2 ^ 320 + 128 * 2 ^ 448 + 2 ^ 576 + 2 ^ 584 + 4 * 2 ^ 608 + 2 ^ 640) with sideA := some [⟨0, 2⟩] }) [0, 1] [0, 3] [(0x40000004, 2), (0x40000044, 3), (0x80000002, 0x80), (0x80000003, 0x3F), (0x800000C2, 0x80), (0x800000C3, 0x3F)]
def rowsGatherEngines4 : List (List Line) :=
  (List.range (2 : Nat)).map (fun i => (List.range (gaLines kGatherEngines4.q)).map fun j => lineOfBits (sGatherEngines4.mem.stack.lineBits (((fun i j => 0x80000000 + 192 * i + 64 * j) : Nat → Nat → Nat) i j / 64)) 0)

theorem test_met_GatherEngines :
    (∃ (eng : Eng) (ctx : BitVec 5) (k : Task) (key : Nat) (va : Nat) (li : Nat) (row : Nat) (s : State) (lt : Nat → Nat)
      (lo : Nat → Nat), key = taskKey eng.toNat ctx.toNat ∧ readyTask s eng ctx.toNat 1 1 = some k ∧ k.prog + 1 = gaCount
      k.q ∧ NoExactSamples s k.q.tenant.toNat ∧ va = gaIdx k.q + idxBytes k.q * k.prog ∧ va % 64 + idxBytes k.q ≤ 64 ∧
      CanRead s eng k.q.tenant.toNat va li ∧
      (k.sideA = none → CanTouchSpan s eng k.q.tenant.toNat (gaIdx k.q) (idxBytes k.q * gaCount k.q) false ∧ CanTouchSpan s eng k.q.tenant.toNat (gaOut k.q) (gaOutBytes k.q * gaCount k.q) true)
      ∧ row = s.mem.stack.num li (idxBytes k.q) ∧ row < gaRows k.q ∧
      (∀ j, j < gaLines k.q → CanRead s eng k.q.tenant.toNat (gaTable k.q + 64 * gaLines k.q * row + 64 * j) (lt j) ∧ ∃ u, ownerOf s (lt j) = .sharedRead u)
      ∧ (∀ j, j < gaLines k.q → CanWrite s eng k.q.tenant.toNat (gaOut k.q + 64 * gaLines k.q * k.prog + 64 * j) (lo j)) ∧
      (∀ i j, i < gaLines k.q → j < gaLines k.q → i ≠ j → lo i / 64 ≠ lo j / 64)) ∧
    (∃ (eng : Eng) (ctx : BitVec 5) (k : Task) (key : Nat) (va : Nat) (li : Nat) (row : Nat) (s : State), key = taskKey
      eng.toNat ctx.toNat ∧ readyTask s eng ctx.toNat 1 1 = some k ∧ k.prog + 1 = gaCount k.q ∧ NoExactSamples s
      k.q.tenant.toNat ∧ va = gaIdx k.q + idxBytes k.q * k.prog ∧ va % 64 + idxBytes k.q ≤ 64 ∧ CanRead s eng
      k.q.tenant.toNat va li ∧
      (k.sideA = none → CanTouchSpan s eng k.q.tenant.toNat (gaIdx k.q) (idxBytes k.q * gaCount k.q) false ∧ CanTouchSpan s eng k.q.tenant.toNat (gaOut k.q) (gaOutBytes k.q * gaCount k.q) true)
      ∧ row = s.mem.stack.num li (idxBytes k.q) ∧ gaRows k.q ≤ row) ∧
    (∃ (eng : Eng) (ctx : BitVec 5) (k : Task) (key : Nat) (n : Nat) (l : Nat → Nat) (bags : List (Nat × Nat)) (s : State),
      key = taskKey eng.toNat ctx.toNat ∧ readyTask s eng ctx.toNat 1 2 = some k ∧ k.sideA = none ∧ NoExactSamples s
      k.q.tenant.toNat ∧ n = gaCount k.q + 1 ∧ CanReadSpan s eng k.q.tenant.toNat (gaOffs k.q) (4 * n) l ∧ CanTouchSpan s
      eng k.q.tenant.toNat (gaOut k.q) (gaOutBytes k.q * gaCount k.q) true ∧ bags = bagsOf
      ((List.range n).map fun i => (spanAt s (gaOffs k.q) (spanLines (gaOffs k.q) (4 * n)) l).num (4 * i) 4) ∧
      (∀ b ∈ bags, bagOk b = true → CanTouchSpan s eng k.q.tenant.toNat (gaIdx k.q + idxBytes k.q * b.1) (idxBytes k.q * (b.2 - b.1)) false ∧ CanTouchSpan s eng k.q.tenant.toNat (gaWgt k.q + 4 * b.1) (if gaWgt k.q = 0 then 0 else 4 * (b.2 - b.1)) false)
      ∧ (∃ b ∈ bags, b.2 < b.1)) ∧
    (∃ (eng : Eng) (ctx : BitVec 5) (k : Task) (key : Nat) (n : Nat) (l : Nat → Nat) (bags : List (Nat × Nat)) (s : State),
      key = taskKey eng.toNat ctx.toNat ∧ readyTask s eng ctx.toNat 1 2 = some k ∧ k.sideA = none ∧ NoExactSamples s
      k.q.tenant.toNat ∧ n = gaCount k.q + 1 ∧ CanReadSpan s eng k.q.tenant.toNat (gaOffs k.q) (4 * n) l ∧ CanTouchSpan s
      eng k.q.tenant.toNat (gaOut k.q) (gaOutBytes k.q * gaCount k.q) true ∧ bags = bagsOf
      ((List.range n).map fun i => (spanAt s (gaOffs k.q) (spanLines (gaOffs k.q) (4 * n)) l).num (4 * i) 4) ∧
      (∀ b ∈ bags, bagOk b = true → CanTouchSpan s eng k.q.tenant.toNat (gaIdx k.q + idxBytes k.q * b.1) (idxBytes k.q * (b.2 - b.1)) false ∧ CanTouchSpan s eng k.q.tenant.toNat (gaWgt k.q + 4 * b.1) (if gaWgt k.q = 0 then 0 else 4 * (b.2 - b.1)) false)
      ∧ (∀ b ∈ bags, b.1 ≤ b.2) ∧ (∃ b ∈ bags, b.1 + 4096 < b.2)) ∧
    (∃ (eng : Eng) (ctx : BitVec 5) (k : Task) (key : Nat) (lo : Nat) (n : Nat) (m : Nat) (li : Nat) (lw : Nat)
      (bags : List Extent) (lt : Nat → Nat → Nat) (lq : Nat → Nat) (ws : List Nat) (rows : List (List Line)) (s : State),
      key = taskKey eng.toNat ctx.toNat ∧ readyTask s eng ctx.toNat 1 2 = some k ∧ k.prog + 1 = gaCount k.q ∧ NoExactSamples
      s k.q.tenant.toNat ∧ k.sideA = some bags ∧ bags.getD k.prog ⟨0, 0⟩ = ⟨lo, n⟩ ∧ m = gaOutBytes k.q / 64 ∧
      (n ≠ 0 → CanRead s eng k.q.tenant.toNat (gaIdx k.q + idxBytes k.q * lo) li ∧ (gaIdx k.q + idxBytes k.q * lo) % 64 + idxBytes k.q * n ≤ 64)
      ∧
      (n ≠ 0 → gaWgt k.q ≠ 0 → CanRead s eng k.q.tenant.toNat (gaWgt k.q + 4 * lo) lw ∧ (gaWgt k.q + 4 * lo) % 64 + 4 * n ≤ 64)
      ∧
      (∀ i, i < n → s.mem.stack.num (li + idxBytes k.q * i) (idxBytes k.q) < gaRows k.q ∧ ∀ j, j < gaLines k.q → (∃ u, ownerOf s (lt i j) = .sharedRead u) ∧ CanRead s eng k.q.tenant.toNat (gaTable k.q + 64 * gaLines k.q * s.mem.stack.num (li + idxBytes k.q * i) (idxBytes k.q) + 64 * j) (lt i j))
      ∧ (∀ j, j < m → CanWrite s eng k.q.tenant.toNat (gaOut k.q + gaOutBytes k.q * k.prog + 64 * j) (lq j)) ∧
      (∀ i j, i < m → j < m → i ≠ j → lq i / 64 ≠ lq j / 64) ∧ ws =
      (if gaWgt k.q = 0 then List.replicate n 0x3F800000 else (List.range n).map fun i => s.mem.stack.num (lw + 4 * i) 4) ∧
      rows = (List.range n).map
      (fun i => (List.range (gaLines k.q)).map fun j => lineOfBits (s.mem.stack.lineBits (lt i j / 64)) 0)) := by
  refine ⟨⟨256, 0, kGatherEngines0, 8192, 0, 0x40000000, 3, sGatherEngines0, (fun j => 0x800000C0 + 64 * j),
     (fun j => 0x40000080 + 64 * j), ?_⟩,
    ⟨256, 0, kGatherEngines0, 8192, 0, 0x40000000, 4, sGatherEngines1, ?_⟩,
    ⟨256, 0, kGatherEngines2, 8192, 2, (fun i => 0x40000000 + 64 * i), [(1, 0)], sGatherEngines2, ?_⟩,
    ⟨256, 0, kGatherEngines2, 8192, 2, (fun i => 0x40000000 + 64 * i), [(0, 4097)], sGatherEngines3, ?_⟩,
    ⟨256, 0, kGatherEngines4, 8192, 0, 2, 1, 0x40000040, 0, [⟨0, 2⟩], (fun i j => 0x80000000 + 192 * i + 64 * j),
     (fun j => 0x40000080 + 64 * j), [0x3F800000, 0x3F800000], rowsGatherEngines4, sGatherEngines4, ?_⟩⟩ <;>
    (try simp only [NoExactSamples, touch_iff, CanRead, L1Maps, some_iff, all_iff, Plain, Readable, key_iff, NoGrants,
      HomeTakes, backoff_iff, CanWrite, CanReadSpan, from_one_iff, any_iff, swap_iff, shared_iff]) <;>
    and_intros <;> decide +kernel

def cSequenceContexts0 : SeqCtx := { tenant := 5, va := 0, desc := BitVec.ofNat 8192 (seqDesc) }
def sSequenceContexts0 : State :=
  let s := tables 0x4000000007 (waiting hT)
  { s with mem := { s.mem with stack := { (s.mem.stack.putNum 0x40000000 1024 (seqDesc)) with tags := s.mem.stack.tags ++ (List.range 16).map fun i => (0x1000000 + i, 4) } } }
def sSequenceContexts1 : State :=
  let s := tables 0x4000000007 (waiting hT)
  { s with mem := { s.mem with stack := { (s.mem.stack.putNum 0x40000000 1024 (0x77)) with tags := s.mem.stack.tags ++ (List.range 16).map fun i => (0x1000000 + i, 4) } } }
def cSequenceContexts2 : SeqCtx :=
  { tenant := 5, va := 0, desc := BitVec.ofNat 8192 ((seqDesc + 7 * 2 ^ 256 + 9 * 2 ^ 512)) }
def sSequenceContexts2 : State :=
  let s := tables 0x4000000007 (waiting hT)
  { s with mem := { s.mem with stack := { (s.mem.stack.putNum 0x40000000 1024 (seqDesc)) with tags := s.mem.stack.tags ++ (List.range 16).map fun i => (0x1000000 + i, 4) } }, cru := { ctxs := [(3, { tenant := 5, va := 0, desc := BitVec.ofNat 8192 ((seqDesc + 7 * 2 ^ 256 + 9 * 2 ^ 512)) }), (4, { tenant := 5, va := 0, desc := BitVec.ofNat 8192 (seqDesc) })] } }
def cSequenceContexts3 : SeqCtx := { tenant := 5, va := 0, desc := BitVec.ofNat 8192 (seqDesc), locks := [(0, 7)] }
def sSequenceContexts3 : State :=
  { waiting hT with cru := { ctxs := [(3, { tenant := 5, va := 0, desc := BitVec.ofNat 8192 (seqDesc), locks := [(0, 7)] })] } }
def sSequenceContexts4 : State :=
  { withTask ({ tk with st := .lock 3 0, order := 2 }) State.reset with cru := { ctxs := [(3, { tenant := 5, va := 0, desc := BitVec.ofNat 8192 (seqDesc) })] } }
def kSequenceContexts5 : Task := { tkD (2 + 3 * 2 ^ 256 + 2 ^ 352 + 128 * 2 ^ 448) with prog := 2 ^ 32 + 1 }
def sSequenceContexts5 : State :=
  let s := engS 0 ({ tkD (2 + 3 * 2 ^ 256 + 2 ^ 352 + 128 * 2 ^ 448) with prog := 2 ^ 32 + 1 }) [0, 96, 97] [] [(0x40000001, 0x10), (0x40000007, 0x80)]
  { s with cru := { ctxs := [(3, { tenant := 5, va := 0, desc := BitVec.ofNat 8192 (seqDesc) })], areas := [(0, { news := [dataLine 1, dataLine 2, dataLine 3, dataLine 4] })] } }
def cSequenceContexts6 : SeqCtx :=
  { tenant := 5, va := 0, desc := BitVec.ofNat 8192 (seqDesc + 16 * 2 ^ 512 + 128 * 2 ^ 4096) }
def sSequenceContexts6 : State :=
  let s := engS 0 (tkD (3 + 3 * 2 ^ 256 + 2 ^ 352)) ([0, 2] ++ (List.range 32).map (· + 64)) [] [(0x40000001, 0x10), (0x40000007, 0x80), (0x40001000, 0x80), (0x40001001, 0x3F), (0x40001002, 0x80), (0x40001003, 0x40)]
  { s with cru := { ctxs := [(3, { tenant := 5, va := 0, desc := BitVec.ofNat 8192 (seqDesc + 16 * 2 ^ 512 + 128 * 2 ^ 4096) })] } }

theorem test_met_SequenceContexts :
    (∃ (h : CmdHdr) (n : BitVec 16) (va : Word) (la : Nat) (c : SeqCtx) (s : State), Suits h .tenant ∧ Waits s h ∧ n.toNat
      < ctxCount s ∧ ctxOf s n.toNat = none ∧ va.toNat % 1024 = 0 ∧ (plainPage h.tenant.toNat va.toNat s).1 = some la ∧ la %
      1024 = 0 ∧ (∀ i, i < 16 → Plain s (la / 64 + i)) ∧ c =
      { tenant := BitVec.ofNat 10 h.tenant.toNat, va := va, desc := BitVec.ofNat 8192 (s.mem.stack.num la 1024) } ∧
      seqDescOk c = true) ∧
    (∃ (h : CmdHdr) (n : BitVec 16) (va : Word) (la : Nat) (c : SeqCtx) (s : State), Suits h .tenant ∧ Waits s h ∧ n.toNat
      < ctxCount s ∧ ctxOf s n.toNat = none ∧ va.toNat % 1024 = 0 ∧ (plainPage h.tenant.toNat va.toNat s).1 = some la ∧ la %
      1024 = 0 ∧ (∀ i, i < 16 → Plain s (la / 64 + i)) ∧ c =
      { tenant := BitVec.ofNat 10 h.tenant.toNat, va := va, desc := BitVec.ofNat 8192 (s.mem.stack.num la 1024) } ∧
      seqDescOk c = false) ∧
    (∃ (h : CmdHdr) (n : BitVec 16) (la : Nat) (c : SeqCtx) (s : State), Suits h .tenant ∧ Waits s h ∧ ctxOf s n.toNat =
      some c ∧ c.tenant.toNat = h.tenant.toNat ∧ c.releasing = none ∧ (∀ k ∈ s.eng.tasks, waitsLock n.toNat k.2 = false) ∧
      c.locks = [] ∧ c.lost = false ∧ (plainPage c.tenant.toNat c.va.toNat s).1 = some la ∧ la % 1024 = 0 ∧
      (∀ i, i < 5 → Plain s (la / 64 + i) ∧ HomeTakes s (la / 64 + i))) ∧
    (∃ (h : CmdHdr) (n : BitVec 16) (c : SeqCtx) (s : State), Suits h .tenant ∧ Waits s h ∧ ctxOf s n.toNat = some c ∧
      c.tenant.toNat = h.tenant.toNat ∧ c.releasing = none ∧ (∀ k ∈ s.eng.tasks, waitsLock n.toNat k.2 = false) ∧ c.locks ≠
      []) ∧
    (∃ (n : BitVec 11) (layer : BitVec 6) (c : SeqCtx) (key : Nat) (k : Task) (s : State), s.eng.tasks.wf = true ∧ ctxOf s
      n.toNat = some c ∧ c.locks.find layer.toNat = none ∧ firstMin (fun e => e.2.order)
      (s.eng.tasks.keep fun _ x => x.st = .lock n.toNat layer.toNat) = some (key, k)) ∧
    (∃ (eng : Eng) (ctx : BitVec 5) (k : Task) (c : SeqCtx) (key : Nat) (le : Nat) (e : Nat) (tok : Nat) (at_ : Nat)
      (l : Nat → Nat) (news : Span) (s : State), key = taskKey eng.toNat ctx.toNat ∧ tileTask s eng ctx.toNat 2 = some
      (k, c) ∧ k.stage = 1 ∧ k.index + 1 = appendWrites c (cbTokens k.q) ∧ filledBlocks (cbPos k.q) (cbTokens k.q) = [] ∧
      cbLayer k.q < 64 ∧ NoExactSamples s k.q.tenant.toNat ∧ tok = cbPos k.q + (appendWrite c k.index).1 ∧ CanRead s eng
      k.q.tenant.toNat (entryVa c (cbLayer k.q) (tok / 16)) le ∧ le % 64 ≤ 56 ∧ e = s.mem.stack.num le 8 ∧ goodEntry c e ∧
      at_ = bitsOf e 0 57 + (appendWrite c k.index).2.1 * c.headBytes + 16 * (appendWrite c k.index).2.2 * c.rowBytes + tok
      % 16 * c.rowBytes ∧
      (∀ i, i < spanLines at_ c.rowBytes → l i % 64 = 0 ∧ Plain s (l i / 64) ∧ CanWrite s eng k.q.tenant.toNat (if i = 0 then at_ else alignDown at_ 64 + 64 * i) (if i = 0 then l 0 + at_ % 64 else l i))
      ∧ (∀ i j, i < spanLines at_ c.rowBytes → j < spanLines at_ c.rowBytes → i ≠ j → l i ≠ l j) ∧ news = newsSpan k.q
      (areaOf s key) ∧ news.poison = 0) ∧
    (∃ (eng : Eng) (ctx : BitVec 5) (k : Task) (c : SeqCtx) (key : Nat) (n : Nat) (b : Nat) (h : Nat) (le : Nat) (e : Nat)
      (base : Nat) (ls : Nat) (l : Nat → Nat) (sk : Nat × Nat) (s : State), key = taskKey eng.toNat ctx.toNat ∧ tileTask s
      eng ctx.toNat 3 = some (k, c) ∧ n = min (cbCount k.q) (c.fill (cbLayer k.q) / 16 - cbPos k.q) ∧ k.prog < 2 ^ 32 ∧
      k.prog + 1 = n * c.heads ∧ b = cbPos k.q + k.prog / c.heads ∧ h = k.prog % c.heads ∧ NoExactSamples s k.q.tenant.toNat
      ∧ 1 ≤ c.rowBytes ∧ CanRead s eng k.q.tenant.toNat (entryVa c (cbLayer k.q) b) le ∧ le % 64 ≤ 56 ∧ e = s.mem.stack.num
      le 8 ∧ goodEntry c e ∧ base = bitsOf e 0 57 + (if c.latent then 0 else h * c.headBytes) ∧ CanReadSpan s eng
      k.q.tenant.toNat base (16 * c.rowBytes) l ∧ sk = sketchOf c (cbLayer k.q) h
      ((List.range 16).map fun r => (spanAt s base (spanLines base (16 * c.rowBytes)) l).row c.kv (r * c.rowBytes) c.dim) ∧
      CanWrite s eng k.q.tenant.toNat (sketchVa c (cbLayer k.q) b h) ls ∧ Plain s (ls / 64) ∧ ls % 64 ≤ 48) := by
  refine ⟨⟨hT, 3, 0, 0x40000000, cSequenceContexts0, sSequenceContexts0, ?_⟩,
    ⟨hT, 3, 0, 0x40000000, { tenant := 5, va := 0, desc := BitVec.ofNat 8192 (0x77) }, sSequenceContexts1, ?_⟩,
    ⟨hT, 3, 0x40000000, cSequenceContexts2, sSequenceContexts2, ?_⟩,
    ⟨hT, 3, cSequenceContexts3, sSequenceContexts3, ?_⟩,
    ⟨3, 0, cSequenceContexts0, 0, { tk with st := .lock 3 0, order := 2 }, sSequenceContexts4, ?_⟩,
    ⟨0, 0, kSequenceContexts5, cSequenceContexts0, 0, 0x40000000, 2 ^ 63 + 0x1000, 0, 0x1800,
     (fun i => 0x40001800 + 64 * i), spanOf 128 [dataLine 1, dataLine 2, dataLine 3, dataLine 4], sSequenceContexts5, ?_⟩,
    ⟨0, 0, tkD (3 + 3 * 2 ^ 256 + 2 ^ 352), cSequenceContexts6, 0, 1, 0, 0, 0x40000000, 2 ^ 63 + 0x1000, 0x1000,
     0x40000080, (fun i => 0x40001000 + 64 * i), sketchOf cSequenceContexts6
     (cbLayer (tkD (3 + 3 * 2 ^ 256 + 2 ^ 352) : Task).q) (0 : Nat)
     ((List.range 16).map fun r => (spanAt sSequenceContexts6 (0x1000 : Nat) (spanLines (0x1000 : Nat) (16 * cSequenceContexts6.rowBytes)) ((fun i => 0x40001000 + 64 * i) : Nat → Nat)).row cSequenceContexts6.kv (r * cSequenceContexts6.rowBytes) cSequenceContexts6.dim),
     sSequenceContexts6, ?_⟩⟩ <;>
    (try simp only [Suits, Waits, any_iff, NoExactSamples, Plain, Readable, key_iff, NoGrants, HomeTakes, backoff_iff,
      CanRead, L1Maps, some_iff, all_iff, CanWrite, CanReadSpan, from_one_iff, goodEntry, swap_iff]) <;>
    and_intros <;> decide +kernel

def kAttentionAndMatmul0 : Task := { tkD (1 + 3 * 2 ^ 256 + 2 ^ 288 + 16 * 2 ^ 312) with prog := 4 * 2 ^ 32 }
def sAttentionAndMatmul0 : State :=
  let s := engS 0 ({ tkD (1 + 3 * 2 ^ 256 + 2 ^ 288 + 16 * 2 ^ 312) with prog := 4 * 2 ^ 32 }) [0] [] [(0x40000001, 0x10), (0x40000007, 0x80)]
  { s with cru := { ctxs := [(3, { tenant := 5, va := 0, desc := BitVec.ofNat 8192 (seqDesc) })], areas := [(0, { attended := [[0]] })] } }
def kAttentionAndMatmul1 : Task :=
  tkD (4 + 2 ^ 448 + 4 * 2 ^ 456 + 4 * 2 ^ 460 + 32 * 2 ^ 480 + 32 * 2 ^ 512 + 16 * 2 ^ 544)
def sAttentionAndMatmul1 : State :=
  engS 0 (tkD (4 + 2 ^ 448 + 4 * 2 ^ 456 + 4 * 2 ^ 460 + 32 * 2 ^ 480 + 32 * 2 ^ 512 + 16 * 2 ^ 544)) [0] [] [(0x40000001, 0x3F)]
def pAttentionAndMatmul2 : Task := { tkD (1 + 3 * 2 ^ 256 + 2 ^ 288 + 16 * 2 ^ 312) with st := .wait, prog := 5 * 2 ^ 32 }
def sAttentionAndMatmul2 : State :=
  let s := engS 0 tk ((List.range 64).map (· + 64)) [] [(0x40001001, 0x3F), (0x40001800, 0x80), (0x40001801, 0x3F)]
  { s with eng := { s.eng with tasks := [(32, { tkD (1 + 3 * 2 ^ 256 + 2 ^ 288 + 16 * 2 ^ 312) with st := .wait, prog := 5 * 2 ^ 32 })] }, cru := { ctxs := [(3, { tenant := 5, va := 0, desc := BitVec.ofNat 8192 (seqDesc) })], chunkq := [(0, [{ parent := 32, blocks := [(0, 0x1000)] }])], areas := [(32, { chunks := 1, left := 1 })] } }
def pAttentionAndMatmul3 : Partial :=
  { parent := 0, unit := 1, head := 0, rows := [⟨0x3F800000, 0x3F800000, List.replicate 64 5, false⟩], poison := true }
def sAttentionAndMatmul3 : State :=
  let s := engS 0 ({ tkD (1 + 3 * 2 ^ 256 + 2 ^ 288 + 16 * 2 ^ 312) with st := .wait, prog := 5 * 2 ^ 32 }) [] [] []
  { s with cru := { ctxs := [(3, { tenant := 5, va := 0, desc := BitVec.ofNat 8192 (seqDesc) })], partials := [{ parent := 0, unit := 1, head := 0, rows := [⟨0x3F800000, 0x3F800000, List.replicate 64 5, false⟩], poison := true }], areas := [(0, { chunks := 2, left := 2, rows := [emptyRow ({ tenant := 5, va := 0, desc := BitVec.ofNat 8192 (seqDesc) })] })] } }

theorem test_met_AttentionAndMatmul :
    (∃ (eng : Eng) (ctx : BitVec 5) (k : Task) (c : SeqCtx) (key : Nat) (le : Nat → Nat) (s : State), key = taskKey
      eng.toNat ctx.toNat ∧ tileTask s eng ctx.toNat 1 = some (k, c) ∧ k.stage = 4 ∧ NoExactSamples s k.q.tenant.toNat ∧
      OnlyPoster key s ∧
      (∀ b ∈ blocksNeeded (areaOf s key), CanRead s eng k.q.tenant.toNat (entryVa c (cbLayer k.q) b) (le b) ∧ le b % 64 ≤ 56 ∧ goodEntry c (s.mem.stack.num (le b) 8))) ∧
    (∃ (eng : Eng) (ctx : BitVec 5) (k : Task) (key : Nat) (l : Nat → Nat) (s : State), key = taskKey eng.toNat ctx.toNat ∧
      readyTask s eng ctx.toNat 0 4 = some k ∧ NoExactSamples s k.q.tenant.toNat ∧ OnlyPoster key s ∧ mmA k.q % 64 = 0 ∧
      (∀ i, i < matmulArea k.q / 64 → CanRead s eng k.q.tenant.toNat (mmA k.q + 64 * i) (l i))) ∧
    (∃ (eng : Eng) (ctx : Nat) (k : Chunk) (rest : List Chunk) (p : Task) (c : SeqCtx) (l : Nat → Nat → Nat) (s : State),
      eng.group = 0 ∧ tileAsleep s eng = false ∧ engPresent s eng = true ∧ engEnabled s eng.die eng.cluster 0 eng.unit =
      true ∧ chunkTasks s eng.toNat = [] ∧ freeCtx s eng.toNat = some ctx ∧ (∀ e ∈ s.cru.areas, e.2.own = []) ∧ chunkqOf s
      eng.cl = k :: rest ∧ taskOf s k.parent = some p ∧ mayServe s eng.die eng.cluster 0 p.q.tenant.toNat = true ∧ p.q.op =
      1 ∧ ctxOf s (cbCtx p.q) = some c ∧ 1 ≤ c.headBytes ∧ NoExactSamples s p.q.tenant.toNat ∧
      (∀ i b va, k.blocks[i]? = some (b, va) → CanReadSpan s eng p.q.tenant.toNat (va + if c.latent then 0 else k.head * c.headBytes) c.headBytes (l i))) ∧
    (∃ (eng : Eng) (ctx : BitVec 5) (k : Task) (c : SeqCtx) (key : Nat) (p : Partial) (s : State), key = taskKey eng.toNat
      ctx.toNat ∧ eng.group = 0 ∧ taskOf s key = some k ∧ ctxOf s (cbCtx k.q) = some c ∧ k.chunk = none ∧ k.recorded = none
      ∧ k.q.op = 1 ∧ 5 ≤ k.stage ∧ k.st = .wait ∧ (s.cru.partials.find? fun y => y.parent = key) = some p ∧ 1 <
      (areaOf s key).left) := by
  refine ⟨⟨0, 0, kAttentionAndMatmul0, cSequenceContexts0, 0, (fun _ => 0x40000000), sAttentionAndMatmul0, ?_⟩,
    ⟨0, 0, kAttentionAndMatmul1, 0, (fun i => 0x40000000 + 64 * i), sAttentionAndMatmul1, ?_⟩,
    ⟨0, 0, { parent := 32, blocks := [(0, 0x1000)] }, [], pAttentionAndMatmul2, cSequenceContexts0,
     (fun i j => 0x40001000 + 64 * j), sAttentionAndMatmul2, ?_⟩,
    ⟨0, 0, pAttentionAndMatmul2, cSequenceContexts0, 0, pAttentionAndMatmul3, sAttentionAndMatmul3, ?_⟩⟩ <;>
    (try simp only [NoExactSamples, CanRead, L1Maps, some_iff, all_iff, Plain, Readable, key_iff, NoGrants, HomeTakes,
      backoff_iff, CanReadSpan, from_one_iff, OnlyPoster, goodEntry, blocks_iff, List.zipIdx_cons,
      List.zipIdx_nil, List.forall_mem_cons, List.not_mem_nil, false_implies, implies_true]) <;>
    and_intros <;> decide +kernel

def kReduceRuns0 : Task := tkD (0x401 + 5 * 2 ^ 256 + 2 * 2 ^ 272 + 2 * 2 ^ 280 + 10 * 2 ^ 304 + 1024 * 2 ^ 352)
def sReduceRuns0 : State :=
  { engS 1024 (tkD (0x401 + 5 * 2 ^ 256 + 2 * 2 ^ 272 + 2 * 2 ^ 280 + 10 * 2 ^ 304 + 1024 * 2 ^ 352)) [] [] [] with red := { slots := [(5, 5), (6, 5)] } }
def sReduceRuns1 : State :=
  { engS 1024 (tkD (0x401 + 5 * 2 ^ 256 + 2 * 2 ^ 272 + 2 * 2 ^ 280 + 10 * 2 ^ 304 + 1024 * 2 ^ 352)) [] [] [] with red := { slots := [(5, 5), (6, 4)] } }
def cReduceRuns2 : Cell := checked ({ cellE with cls := 5, addr := 0x1005, payload := 0x3F800000 })
def rReduceRuns2 : RedRun :=
  { nslots := 1, contrib := 2, fmt := 0, fn := 0, loc := false, elems := 128, task := 32768, armed := 5, limitUs := 1 }
def sReduceRuns2 : State :=
  { serves { base := 100 } with red := { slots := [(5, 5)], runs := [(5, { nslots := 1, contrib := 2, fmt := 0, fn := 0, loc := false, elems := 128, task := 32768, armed := 5, limitUs := 1 })] } }
def pReduceRuns2 : Cell :=
  plain (adv (20 : Ltc) sReduceRuns2) (requestNonce (adv (20 : Ltc) sReduceRuns2) cReduceRuns2) cReduceRuns2
def rReduceRuns3 : RedRun :=
  { nslots := 1, contrib := 2, fmt := 0, fn := 0, loc := false, elems := 128, task := 32768, armed := 5, limitUs := 1, bits := [(128, true)] }
def sReduceRuns3 : State :=
  { serves { base := 100 } with red := { slots := [(5, 5)], runs := [(5, { nslots := 1, contrib := 2, fmt := 0, fn := 0, loc := false, elems := 128, task := 32768, armed := 5, limitUs := 1, bits := [(128, true)] })] } }
def pReduceRuns3 : Cell :=
  plain (adv (20 : Ltc) sReduceRuns3) (requestNonce (adv (20 : Ltc) sReduceRuns3) cReduceRuns2) cReduceRuns2
def cReduceRuns4 : Cell :=
  checked { ({ cellE with cls := 5, addr := 0x1005, payload := 0x3F800000 } : Cell) with addr := 6 }
def pReduceRuns4 : Cell :=
  plain (adv (20 : Ltc) sReduceRuns2) (requestNonce (adv (20 : Ltc) sReduceRuns2) cReduceRuns4) cReduceRuns4
def sReduceRuns5 : State := { serves { base := 100 } with red := { slots := [(5, 5)], runs := [] } }
def pReduceRuns5 : Cell :=
  plain (adv (20 : Ltc) sReduceRuns5) (requestNonce (adv (20 : Ltc) sReduceRuns5) cReduceRuns2) cReduceRuns2
def kReduceRuns6 : Task :=
  { tkD (0x401 + 5 * 2 ^ 256 + 2 * 2 ^ 272 + 2 * 2 ^ 280 + 10 * 2 ^ 304 + 1024 * 2 ^ 352) with st := .wait }
def sReduceRuns6 : State :=
  { engS 1024 ({ tkD (0x401 + 5 * 2 ^ 256 + 2 * 2 ^ 272 + 2 * 2 ^ 280 + 10 * 2 ^ 304 + 1024 * 2 ^ 352) with st := .wait }) [] [] [] with red := { slots := [(5, 5)], runs := [(5, { nslots := 1, contrib := 2, fmt := 0, fn := 0, loc := false, elems := 128, task := 32768, armed := 5, limitUs := 1, bits := [(128, true)] })] } }

theorem test_met_ReduceRuns :
    (∃ (eng : Eng) (ctx : BitVec 5) (k : Task) (r : Ring) (key : Nat) (s : State), key = taskKey eng.toNat ctx.toNat ∧
      readyTask s eng ctx.toNat 4 1 = some k ∧ ringOf s k.q.ring.toNat = some r ∧ runOfTask s key = none ∧ raLocal k.q =
      false ∧ slotsCheck s k.q r.die = none) ∧
    (∃ (eng : Eng) (ctx : BitVec 5) (k : Task) (r : Ring) (key : Nat) (s : State) (c : _), key = taskKey eng.toNat
      ctx.toNat ∧ readyTask s eng ctx.toNat 4 1 = some k ∧ ringOf s k.q.ring.toNat = some r ∧ runOfTask s key = none ∧
      raLocal k.q = false ∧ slotsCheck s k.q r.die = some c) ∧
    (∃ (t : Ltc) (port : BitVec 4) (c : Cell) (p : Cell) (e : Stream) (n : Nat) (slot : Nat) (co : Nat) (i : Nat)
      (te : Nat) (r : RedRun) (s : State), NewRequest t port c p 5 1 e n s ∧ slot = bitsOf p.addr.toNat 0 12 ∧ co = bitsOf
      p.addr.toNat 12 8 ∧ i = bitsOf p.addr.toNat 20 7 ∧ te = cellTenant s p ∧ slotTenant s slot = some te ∧ runAt s slot =
      some (slot, r) ∧ co < r.contrib ∧ (co = 0 → r.loc = false) ∧ i < r.cells ∧ r.has co i = false) ∧
    (∃ (t : Ltc) (port : BitVec 4) (c : Cell) (p : Cell) (e : Stream) (n : Nat) (slot : Nat) (co : Nat) (i : Nat)
      (te : Nat) (r : RedRun) (s : State), NewRequest t port c p 5 1 e n s ∧ slot = bitsOf p.addr.toNat 0 12 ∧ co = bitsOf
      p.addr.toNat 12 8 ∧ i = bitsOf p.addr.toNat 20 7 ∧ te = cellTenant s p ∧ slotTenant s slot = some te ∧ runAt s slot =
      some (slot, r) ∧ co < r.contrib ∧ (co = 0 → r.loc = false) ∧ i < r.cells ∧ r.has co i = true) ∧
    (∃ (t : Ltc) (port : BitVec 4) (c : Cell) (p : Cell) (e : Stream) (n : Nat) (slot : Nat) (q : Nat) (s : State),
      NewRequest t port c p 5 1 e n s ∧ slot = bitsOf p.addr.toNat 0 12 ∧ tablePort s p.src.toNat = some q ∧ slotTenant s
      slot ≠ some (cellTenant s p)) ∧
    (∃ (t : Ltc) (port : BitVec 4) (c : Cell) (p : Cell) (e : Stream) (n : Nat) (slot : Nat) (q : Nat) (s : State),
      NewRequest t port c p 5 1 e n s ∧ slot = bitsOf p.addr.toNat 0 12 ∧ tablePort s p.src.toNat = some q ∧ slotTenant s
      slot = some (cellTenant s p) ∧ runAt s slot = none) ∧
    (∃ (t : Ltc) (eng : Eng) (ctx : BitVec 5) (k : Task) (key : Nat) (n : Nat) (r : RedRun) (s : State), key = taskKey
      eng.toNat ctx.toNat ∧ taskOf s key = some k ∧ runOfTask s key = some (n, r) ∧ k.isDone = false ∧ r.complete = false ∧
      r.armed.toNat + us r.limitUs ≤ now (adv t s)) ∧
    (∃ (t : Ltc) (eng : Eng) (ctx : BitVec 5) (k : Task) (key : Nat) (n : Nat) (r : RedRun) (s : State), key = taskKey
      eng.toNat ctx.toNat ∧ taskOf s key = some k ∧ runOfTask s key = some (n, r) ∧ k.isDone = false ∧ r.complete = false ∧
      now (adv t s) < r.armed.toNat + us r.limitUs) := by
  refine ⟨⟨1024, 0, kReduceRuns0, rg, 32768, sReduceRuns0, ?_⟩,
    ⟨1024, 0, kReduceRuns0, rg, 32768, sReduceRuns1, 0x4A, ?_⟩,
    ⟨20, 15, cReduceRuns2, pReduceRuns2, { base := 100 }, 100, 5, 1, 0, 5, rReduceRuns2, sReduceRuns2, ?_⟩,
    ⟨20, 15, cReduceRuns2, pReduceRuns3, { base := 100 }, 100, 5, 1, 0, 5, rReduceRuns3, sReduceRuns3, ?_⟩,
    ⟨20, 15, cReduceRuns4, pReduceRuns4, { base := 100 }, 100, 6, 15, sReduceRuns2, ?_⟩,
    ⟨20, 15, cReduceRuns2, pReduceRuns5, { base := 100 }, 100, 5, 15, sReduceRuns5, ?_⟩,
    ⟨80000, 1024, 0, kReduceRuns6, 32768, 5, rReduceRuns3, sReduceRuns6, ?_⟩,
    ⟨20, 1024, 0, kReduceRuns6, 32768, 5, rReduceRuns3, sReduceRuns6, ?_⟩⟩ <;>
    (try simp only [NewRequest, Admitted]) <;>
    and_intros <;> decide +kernel

def sCountersDumpsAndSampling0 : State :=
  { waiting hT with sec := { jobs := [(7, { binding := 5 + 2 * 2 ^ 16, dbg := some ⟨9, 4⟩ })] } }
def sCountersDumpsAndSampling2 : State := { waiting hP with tel := { counters := [(49, { event := 0x10, value := 7 })] } }
def sCountersDumpsAndSampling7 : State :=
  let s := wr (wr (ingots State.reset) Fld.TEL_STATUS_RING_VALID 1) Fld.TEL_STATUS_DSEQ_NEXT 3
  { s with tel := { counters := [(17, { event := 0x10, value := 7 })], ringAddr := 0x10000, ringSize := 4096, period := 10 }, mem := { s.mem with stack := { tags := (List.range 64).map fun i => (1024 + i, 1) } } }
def sCountersDumpsAndSampling13 : State :=
  withCtl State.reset fun c => { c with windows := [{ cls := 1, code := 2, kind := 3, index := 4, ends := 5 }] }
def wCountersDumpsAndSampling14 : Window := { cls := 1, code := 2, kind := 3, index := 4, ends := 5, count := 2, first := 9 }
def sCountersDumpsAndSampling14 : State :=
  withCtl State.reset fun c => { c with windows := [{ cls := 1, code := 2, kind := 3, index := 4, ends := 5, count := 2, first := 9 }] }

theorem test_met_CountersDumpsAndSampling :
    (∃ (h : CmdHdr) (cl : Byte) (n : Byte) (e : BitVec 16) (s : State), Suits h .either ∧ Waits s h ∧ cl.toNat < clusters s
      ∧ n.toNat < 16 ∧ eventListed e.toNat = true ∧
      (h.tenant = 0xFFF ∨ (counterHandle s h.tenant.toNat = true ∧ e.toNat < 0x200))) ∧
    (∃ (h : CmdHdr) (cl : Byte) (n : Byte) (e : BitVec 16) (s : State), Suits h .either ∧ Waits s h ∧
      (clusters s ≤ cl.toNat ∨ 16 ≤ n.toNat ∨ eventListed e.toNat = false ∨ (h.tenant ≠ 0xFFF ∧ (counterHandle s h.tenant.toNat = false ∨ 0x200 ≤ e.toNat)))) ∧
    (∃ (h : CmdHdr) (g : BitVec 16) (s : State), Suits h .platform ∧ Waits s h ∧ g.toNat < clusters s) ∧
    (∃ (h : CmdHdr) (g : BitVec 16) (s : State), Suits h .platform ∧ Waits s h ∧ g = 0x00FF) ∧
    (∃ (h : CmdHdr) (g : BitVec 16) (s : State), Suits h .platform ∧ Waits s h ∧ clusters s ≤ g.toNat ∧ g ≠ 0x00FF) ∧
    (∃ (h : CmdHdr) (a : Word) (size : BitVec 32) (period : BitVec 32) (s : State), Suits h .platform ∧ Waits s h ∧
      ringParamsOk s a.toNat size.toNat period.toNat = true) ∧
    (∃ (h : CmdHdr) (a : Word) (size : BitVec 32) (period : BitVec 32) (s : State), Suits h .platform ∧ Waits s h ∧
      ringParamsOk s a.toNat size.toNat period.toNat = false) ∧
    (∃ (t : Ltc) (n : Nat) (s : State), s.tel.period ≠ 0 ∧ s.tel.dumpAt.toNat ≤ now (adv t s) ∧ ringUsable s = true ∧ 4096
      ≤ s.tel.ringSize.toNat ∧ s.tel.ringAddr.toNat % 64 = 0 ∧ n = rd s Fld.TEL_STATUS_DSEQ_NEXT ∧ n + 16 ≤ 2 ^ 32 ∧
      (∀ ln, s.tel.ringAddr.toNat / 64 ≤ ln → 64 * ln < s.tel.ringAddr.toNat + s.tel.ringSize.toNat → lineBusy s ln = false ∧ Plain s ln)) ∧
    (∃ (t : Ltc) (s : State), (s.tel.period = 0 ∨ now (adv t s) < s.tel.dumpAt.toNat)) ∧
    (∃ (h : CmdHdr) (rate : BitVec 32) (s : State), Suits h .either ∧ Waits s h ∧
      (bitsOf rate.toNat 5 3 ≠ 0 ∨ bitsOf rate.toNat 13 19 ≠ 0)) ∧
    (∃ (h : CmdHdr) (rate : BitVec 32) (s : State), Suits h .either ∧ Waits s h ∧ bitsOf rate.toNat 5 3 = 0 ∧ bitsOf
      rate.toNat 13 19 = 0 ∧
      (bitAt rate.toNat 11 = true ∨ (bitsOf rate.toNat 0 5 ≠ 0 ∧ (bitsOf rate.toNat 0 5 < 6 ∨ 24 < bitsOf rate.toNat 0 5)))) ∧
    (∃ (h : CmdHdr) (rate : BitVec 32) (s : State), Suits h .either ∧ Waits s h ∧ bitsOf rate.toNat 5 3 = 0 ∧ bitsOf
      rate.toNat 13 19 = 0 ∧ bitAt rate.toNat 11 = false ∧
      (bitsOf rate.toNat 0 5 = 0 ∨ (6 ≤ bitsOf rate.toNat 0 5 ∧ bitsOf rate.toNat 0 5 ≤ 24)) ∧
      (h.tenant = 0xFFF ∨ tenantGrants s h.tenant.toNat 1 = true)) ∧
    (∃ (h : CmdHdr) (rate : BitVec 32) (s : State), Suits h .either ∧ Waits s h ∧ bitsOf rate.toNat 5 3 = 0 ∧ bitsOf
      rate.toNat 13 19 = 0 ∧ bitAt rate.toNat 11 = false ∧
      (bitsOf rate.toNat 0 5 = 0 ∨ (6 ≤ bitsOf rate.toNat 0 5 ∧ bitsOf rate.toNat 0 5 ≤ 24)) ∧ h.tenant ≠ 0xFFF ∧
      tenantGrants s h.tenant.toNat 1 = false) ∧
    (∃ (t : Ltc) (cls : Byte) (code : Byte) (kind : Byte) (i : BitVec 12) (w : Window) (s : State), windowOf s cls code
      kind i = some w ∧ (∀ v ∈ s.ctl.windows, v.cls = cls → v.code = code → v.kind = kind → v.index = i → v = w) ∧
      w.ends.toNat ≤ now (adv t s) ∧ w.count = 0) ∧
    (∃ (t : Ltc) (cls : Byte) (code : Byte) (kind : Byte) (i : BitVec 12) (w : Window) (s : State), windowOf s cls code
      kind i = some w ∧ (∀ v ∈ s.ctl.windows, v.cls = cls → v.code = code → v.kind = kind → v.index = i → v = w) ∧
      w.ends.toNat ≤ now (adv t s) ∧ w.count ≠ 0 ∧ w.cls ≠ 2) ∧
    (∃ (cls : Byte) (code : Byte) (kind : Byte) (i : BitVec 12) (s : State), windowOf s cls code kind i = none) := by
  refine ⟨⟨hT, 3, 4, 0x43, sCountersDumpsAndSampling0, ?_⟩,
    ⟨hP, 3, 4, 0x44, waiting hP, ?_⟩,
    ⟨hP, 3, sCountersDumpsAndSampling2, ?_⟩,
    ⟨hP, 0xFF, sCountersDumpsAndSampling2, ?_⟩,
    ⟨hP, 99, waiting hP, ?_⟩,
    ⟨hP, 0x10000, 4096, 10, ingots (waiting hP), ?_⟩,
    ⟨hP, 0x10000, 4096, 9, ingots (waiting hP), ?_⟩,
    ⟨20, 3, sCountersDumpsAndSampling7, ?_⟩,
    ⟨20, State.reset, ?_⟩,
    ⟨hP, 0x20, waiting hP, ?_⟩,
    ⟨hP, 5, waiting hP, ?_⟩,
    ⟨hT, 0x106, sCountersDumpsAndSampling0, ?_⟩,
    ⟨hT, 0x106, waiting hT, ?_⟩,
    ⟨20, 1, 2, 3, 4, { cls := 1, code := 2, kind := 3, index := 4, ends := 5 }, sCountersDumpsAndSampling13, ?_⟩,
    ⟨20, 1, 2, 3, 4, wCountersDumpsAndSampling14, sCountersDumpsAndSampling14, ?_⟩,
    ⟨1, 2, 3, 4, State.reset, ?_⟩⟩ <;>
    (try simp only [Suits, Waits, any_iff, Plain, Readable, key_iff, NoGrants, all_iff, lines_iff]) <;>
    and_intros <;> decide +kernel

def sPowerAndThermal6 : State := { State.reset with pwr := { episodes := [(0, ⟨3, 4, 600⟩)] } }
def sPowerAndThermal17 : State := { State.reset with pwr := { thermal := [(1, 750)], coolAt := [(1, 3)] } }

theorem test_met_PowerAndThermal :
    (∃ (h : CmdHdr) (n : Byte) (s : State), Suits h .platform ∧ Waits s h ∧ n.toNat ≤ 2 ∧ (n = 2 → enginesStopped s = true)) ∧
    (∃ (h : CmdHdr) (n : Byte) (s : State), Suits h .platform ∧ Waits s h ∧ n = 2 ∧ enginesStopped s = false) ∧
    (∃ (h : CmdHdr) (n : Byte) (s : State), Suits h .platform ∧ Waits s h ∧ 2 < n.toNat) ∧
    (∃ (h : CmdHdr) (mask : BitVec 32) (limit : BitVec 16) (s : State), Suits h .platform ∧ Waits s h ∧ throttleOk s
      mask.toNat limit.toNat = true) ∧
    (∃ (h : CmdHdr) (mask : BitVec 32) (limit : BitVec 16) (s : State), Suits h .platform ∧ Waits s h ∧ throttleOk s
      mask.toNat limit.toNat = false) ∧
    (∃ (rail : BitVec 4) (mv : BitVec 16) (s : State), rail.toNat < 14 ∧ 100 * mv.toNat < 95 * nominalMv s rail.toNat ∧
      s.pwr.episodes.find rail.toNat = none) ∧
    (∃ (rail : BitVec 4) (mv : BitVec 16) (s : State) (e : _), rail.toNat < 14 ∧ 100 * mv.toNat < 95 * nominalMv s
      rail.toNat ∧ s.pwr.episodes.find rail.toNat = some e) ∧
    (∃ (rail : BitVec 4) (mv : BitVec 16) (s : State), rail.toNat < 14 ∧ 95 * nominalMv s rail.toNat ≤ 100 * mv.toNat) ∧
    (∃ (t : Ltc) (rail : BitVec 4) (e : Episode) (s : State), s.pwr.episodes.find rail.toNat = some e ∧ e.last.toNat + us
      10 ≤ now (adv t s) ∧ EventRoom s) ∧
    (∃ (t : Ltc) (rail : BitVec 4) (e : Episode) (s : State), s.pwr.episodes.find rail.toNat = some e ∧ now (adv t s) <
      e.last.toNat + us 10) ∧
    (∃ (d : FDie) (s : State), hotLow s d = false) ∧
    (∃ (d : FDie) (s : State), hotLow s d = true) ∧
    (∃ (t : Ltc) (d : FDie) (r : PmbReading) (w : Nat) (s : State), railWord d r.rail.toNat = some w ∧ now (adv t s) <
      (s.pwr.pollAt.get 0 d.num).toNat) ∧
    (∃ (t : Ltc) (d : FDie) (r : PmbReading) (w : Nat) (s : State), railWord d r.rail.toNat = some w ∧
      (s.pwr.pollAt.get 0 d.num).toNat ≤ now (adv t s) ∧ r.answered = true) ∧
    (∃ (t : Ltc) (d : FDie) (r : PmbReading) (w : Nat) (s : State), railWord d r.rail.toNat = some w ∧
      (s.pwr.pollAt.get 0 d.num).toNat ≤ now (adv t s) ∧ r.answered = false) ∧
    (∃ (t : Ltc) (die : BitVec 1) (core : Byte) (stack : Byte) (s : State), die.toNat < dies s ∧ stepDue (adv t s)
      die.toNat = true ∧ (throttleC s < core.toNat ∨ 95 < stack.toNat)) ∧
    (∃ (t : Ltc) (die : BitVec 1) (core : Byte) (stack : Byte) (s : State) (u : _), die.toNat < dies s ∧ stepDue (adv t s)
      die.toNat = true ∧ core.toNat + 5 ≤ throttleC s ∧ stack.toNat ≤ 90 ∧ s.pwr.coolAt.find die.toNat = some u ∧ u.toNat +
      us 100 ≤ now (adv t s)) ∧
    (∃ (core : Byte) (fab : Byte) (stack : Byte), (115 ≤ core.toNat ∨ 110 ≤ fab.toNat ∨ 105 ≤ stack.toNat)) ∧
    (∃ (core : Byte) (fab : Byte) (stack : Byte), core.toNat < 115 ∧ fab.toNat < 110 ∧ stack.toNat < 105) ∧
    (∃ (d : FDie) (s : State), bankOk s d = true ∧ bankOk s d.other = true) ∧
    (∃ (d : FDie) (s : State), bankOk s d = true ∧ bankOk s d.other = false) ∧
    (∃ (d : FDie) (s : State), bankOk s d = false) ∧
    (∃ (rail : BitVec 4), rail.toNat < 4) ∧
    (∃ (rail : BitVec 4) (s : State), 4 ≤ rail.toNat ∧ rail.toNat < 12 ∧ bankOk s (railDomain rail.toNat) = true ∧ bankOk s
      (railDomain rail.toNat).other = true) ∧
    (∃ (rail : BitVec 4), 12 ≤ rail.toNat) := by
  refine ⟨⟨hP, 1, waiting hP, ?_⟩,
    ⟨hP, 2, waiting hP, ?_⟩,
    ⟨hP, 3, waiting hP, ?_⟩,
    ⟨hP, 0x20101, 75, waiting hP, ?_⟩,
    ⟨hP, 1, 74, waiting hP, ?_⟩,
    ⟨0, 600, State.reset, ?_⟩,
    ⟨0, 590, sPowerAndThermal6, ⟨3, 4, 600⟩, ?_⟩,
    ⟨0, 720, State.reset, ?_⟩,
    ⟨10004, 0, ⟨3, 4, 600⟩, sPowerAndThermal6, ?_⟩,
    ⟨10003, 0, ⟨3, 4, 600⟩, sPowerAndThermal6, ?_⟩,
    ⟨.f0, State.reset, ?_⟩,
    ⟨.f0, { State.reset with pwr := { hotA := true } }, ?_⟩,
    ⟨20, .f0, ⟨4, true, 700, 80, 55, 1⟩, 8, { State.reset with pwr := { pollAt := [(0, 5000)] } }, ?_⟩,
    ⟨20, .f0, ⟨4, true, 700, 80, 55, 1⟩, 8, { State.reset with pwr := { missed := [(4, 2)] } }, ?_⟩,
    ⟨20, .f0, ⟨4, false, 0, 0, 0, 0⟩, 8, { State.reset with pwr := { missed := [(4, 2)] } }, ?_⟩,
    ⟨20, 1, 101, 30, State.reset, ?_⟩,
    ⟨200000, 1, 95, 90, sPowerAndThermal17, 3, ?_⟩,
    ⟨115, 0, 0, ?_⟩,
    ⟨114, 109, 104, ?_⟩,
    ⟨.f0, State.reset, ?_⟩,
    ⟨.f0, { State.reset with pwr := { bankOkB := false } }, ?_⟩,
    ⟨.f0, { State.reset with pwr := { bankOkA := false } }, ?_⟩,
    ⟨3, ?_⟩,
    ⟨5, State.reset, ?_⟩,
    ⟨12, ?_⟩⟩ <;>
    (try simp only [Suits, Waits, any_iff, EventRoom]) <;>
    and_intros <;> decide +kernel

def sSupplyAndStartUp0 : State := { State.reset with pwr := { poresetLow := true, tripped := true } }
def sSupplyAndStartUp3 : State := { State.reset with pwr := { rails := 0x3FEF, bankOkA := false } }
def sSupplyAndStartUp5 : State := { State.reset with pwr := { rails := 0x3FEF, enabledAt := [(4, 0)], bankOkA := false } }
def sSupplyAndStartUp7 : State := wr (wr State.reset Fld.RST_STATUS_PHASES 1) Fld.ECC_TIN_STATUS_PENDING 1
def sSupplyAndStartUp12 : State := { State.reset with clk := { State.reset.clk with vaonA := false } }
def sSupplyAndStartUp13 : State :=
  { State.reset with clk := { State.reset.clk with vaonB := false }, pwr := { vaonOut := [(1, 3)] } }

theorem test_met_SupplyAndStartUp :
    (∃ (s : State), s.pwr.poresetLow = true) ∧
    (∃ (s : State), s.pwr.poresetLow = false) ∧
    (∃ (rail : BitVec 4) (s : State), railEnabled s rail.toNat = true ∧ railUp s rail.toNat = false) ∧
    (∃ (rail : BitVec 4) (s : State), (railEnabled s rail.toNat = false ∨ railUp s rail.toNat = true)) ∧
    (∃ (t : Ltc) (rail : BitVec 4) (e : Ltc) (s : State), s.pwr.enabledAt.find rail.toNat = some e ∧ rail.toNat < 12 ∧
      railUp s rail.toNat = false ∧ e.toNat + us 5000 ≤ now (adv t s)) ∧
    (∃ (n : BitVec 4) (s : State), 1 ≤ n.toNat ∧ n.toNat ≤ 8 ∧ phaseDone s n.toNat = false ∧ powerGood s = true ∧
      (∀ p ∈ phasePreds n.toNat, phaseDone s p = true) ∧ (n ≠ 2 ∨ rd s Fld.ECC_TIN_STATUS_PENDING = 0)) ∧
    (∃ (n : BitVec 4) (s : State), 1 ≤ n.toNat ∧ n.toNat ≤ 8 ∧ phaseDone s n.toNat = false ∧ powerGood s = true ∧
      (∀ p ∈ phasePreds n.toNat, phaseDone s p = true) ∧ n = 2 ∧ rd s Fld.ECC_TIN_STATUS_PENDING = 1 ∧ rd s
      Fld.ECC_TIN_STATUS_STATE ≠ 1) ∧
    (∃ (n : BitVec 4) (s : State), 1 ≤ n.toNat ∧ n.toNat ≤ 8 ∧ phaseDone s n.toNat = false ∧
      (powerGood s = false ∨ ∃ p ∈ phasePreds n.toNat, phaseDone s p = false)) ∧
    (∃ (t : Ltc) (n : BitVec 4) (s : State), 1 ≤ n.toNat ∧ n.toNat ≤ 8 ∧ phaseDone s n.toNat = false ∧ s.pwr.goodAt.toNat +
      phaseLimit n.toNat ≤ now (adv t s)) ∧
    (∃ (t : Ltc) (n : BitVec 4) (s : State), 1 ≤ n.toNat ∧ n.toNat ≤ 8 ∧
      (phaseDone s n.toNat = true ∨ now (adv t s) < s.pwr.goodAt.toNat + phaseLimit n.toNat)) ∧
    (∃ (d : FDie) (s : State), vaon s d = true ∧ vaon s d.other = true) ∧
    (∃ (d : FDie) (s : State), vaon s d = true ∧ vaon s d.other = false) ∧
    (∃ (t : Ltc) (d : FDie) (u : Ltc) (s : State), vaon s d = false ∧ s.pwr.vaonOut.find d.num = some u ∧ now (adv t s) <
      u.toNat + us 1000) ∧
    (∃ (t : Ltc) (d : FDie) (u : Ltc) (s : State), vaon s d = false ∧ s.pwr.vaonOut.find d.num = some u ∧ u.toNat + us 1000
      ≤ now (adv t s)) := by
  refine ⟨⟨sSupplyAndStartUp0, ?_⟩,
    ⟨State.reset, ?_⟩,
    ⟨4, sSupplyAndStartUp3, ?_⟩,
    ⟨4, State.reset, ?_⟩,
    ⟨6000000, 4, 0, sSupplyAndStartUp5, ?_⟩,
    ⟨8, wr State.reset Fld.RST_STATUS_PHASES 0xF, ?_⟩,
    ⟨2, sSupplyAndStartUp7, ?_⟩,
    ⟨2, State.reset, ?_⟩,
    ⟨200000, 1, State.reset, ?_⟩,
    ⟨20, 1, State.reset, ?_⟩,
    ⟨.f1, State.reset, ?_⟩,
    ⟨.f1, sSupplyAndStartUp12, ?_⟩,
    ⟨20, .f1, 3, sSupplyAndStartUp13, ?_⟩,
    ⟨1000003, .f1, 3, sSupplyAndStartUp13, ?_⟩⟩ <;>
    (try simp only [all_iff, any_iff]) <;>
    and_intros <;> decide +kernel

theorem test_met_ResetsReachTheirScope :
    (∃ (h : CmdHdr) (n : Byte) (s : State), Suits h .platform ∧ Waits s h ∧ n = 1) ∧
    (∃ (h : CmdHdr) (n : Byte) (s : State), Suits h .platform ∧ Waits s h ∧ n = 3) ∧
    (∃ (h : CmdHdr) (n : Byte) (s : State), Suits h .platform ∧ Waits s h ∧ n = 4) ∧
    (∃ (t : Ltc) (h : CmdHdr) (n : Byte) (s : State) (e : _) (p : _), Suits h .platform ∧ Waits s h ∧ entryOf s h = some e
      ∧ e.src = .kafer p ∧ portUp s p = true ∧ inGap (adv t s) = false ∧ (klink s p).waiting = [] ∧ (klink s p).unacked = []
      ∧ cmdLate (adv t s) h = false ∧ n = 2) ∧
    (∃ (t : Ltc) (h : CmdHdr) (n : Byte) (s : State) (e : _) (p : _), Suits h .platform ∧ Waits s h ∧ entryOf s h = some e
      ∧ e.src = .kafer p ∧ portUp s p = true ∧ inGap (adv t s) = false ∧ (klink s p).waiting = [] ∧ (klink s p).unacked = []
      ∧ cmdLate (adv t s) h = false ∧ n = 5) ∧
    (∃ (h : CmdHdr) (n : Byte) (s : State), Suits h .platform ∧ Waits s h ∧ (n = 0 ∨ 5 < n.toNat)) := by
  refine ⟨⟨hP, 1, waiting hP, ?_⟩,
    ⟨hP, 3, waiting hP, ?_⟩,
    ⟨hP, 4, waiting hP, ?_⟩,
    ⟨20, hP, 2, upA (waiting hP), entryFor hP, .a, ?_⟩,
    ⟨20, hP, 5, upA (waiting hP), entryFor hP, .a, ?_⟩,
    ⟨hP, 6, waiting hP, ?_⟩⟩ <;>
    (try simp only [Suits, Waits, any_iff]) <;>
    and_intros <;> decide +kernel

theorem test_met_LtcNeverRunsBackwards :
    ∃ (s : State) (s' : State), step s = .next s' := by
  refine ⟨State.reset, State.reset, ?_⟩
  first | decide +kernel | rfl

theorem test_met_MemoryFormKept :
    ∃ (s : State) (s' : State), Memory.wf s.mem = true ∧ step s = .next s' := by
  refine ⟨State.reset, State.reset, ?_⟩
  and_intros <;> first | decide +kernel | rfl

def qDieLocalMappingOneToOne0 : Nat := ((homeOf (State.reset : State) (0x123456789 : Nat)).2 / 256 : Nat) / 192
def pDieLocalMappingOneToOne0 : Nat :=
  (((homeOf (State.reset : State) (0x123456789 : Nat)).2 / 256 : Nat) + 7 * qDieLocalMappingOneToOne0) % 192

theorem test_met_DieLocalMappingOneToOne :
    (∃ (s : State) (la : Nat) (k : Nat) (o : Nat) (q : Nat) (p : Nat), k = (homeOf s la).2 / 256 ∧ o = (homeOf s la).2 %
      256 ∧ q = k / 192 ∧ p = (k + 7 * q) % 192) ∧
    (∃ (s : State) (la : Nat) (lb : Nat), placeOf s la = placeOf s lb) ∧
    (∃ (p : Nat), p < 192) := by
  refine ⟨⟨State.reset, 0x123456789, (homeOf (State.reset : State) (0x123456789 : Nat)).2 / 256,
     (homeOf (State.reset : State) (0x123456789 : Nat)).2 % 256, qDieLocalMappingOneToOne0, pDieLocalMappingOneToOne0, ?_⟩,
    ⟨State.reset, 77, 77, ?_⟩,
    ⟨191, ?_⟩⟩ <;>
    and_intros <;> decide +kernel

theorem test_met_HomeDieFollowsGrain :
    (∃ (s : State) (g : Nat), s.variant = .tr12 ∧
      ((rd s Fld.MEM_CONFIG_GRAIN = 1 ∧ g = 12) ∨ (rd s Fld.MEM_CONFIG_GRAIN = 2 ∧ g = 16) ∨ (rd s Fld.MEM_CONFIG_GRAIN = 3 ∧ g = 21))) ∧
    (∃ (s : State) (la : Nat) (g : Nat), s.variant = .tr12 ∧
      ((rd s Fld.MEM_CONFIG_GRAIN = 1 ∧ g = 12) ∨ (rd s Fld.MEM_CONFIG_GRAIN = 2 ∧ g = 16) ∨ (rd s Fld.MEM_CONFIG_GRAIN = 3 ∧ g = 21))
      ∧ la / 2 ^ 30 = (la + 2 ^ g) / 2 ^ 30) ∧
    (∃ (s : State) (la : Nat), s.variant = .tr12 ∧ rd s Fld.MEM_CONFIG_GRAIN = 4 ∧ la < 768 * 2 ^ 30) ∧
    (∃ (s : State), s.variant = .tr6) ∧
    (∃ (h : CmdHdr) (g : Byte) (s : State), Suits h .platform ∧ Waits s h ∧ s.mem.ingots = [] ∧ 1 ≤ g.toNat ∧ g.toNat ≤ 4) := by
  refine ⟨⟨wr State.reset Fld.MEM_CONFIG_GRAIN 1, 12, ?_⟩,
    ⟨wr State.reset Fld.MEM_CONFIG_GRAIN 3, 0x1234567A80, 21, ?_⟩,
    ⟨State.reset, 767 * 2 ^ 30 + 5, ?_⟩,
    ⟨{ State.reset with variant := .tr6 }, ?_⟩,
    ⟨hP, 1, waiting hP, ?_⟩⟩ <;>
    (try simp only [Suits, Waits, any_iff]) <;>
    and_intros <;> decide +kernel

def sSamplingNeedsConsent2 : State :=
  (match exec (.samplingSet (20 : Ltc) hP (0x106 : BitVec 32)) (waiting hP : State) with | .next x => x | _ => (waiting hP : State))

theorem test_met_SamplingNeedsConsent :
    (∃ (h : CmdHdr) (rate : BitVec 32) (s : State), Suits h .either ∧ Waits s h ∧ h.tenant ≠ 0xFFF ∧ bitsOf rate.toNat 5 3
      = 0 ∧ bitsOf rate.toNat 13 19 = 0 ∧ bitAt rate.toNat 11 = false ∧
      (bitsOf rate.toNat 0 5 = 0 ∨ (6 ≤ bitsOf rate.toNat 0 5 ∧ bitsOf rate.toNat 0 5 ≤ 24)) ∧
      (∀ e ∈ s.sec.jobs, e.2.valid = true → bindTenant e.2.binding.toNat = h.tenant.toNat → bitAt (bindConsent e.2.binding.toNat) 1 = false)) ∧
    (∃ (h : CmdHdr) (rate : BitVec 32) (s : State), Suits h .either ∧ Waits s h ∧ h.tenant ≠ 0xFFF ∧ bitsOf rate.toNat 5 3
      = 0 ∧ bitsOf rate.toNat 13 19 = 0 ∧ bitAt rate.toNat 11 = false ∧
      (bitsOf rate.toNat 0 5 = 0 ∨ (6 ≤ bitsOf rate.toNat 0 5 ∧ bitsOf rate.toNat 0 5 ≤ 24)) ∧
      (∃ e ∈ s.sec.jobs, e.2.valid = true ∧ bindTenant e.2.binding.toNat = h.tenant.toNat ∧ bitAt (bindConsent e.2.binding.toNat) 1 = true)) ∧
    (∃ (t : Ltc) (h : CmdHdr) (rate : BitVec 32) (s : State) (s' : State) (tenant : Nat), h.tenant = 0xFFF ∧ exec
      (.samplingSet t h rate) s = .next s' ∧ tenantGrants s tenant 1 = false) ∧
    (∃ (tenant : Nat) (s : State),
      (∀ e ∈ s.sec.jobs, e.2.valid = true → bindTenant e.2.binding.toNat = tenant → bitAt (bindConsent e.2.binding.toNat) 1 = false)) := by
  refine ⟨⟨hT, 0x106, waiting hT, ?_⟩,
    ⟨hT, 0x106, sCountersDumpsAndSampling0, ?_⟩,
    ⟨20, hP, 0x106, waiting hP, sSamplingNeedsConsent2, 5, ?_⟩,
    ⟨5, State.reset, ?_⟩⟩ <;>
    (try simp only [Suits, Waits, any_iff, all_iff]) <;>
    and_intros <;> first | decide +kernel | rfl

theorem test_met_CellLength :
    (∃ (c : Cell), c.cls = 5) ∧
    (∃ (c : Cell), c.cls = 0 ∧ c.op = 1) ∧
    (∃ (c : Cell), c.cls = 0 ∧ c.op = 2) ∧
    (∃ (c : Cell), c.cls = 0 ∧ c.op = 4) ∧
    (∃ (c : Cell), c.cls = 0 ∧ c.op = 3) ∧
    (∃ (c : Cell), c.cls = 0 ∧ c.op = 5) ∧
    (∃ (c : Cell), c.cls = 0 ∧ c.op = 6) := by
  refine ⟨⟨{ cellE with cls := 5 }, ?_⟩,
    ⟨{ cellE with op := 1 }, ?_⟩,
    ⟨{ cellE with op := 2 }, ?_⟩,
    ⟨{ cellE with op := 4 }, ?_⟩,
    ⟨{ cellE with op := 3 }, ?_⟩,
    ⟨{ cellE with op := 5 }, ?_⟩,
    ⟨{ cellE with op := 6 }, ?_⟩⟩ <;>
    and_intros <;> decide +kernel

theorem test_met_CodeCorrectsTwo :
    (∃ (used : Nat), (used = 80 ∨ used = 78)) ∧
    (∃ (used : Nat) (i : _), (used = 80 ∨ used = 78) ∧ i < used) ∧
    (∃ (used : Nat) (i : _) (j : _), (used = 80 ∨ used = 78) ∧ i < j ∧ j < used) := by
  refine ⟨⟨80, ?_⟩,
    ⟨80, 79, ?_⟩,
    ⟨78, 3, 77, ?_⟩⟩ <;>
    and_intros <;> decide +kernel

end Sys2Proof.Tests
end

/-! SUPPORT. What the clock leaves alone in the terms of the statements, and what a reply in time and a long command leave. -/

namespace Sys2Proof.Machine

/-! ### The clock -/

/-- The clock moves no register. -/
@[simp] theorem adv_regGet (t : Ltc) (s : State) (a : Nat) : regGet (adv t s) a = regGet s a := regGet_congr (by simp) a

/-- What works on the control plane alone from the moment a command takes place does so from the state before it. -/
theorem controlOnly_of_adv {t : Ltc} {s s' : State} (h : ControlOnly (adv t s) s') : ControlOnly s s' := by
  simpa [ControlOnly, SameMemory, SameEngines, SameFabric, SamePlatform, SameModes, SameRegs] using h

/-- A command that waits still waits at the time of its row. -/
theorem waits_adv (t : Ltc) {s : State} {h : CmdHdr} (hw : Waits s h) : Waits (adv t s) h := waits_of_journal (by simp) hw

/-- Lateness is a fact of the clock. -/
theorem cmdLate_congr {s s' : State} (hc : s'.clk = s.clk) (h : CmdHdr) : cmdLate s' h = cmdLate s h := by
  unfold cmdLate passed48 now48
  rw [now_congr hc]

/-! ### Replies -/

/-- A reply in time that reports no internal error forms no fault record, so it moves no register (R50). -/
theorem finish_regs_of_inTime {s : State} {h : CmdHdr} {status : Nat} (payload : List Byte) (hl : cmdLate s h = false)
    (hs : status ≠ Status.INTERNAL_ERROR) : (finish h status payload s).regs = s.regs := by
  unfold finish
  split
  · rfl
  · simp [keepReply, hl, hs]

/-- A write that no window write of which is held is answered at once (R111). -/
theorem finishWrites_of_noneHeld {before : Nat} {s : State} (h : CmdHdr) (status : Nat) (payload : List Byte)
    (hb : s.mem.heldPtw.length ≤ before) : finishWrites before h status payload s = finish h status payload s := if_pos hb

/-- A long command that has begun works on the control plane alone. -/
theorem beginLong_controlOnly (h : CmdHdr) (s : State) : ControlOnly s (beginLong h s) := by
  simp [ControlOnly, SameMemory, SameEngines, SameFabric, SamePlatform, SameModes, SameRegs, regGet]

/-- A command that waits runs once it has begun as a long one (R49). -/
theorem beginLong_running {s : State} {h : CmdHdr} (hw : Waits s h) : Running (beginLong h s) h := by
  obtain ⟨e, he⟩ := entryOf_of_waits hw
  have hopen : e.st ≠ .replied := by
    have := List.find?_some he
    simp only [JEntry.isOpen, Bool.and_eq_true, decide_eq_true_eq] at this
    exact this.2
  have hh : e.h = h := entryOf_spec he
  refine ⟨_, image_mem_updFirst _ _ he, ?_⟩
  cases hst : e.st with
  | queued => exact ⟨hh, rfl⟩
  | running began => simp [hh, JEntry.running, hst]
  | replied => exact absurd hst hopen

/-- An entry found by SESSION and SEQ whose command runs waits for its reply. -/
theorem waits_of_entryBy {s : State} {e : JEntry} {session seq : BitVec 32} {began : Ltc}
    (he : entryBy s session seq = some e) (hst : e.st = .running began) : Waits s e.h :=
  ⟨e, List.mem_of_find?_eq_some he, rfl, by simp [hst]⟩

end Sys2Proof.Machine

/-! SUPPORT. CSR access (R12, R59): plain reads and plain stores of 8-byte registers, and the statement about them. -/

namespace Sys2Proof.Machine

/-! ### Mapped registers -/

@[simp] theorem dies_adv (t : Ltc) (s : State) : dies (adv t s) = dies s := by simp [dies]

@[simp] theorem queueAt_adv (t : Ltc) (s : State) (a : Nat) : queueAt (adv t s) a = queueAt s a := by
  unfold queueAt
  rw [dies_adv]

@[simp] theorem csrMapped_adv (t : Ltc) (s : State) (a : Nat) : csrMapped (adv t s) a = csrMapped s a := by
  unfold csrMapped
  rw [dies_adv, queueAt_adv]

theorem regAt_adv (t : Ltc) {s : State} {b : RegBlock} {a : Nat} (hr : RegAt s b a) : RegAt (adv t s) b a := by
  simpa [RegAt] using hr

theorem alignDown_of_dvd {a m : Nat} (h : a % m = 0) : alignDown a m = a := Nat.div_mul_cancel (Nat.dvd_of_mod_eq_zero h)

/-- The aligned address of a mapped register passes the checks of an 8-byte access (R59). -/
theorem RegAt.accessOk {s : State} {b : RegBlock} {a : Nat} (hr : RegAt s b a) : accessOk a 8 = true := by
  simp [Machine.accessOk, hr.2.1]

theorem RegAt.aligned {s : State} {b : RegBlock} {a : Nat} (hr : RegAt s b a) : alignDown a 8 = a := alignDown_of_dvd hr.2.1

theorem RegAt.mapped {s : State} {b : RegBlock} {a : Nat} (hr : RegAt s b a) : csrMapped s a = true := hr.2.2.1

/-- RW bits lie within 64 bits. -/
theorem rw_lt_of_blockOf {a : Nat} {b : RegBlock} (h : Reg.blockOf a = some b) : b.rw < 2 ^ 64 :=
  (by decide : ∀ b ∈ Reg.blocks, b.rw < 2 ^ 64) b (List.mem_of_find?_eq_some h)

/-! ### Reads -/

/-- A register whose value no other state decides shows what it holds. -/
theorem shownWord_of_plain {b : RegBlock} (hb : b ∉ shownRegs) (s : State) (a : Nat) : shownWord s b a = regGet s a := by
  simp only [shownRegs, List.mem_cons, List.not_mem_nil, or_false, not_or] at hb
  simp [shownWord, shownCtl, shownData, shownPlatform, hb]

/-- Reading it gives its value and changes nothing. -/
theorem readCsr_of_plain {s : State} {b : RegBlock} {a : Nat} (hr : RegAt s b a) (hb : b ∉ shownRegs) :
    readCsr a s = (regGet s a, s) := by
  obtain ⟨hblock, -, -, hqueue⟩ := hr
  have hdata : b ≠ Reg.XLT_PTW_DATA := by rintro rfl; exact hb (by decide)
  have hrail : b ≠ Reg.PWR_RAIL := by rintro rfl; exact hb (by decide)
  simp [readCsr, hqueue, hblock, hdata, hrail, shownWord_of_plain hb]

theorem readWidth_of_plain {s : State} {b : RegBlock} {a : Nat} (hr : RegAt s b a) (hb : b ∉ shownRegs) :
    readWidth a 8 s = (regGet s a, s) := by
  simp [readWidth, hr.aligned, readCsr_of_plain hr hb]

/-- A run of one such register gives its 8 bytes. -/
theorem readRun_one_of_plain {s : State} {b : RegBlock} {a : Nat} (hr : RegAt s b a) (hb : b ∉ shownRegs) :
    readRun 8 1 a s = (leBytes 8 (regGet s a), false, s) := by
  simp [readRun, hr.aligned, hr.mapped, readWidth_of_plain hr hb]

/-- A run that begins at an unmapped address gives nothing. -/
theorem readRun_of_unmapped {s : State} {a n : Nat} (ha : a % 8 = 0) (hm : csrMapped s a = false) (hn : 1 ≤ n) :
    readRun 8 n a s = ([], true, s) := by
  obtain ⟨k, rfl⟩ := Nat.exists_eq_add_of_le' hn
  simp [readRun, alignDown_of_dvd ha, hm]

/-! ### Writes -/

/-- The clock and one register apart, nothing but the control plane differs. -/
def RegisterOnly (a : Nat) (s s' : State) : Prop :=
  SameRegs [a] s s' ∧ SameMemory s s' ∧ SameEngines s s' ∧ SameFabric s s' ∧ SamePlatform s s' ∧ SameModes s s'

theorem registerOnly_of_adv {t : Ltc} {a : Nat} {s s' : State} (h : RegisterOnly a (adv t s) s') : RegisterOnly a s s' := by
  simpa [RegisterOnly, SameMemory, SameEngines, SameFabric, SamePlatform, SameModes, SameRegs] using h

/-- A plain store works on its register alone. -/
theorem storeReg_registerOnly (b : RegBlock) (a v : Nat) (s : State) : RegisterOnly a s (storeReg b a v s) := by
  refine ⟨fun c hc => regGet_regSet_of_ne _ _ (List.ne_of_not_mem_cons hc), ?_⟩
  simp [storeReg, SameMemory, SameEngines, SameFabric, SamePlatform, SameModes]

@[simp] theorem storeReg_ctl (b : RegBlock) (a v : Nat) (s : State) : (storeReg b a v s).ctl = s.ctl := by simp [storeReg]

@[simp] theorem storeReg_clk (b : RegBlock) (a v : Nat) (s : State) : (storeReg b a v s).clk = s.clk := by simp [storeReg]

@[simp] theorem storeReg_mem (b : RegBlock) (a v : Nat) (s : State) : (storeReg b a v s).mem = s.mem := by simp [storeReg]

/-- A plain store sets the RW bits as written and keeps every other bit (R12). -/
theorem testBit_storeReg {b : RegBlock} {a : Nat} (hblock : Reg.blockOf a = some b) (hb : b ≠ Reg.MEM_REFRESH_CTRL) (v : Nat)
    (s : State) {i : Nat} (hi : i < 64) :
    (regGet (storeReg b a v s) a).testBit i = if b.rw.testBit i then v.testBit i else (regGet s a).testBit i := by
  have hmask : rwMask s b = b.rw := by simp [rwMask, hb]
  have hkeep : (2 ^ 64 - 1 - b.rw).testBit i = !b.rw.testBit i := by
    rw [Nat.sub_sub, Nat.add_comm, Nat.testBit_two_pow_sub_succ (rw_lt_of_blockOf hblock)]
    simp [hi]
  rw [storeReg, hmask, regGet_regSet_self, Nat.testBit_mod_two_pow, Nat.testBit_or, Nat.testBit_and, Nat.testBit_and, hkeep]
  cases b.rw.testBit i <;> simp [hi]

theorem ne_refreshCtrl_of_storing {b : RegBlock} (hb : b ∉ actingRegs) : b ≠ Reg.MEM_REFRESH_CTRL := by
  rintro rfl
  exact hb (by decide)

/-- An 8-byte write of a register whose writes only store is a plain store. -/
theorem writeCsr_of_storing {s : State} {b : RegBlock} {a : Nat} (hr : RegAt s b a) (hb : b ∉ actingRegs) (v : Nat) :
    writeCsr a 8 v s = storeReg b a v s := by
  simp only [actingRegs, List.mem_cons, List.not_mem_nil, or_false, not_or] at hb
  simp [writeCsr, hr.1, hr.aligned, writeReg, hb]

/-- A command that stored into one register and is answered in time: its reply, the bits, and what else stands (R12, R59). -/
theorem finish_storeReg {s : State} {h : CmdHdr} {b : RegBlock} {a : Nat} (hw : Waits s h) (hr : RegAt s b a)
    (hb : b ∉ actingRegs) (hl : cmdLate s h = false) (payload : List Byte) (v : Nat) :
    Answered (finish h Status.OK payload (storeReg b a v s)) h Status.OK payload ∧
      (∀ i < 64, (regGet (finish h Status.OK payload (storeReg b a v s)) a).testBit i =
        if b.rw.testBit i then v.testBit i else (regGet s a).testBit i) ∧
      RegisterOnly a s (finish h Status.OK payload (storeReg b a v s)) := by
  have hlate : cmdLate (storeReg b a v s) h = false := by rw [cmdLate_congr (storeReg_clk b a v s), hl]
  have hregs (c : Nat) := regGet_congr (finish_regs_of_inTime (status := Status.OK) payload hlate (by decide)) c
  obtain ⟨hother, hstored⟩ := storeReg_registerOnly b a v s
  refine ⟨finish_answered _ _ (by decide) (waits_of_journal (by simp) hw), fun i hi => ?_, fun c hc => ?_, ?_⟩
  · rw [hregs, testBit_storeReg hr.1 (ne_refreshCtrl_of_storing hb) v s hi]
  · rw [hregs, hother c hc]
  · simpa [SameMemory, SameEngines, SameFabric, SamePlatform, SameModes] using hstored

/-- The value CSR_MODIFY writes has the bits of VALUE under MASK and the old ones elsewhere (R59). -/
theorem testBit_modified (x : Nat) (m v : Word) {i : Nat} (hi : i < 64) :
    ((x &&& (2 ^ 64 - 1 - m.toNat)) ||| (v.toNat &&& m.toNat)).testBit i =
      if m.toNat.testBit i then v.toNat.testBit i else x.testBit i := by
  rw [Nat.sub_sub, Nat.add_comm 1, Nat.testBit_or, Nat.testBit_and, Nat.testBit_and, Nat.testBit_two_pow_sub_succ m.isLt]
  cases m.toNat.testBit i <;> simp [hi]

/-! ### The commands -/

theorem csrRead_of_plain {t : Ltc} {h : CmdHdr} {a : BitVec 32} {b : RegBlock} {s : State} (hs : Suits h .platform)
    (hw : Waits s h) (hr : RegAt s b a.toNat) (hb : b ∉ shownRegs) :
    ∃ s', exec (.csrRead t h a 8 1) s = .next s' ∧ Answered s' h Status.OK (leBytes 8 (regGet s a.toNat)) ∧ ControlOnly s s' := by
  have hrun := readRun_one_of_plain (regAt_adv t hr) hb
  rw [adv_regGet] at hrun
  refine ⟨okCmd h (leBytes 8 (regGet s a.toNat)) (adv t s), ?_, okCmd_answered _ (waits_adv t hw),
    controlOnly_of_adv (finish_controlOnly _ _ _ _)⟩
  show execCsrRead t h a 8 1 s = _
  rw [execCsrRead, opcode_of_suits _ _ _ hs]
  simp [hr.accessOk, hrun, okCmd]

theorem csrRead_of_unmapped {t : Ltc} {h : CmdHdr} {a : BitVec 32} {n : BitVec 16} {s : State} (hs : Suits h .platform)
    (hw : Waits s h) (ha : a.toNat % 8 = 0) (hm : csrMapped s a.toNat = false) (hn : 1 ≤ n.toNat) (hn' : n.toNat ≤ 512) :
    ∃ s', exec (.csrRead t h a 8 n) s = .next s' ∧ Answered s' h Status.CSR_UNMAPPED [] ∧ ControlOnly s s' := by
  have hrun := readRun_of_unmapped ha ((csrMapped_adv t s _).trans hm) hn
  have haccess : accessOk a.toNat 8 = true := by simp [accessOk, ha]
  have hsome : decide (n.toNat = 0) = false := decide_eq_false (by omega)
  have hmost : decide (512 < n.toNat) = false := decide_eq_false (by omega)
  refine ⟨refuseCmd h Status.CSR_UNMAPPED (adv t s), ?_, refuseCmd_answered _ (by decide) (waits_adv t hw),
    controlOnly_of_adv (finish_controlOnly _ _ _ _)⟩
  show execCsrRead t h a 8 n s = _
  rw [execCsrRead, opcode_of_suits _ _ _ hs]
  simp [haccess, hsome, hmost, hrun, refuseCmd]

theorem csrWrite_of_storing {t : Ltc} {h : CmdHdr} {a : BitVec 32} {v : Word} {b : RegBlock} {s : State}
    (hs : Suits h .platform) (hw : Waits s h) (hr : RegAt s b a.toNat) (hb : b ∉ actingRegs)
    (hl : cmdLate (adv t s) h = false) :
    ∃ s', exec (.csrWrite t h a 8 [v]) s = .next s' ∧ Answered s' h Status.OK [] ∧
      (∀ i < 64, (regGet s' a.toNat).testBit i =
        if b.rw.testBit i then v.toNat.testBit i else (regGet s a.toNat).testBit i) ∧ RegisterOnly a.toNat s s' := by
  have hr' := regAt_adv t hr
  obtain ⟨hans, hbits, honly⟩ := finish_storeReg (waits_adv t hw) hr' hb hl [] v.toNat
  refine ⟨_, ?_, hans, by simpa using hbits, registerOnly_of_adv honly⟩
  show execCsrWrite t h a 8 [v] s = _
  rw [execCsrWrite, opcode_of_suits _ _ _ hs]
  simp [hr.accessOk, writeRun, hr.aligned, hr.mapped, writeCsr_of_storing hr' hb, finishWrites_of_noneHeld]

theorem csrModify_of_storing {t : Ltc} {h : CmdHdr} {a : BitVec 32} {m v : Word} {b : RegBlock} {s : State}
    (hs : Suits h .platform) (hw : Waits s h) (hr : RegAt s b a.toNat) (hb : b ∉ actingRegs) (hplain : b ∉ shownRegs)
    (hl : cmdLate (adv t s) h = false) :
    ∃ s', exec (.csrModify t h a 8 m v) s = .next s' ∧ Answered s' h Status.OK (leBytes 8 (regGet s a.toNat)) ∧
      (∀ i < 64, (regGet s' a.toNat).testBit i =
        if b.rw.testBit i && m.toNat.testBit i then v.toNat.testBit i else (regGet s a.toNat).testBit i) ∧
      RegisterOnly a.toNat s s' := by
  have hr' := regAt_adv t hr
  have hread := readWidth_of_plain hr' hplain
  rw [adv_regGet] at hread
  obtain ⟨hans, hbits, honly⟩ := finish_storeReg (waits_adv t hw) hr' hb hl (leBytes 8 (regGet s a.toNat))
    ((regGet s a.toNat &&& (2 ^ 64 - 1 - m.toNat)) ||| (v.toNat &&& m.toNat))
  refine ⟨_, ?_, hans, fun i hi => ?_, registerOnly_of_adv honly⟩
  · show execCsrModify t h a 8 m v s = _
    rw [execCsrModify, opcode_of_suits _ _ _ hs]
    simp [hr.accessOk, hr.aligned, hr.mapped, hread, writeCsr_of_storing hr' hb, finishWrites_of_noneHeld, -Nat.reducePow]
  · rw [hbits i hi, testBit_modified _ m v hi, adv_regGet]
    cases b.rw.testBit i <;> simp

/-- An 8-byte register matches a 64-bit value under a mask. -/
theorem pollHit_eight (x : Nat) (m v : Word) :
    pollHit x 8 m.toNat v.toNat = true ↔ x % 2 ^ 64 &&& m.toNat = v.toNat &&& m.toNat := by
  have hm : m.toNat % 2 ^ 64 = m.toNat := Nat.mod_eq_of_lt m.isLt
  have hv : v.toNat % 2 ^ 64 = v.toNat := Nat.mod_eq_of_lt v.isLt
  unfold pollHit
  rw [decide_eq_true_iff, Nat.and_mod_two_pow, Nat.and_mod_two_pow, hm, hv]

theorem csrPoll_of_plain {t : Ltc} {h : CmdHdr} {a : BitVec 32} {m v : Word} {n : BitVec 16} {b : RegBlock} {s : State}
    (hs : Suits h .platform) (hw : Waits s h) (hr : RegAt s b a.toNat) (hb : b ∉ shownRegs) (hn : n ≠ 0) :
    ∃ s', exec (.csrPoll t h a 8 m v n) s = .next s' ∧ ControlOnly s s' ∧
      (regGet s a.toNat % 2 ^ 64 &&& m.toNat = v.toNat &&& m.toNat →
        Answered s' h Status.OK (leBytes 8 (regGet s a.toNat))) ∧
      (regGet s a.toNat % 2 ^ 64 &&& m.toNat ≠ v.toNat &&& m.toNat → Running s' h) := by
  have hread := readWidth_of_plain (regAt_adv t hr) hb
  rw [adv_regGet] at hread
  have hlimit : n ≠ 0#16 := hn
  have hrun : exec (.csrPoll t h a 8 m v n) s = .next (if pollHit (regGet s a.toNat) 8 m.toNat v.toNat
      then okCmd h (leBytes 8 (regGet s a.toNat)) (adv t s) else beginLong h (adv t s)) := by
    show execCsrPoll t h a 8 m v n s = _
    rw [execCsrPoll, opcode_of_suits _ _ _ hs]
    simp [hr.accessOk, hr.aligned, hr.mapped, hread, hlimit]
  by_cases hhit : pollHit (regGet s a.toNat) 8 m.toNat v.toNat = true
  · rw [if_pos hhit] at hrun
    exact ⟨_, hrun, controlOnly_of_adv (finish_controlOnly _ _ _ _), fun _ => okCmd_answered _ (waits_adv t hw),
      fun hne => absurd ((pollHit_eight _ m v).1 hhit) hne⟩
  · rw [if_neg hhit] at hrun
    exact ⟨_, hrun, controlOnly_of_adv (beginLong_controlOnly _ _), fun heq => absurd ((pollHit_eight _ m v).2 heq) hhit,
      fun _ => beginLong_running (waits_adv t hw)⟩

theorem pollTimeout_of_miss {t began : Ltc} {e : JEntry} {b : RegBlock} {s : State}
    (he : entryBy s e.h.session e.h.seq = some e) (hst : e.st = .running began) (hop : e.h.opcode = 0x0103)
    (hlimit : began.toNat + pollNs e ≤ now (adv t s)) (hr : RegAt s b (parAt (ownParams e.h e.params) 0 4))
    (hb : b ∉ shownRegs) (hwidth : parAt (ownParams e.h e.params) 4 1 = 8)
    (hmiss : pollHit (regGet s (parAt (ownParams e.h e.params) 0 4)) 8 (parAt (ownParams e.h e.params) 5 8)
      (parAt (ownParams e.h e.params) 13 8) = false) :
    ∃ s', exec (.pollTimeout t e.h.session e.h.seq) s = .next s' ∧ ControlOnly s s' ∧
      Answered s' e.h Status.POLL_TIMEOUT (leBytes 8 (regGet s (parAt (ownParams e.h e.params) 0 4))) := by
  have hread := readWidth_of_plain (regAt_adv t hr) hb
  rw [adv_regGet] at hread
  have hentry : entryBy (adv t s) e.h.session e.h.seq = some e := by simpa [entryBy] using he
  have hends : pollEnds e (adv t s) = finish e.h Status.POLL_TIMEOUT
      (leBytes 8 (regGet s (parAt (ownParams e.h e.params) 0 4))) (adv t s) := by
    simp [pollEnds, hwidth, hread, hmiss]
  refine ⟨pollEnds e (adv t s), ?_, ?_, ?_⟩
  · show execPollTimeout t e.h.session e.h.seq s = _
    simp [execPollTimeout, hentry, hst, hop, hlimit]
  · exact hends ▸ controlOnly_of_adv (finish_controlOnly _ _ _ _)
  · exact hends ▸ finish_answered _ _ (by decide) (waits_adv t (waits_of_entryBy he hst))

theorem registerWrite_of_storing {t : Ltc} {a : BitVec 32} {v : Word} {b : RegBlock} {s : State} (hr : RegAt s b a.toNat)
    (hb : b ∉ actingRegs) :
    ∃ s', exec (.registerWrite t a v) s = .next s' ∧
      (∀ i < 64, (regGet s' a.toNat).testBit i =
        if b.rw.testBit i then v.toNat.testBit i else (regGet s a.toNat).testBit i) ∧
      s'.ctl = s.ctl ∧ RegisterOnly a.toNat s s' := by
  refine ⟨storeReg b a.toNat v.toNat (adv t s), ?_, fun i hi => ?_, by simp,
    registerOnly_of_adv (storeReg_registerOnly _ _ _ _)⟩
  · show execRegisterWrite t a v s = _
    simp [execRegisterWrite, hr.aligned, hr.mapped, writeCsr_of_storing (regAt_adv t hr) hb]
  · rw [testBit_storeReg hr.1 (ne_refreshCtrl_of_storing hb) _ _ hi, adv_regGet]

/-- Settles O12: reads and polls show the register file, and each write is a plain store of the RW bits. -/
theorem csrAccessTouchesRwBits : Obligations.CsrAccessTouchesRwBits := by
  unfold Obligations.CsrAccessTouchesRwBits
  refine ⟨?read, ?unmapped, ?write, ?modify, ?poll, ?pollTimeout, ?registerWrite⟩
  case read => exact fun _ _ _ _ _ hs hw hr hb => csrRead_of_plain hs hw hr hb
  case unmapped => exact fun _ _ _ _ _ hs hw ha hm hn hn' => csrRead_of_unmapped hs hw ha hm hn hn'
  case write => exact fun _ _ _ _ _ _ hs hw hr hb hl => csrWrite_of_storing hs hw hr hb hl
  case modify => exact fun _ _ _ _ _ _ _ hs hw hr hb hplain hl => csrModify_of_storing hs hw hr hb hplain hl
  case poll => exact fun _ _ _ _ _ _ _ _ hs hw hr hb hn => csrPoll_of_plain hs hw hr hb hn
  case pollTimeout =>
    exact fun _ _ _ _ _ he hst hop hlimit hr hb hwidth hmiss => pollTimeout_of_miss he hst hop hlimit hr hb hwidth hmiss
  case registerWrite =>
    intro t a v b s hr hb
    obtain ⟨s', hrun, hbits, hctl, hregs, hrest⟩ := registerWrite_of_storing (t := t) (v := v) hr hb
    exact ⟨s', hrun, hbits, hregs, hctl, hrest⟩

end Sys2Proof.Machine
